-- ==== Sys2Proof/Word.lean ====
section
/-! DEFINITION. The word types of the model and the plainest of its arithmetic. -/
namespace Sys2Proof

/-- One byte of memory. -/
abbrev Byte := BitVec 8

/-- One lane of a vector register (06 R111). -/
abbrev Word := BitVec 32

/-- A scalar register, a mask or a CSR. -/
abbrev Dword := BitVec 64

/-- A virtual address: device 13, kind 3, offset 64 (03 R51). -/
abbrev VAddr := BitVec 80

/-- A sparse table of bit vectors by number: the entries stand in rising order of their numbers, and none is zero. -/
abbrev Store (n : Nat) := List (Nat × BitVec n)

/-- A table of records by number, in rising order of the numbers. -/
abbrev Tab (α : Type) := List (Nat × α)

end Sys2Proof
end

