-- ==== Sys2Proof/Syntax.lean ====
section
/-! DEFINITION. The instructions of Hokulys 7: one constructor for each row of spec/opcode_table.json.
The first part holds the 32-bit instruction words (02 R22, R43, Table 16); a field is a bit vector of the width that
its format gives it (02 R23), named as the table names it. The second part holds the steps of the units, which have no
word: their operands name what acts and what arrives from outside. -/
namespace Sys2Proof

/-- The fields of a 16-byte operator instruction after its opcode byte (10 R217, Table 6). -/
structure OpFields where
  flags : BitVec 8
  cls : BitVec 4
  hint : BitVec 4
  mbz : BitVec 8
  da : BitVec 16
  db : BitVec 16
  dc : BitVec 16
  aux : BitVec 16
  wevt : BitVec 16
  sevt : BitVec 16
  deriving DecidableEq, Repr


/-- A command packet: the bytes of its header word and its payload words (11 R242). -/
structure Packet where
  flags : BitVec 8
  count : BitVec 16
  typ : BitVec 8
  payload : List (BitVec 32)
  deriving DecidableEq, Repr

/-- Why an address is translated: the grant that its leaf must give (03 R62). -/
inductive Grant
  | load | store | fetch | wait
  deriving DecidableEq, Repr

/-- The privilege of an access: U, S, H (13 R279). -/
inductive Mode
  | u | s | h
  deriving DecidableEq, Repr

/-- A walk request: the partition, the mode, the grant and the address (03 R64). -/
structure WalkReq where
  part : Nat
  mode : Mode
  grant : Grant
  va : VAddr
  deriving DecidableEq, Repr

/-- The atomic operations in the order of their majors (12 Table 11). -/
inductive AtOp
  | add | smin | smax | nmin | nmax | and | or | xor | xch | cas | fadd | badd2
  deriving DecidableEq, Repr

/-- What an access that comes from outside the compute cores does: a read of bytes, a write of bytes, an atomic of 4 or 8
bytes with its operand and its compare value. -/
inductive AccessKind
  | read (bytes : Nat)
  | write (data : List Byte)
  | atomic (op : AtOp) (wide : Bool) (val cmp : BitVec 64)
  deriving DecidableEq, Repr

/-- An access that arrives over UALink: the device and the partition that sent it, its address, what it does, and whether a copy engine
sent it (03 R52, R60). -/
structure RemoteReq where
  dev : Nat
  part : Nat
  va : VAddr
  kind : AccessKind
  copy : Bool
  deriving DecidableEq, Repr

/-- A host-complex access: the physical address in the map of 15 Table 1, whether it comes from S, VS or U mode, and what it
does (15 R320). -/
structure HostAccess where
  addr : Nat
  mmode : Bool
  hsmode : Bool
  kind : AccessKind
  deriving DecidableEq, Repr

/-- An event signal that arrives over UALink: decrement by n, or set to n (10 R228). -/
structure RemoteSignal where
  dev : Nat
  part : Nat
  handle : BitVec 32
  set : Bool
  n : BitVec 32
  deriving DecidableEq, Repr

/-- A chunk that arrives at a partition's landing area, or is written by a copy firing (09 R201, R205). -/
structure Arrival where
  part : Nat
  sdev : Nat
  tile : BitVec 32
  chunk : BitVec 16
  round : BitVec 16
  op : BitVec 8
  fmt : BitVec 8
  cmp : Bool
  ovf : Bool
  poisoned : List Nat
  revt : BitVec 32
  rdst : VAddr
  data : List Byte
  deriving DecidableEq, Repr

/-- A write to a queue doorbell: the queue, whether it was one aligned write of 64 bytes, and its bytes (11 R239). -/
structure WakeMsg where
  q : Nat
  whole : Bool
  data : List Byte
  deriving DecidableEq, Repr

/-- A published object received from a peer (14 R319). -/
structure CastMsg where
  dev : Nat
  part : Nat
  off : Nat
  record : List Byte
  code : List Byte
  revt : BitVec 32
  deriving DecidableEq, Repr

/-- A message at a frontend port: its region key, its offset, its bytes (15 R324). -/
structure RdmaMsg where
  rkey : BitVec 32
  off : Nat
  data : List Byte
  deriving DecidableEq, Repr

/-- What a start finds outside the registers: the step whose work fails, whether the stored training parameters pass their check, the pool
size read by the firmware, and the firmware image of the boot store with its key, its version and its signature beside the fused hash and
the fused minimum (15 R327, R328). -/
structure BootInput where
  /-- The number of the failing step; 0 or more than 6 if none fails. Step 4 also fails by its own conditions. -/
  failAt : Nat
  storedOk : Bool
  poolSz : BitVec 8
  image : List Byte
  key : List Byte
  version : Nat
  signature : List Byte
  fusedHash : BitVec 256
  fusedVersion : Nat
  deriving DecidableEq, Repr, Inhabited

/-- Which register a register write names: a CSR written by the group that issues, a CSR of the debug window, a register
of the hub housekeeping block, or one of the hub queue block (00 R6, 15 R320, R321). -/
inductive RegTarget
  | csr (n : BitVec 11)
  | debug (unit : Nat) (n : BitVec 11)
  | housekeeping (off : Nat)
  | queueBlock (off : Nat)
  deriving DecidableEq, Repr


/-- The instructions: one constructor for each row of the opcode table. -/
inductive Instr where
  /-- LIT (R33). Prefix that supplies a 25-bit payload to the following instruction, which issues with it as one instruction. -/
  | lit (p : BitVec 25)
  /-- IX (R32). Prefix that makes the d, a or b fields of the following instruction indirect through x0-x3. -/
  | ix (e : BitVec 1) (d : BitVec 2) (f : BitVec 1) (a : BitVec 2) (g : BitVec 1) (b : BitVec 2)
  /-- BRA (R133). Unconditional PC-relative branch. -/
  | bra (h : BitVec 2) (p : BitVec 19)
  /-- BRANY (R133). Branches when any active lane is set in the mask register. -/
  | brany (k : BitVec 4) (h : BitVec 2) (p : BitVec 19)
  /-- BRALL (R133). Branches when every active lane is set in the mask register. -/
  | brall (k : BitVec 4) (h : BitVec 2) (p : BitVec 19)
  /-- BRNONE (R133). Branches when no active lane is set in the mask register. -/
  | brnone (k : BitVec 4) (h : BitVec 2) (p : BitVec 19)
  /-- CALL (R133). Branches and writes the return address into s15. -/
  | call (h : BitVec 2) (p : BitVec 19)
  /-- JMPR (R134). Jumps to the address in an s register, optionally linking. -/
  | jmpr (d : BitVec 7) (a : BitVec 7)
  /-- RET (R134). Jumps to the address in an s register without linking, marked as a return. -/
  | ret (a : BitVec 7)
  /-- WINB (R100). Sets the register window base, trapping WIN when it exceeds the mode's view. -/
  | winb (a : BitVec 7) (i : BitVec 11)
  /-- SYSC (R287). Per-lane system call that traps SYSC with the caller's d and code. -/
  | sysc (d : BitVec 7) (c : BitVec 18)
  /-- HCALL (R287). Hypervisor call that traps HCALL to H, or PRIV in U mode. -/
  | hcall (d : BitVec 7) (c : BitVec 18)
  /-- TRAP (R287). Raises trap cause TRAP with the given code. -/
  | trap (d : BitVec 7) (c : BitVec 18)
  /-- CSRR (R281). Reads a CSR into a register after the access checks of R280. -/
  | csrr (d : BitVec 7) (c : BitVec 11)
  /-- CSRW (R281). Writes a CSR, returning the old value, with the CSR's own side effects. -/
  | csrw (d : BitVec 7) (c : BitVec 11) (a : BitVec 7)
  /-- PUBL (R318). Checks, hashes, seals and places staged code in the partition's publish window. -/
  | publ (d : BitVec 7) (a : BitVec 7) (b : BitVec 7)
  /-- IADD (R137). Integer add with the type code of fn. -/
  | iadd (d : BitVec 7) (a : BitVec 7) (b : BitVec 7) (f : BitVec 4)
  /-- ISUB (R137). Integer subtract with the type code of fn. -/
  | isub (d : BitVec 7) (a : BitVec 7) (b : BitVec 7) (f : BitVec 4)
  /-- IMUL (R137). Integer multiply with the type code of fn. -/
  | imul (d : BitVec 7) (a : BitVec 7) (b : BitVec 7) (f : BitVec 4)
  /-- IMULH (R137). High half of an integer product. -/
  | imulh (d : BitVec 7) (a : BitVec 7) (b : BitVec 7) (f : BitVec 4)
  /-- IMAD (R137). Integer multiply-add into d. -/
  | imad (d : BitVec 7) (a : BitVec 7) (b : BitVec 7) (f : BitVec 4)
  /-- IDIV (R140). Long-latency 32-bit signed division. -/
  | idiv (d : BitVec 7) (a : BitVec 7) (b : BitVec 7) (l : BitVec 4)
  /-- IREM (R140). Long-latency 32-bit signed remainder. -/
  | irem (d : BitVec 7) (a : BitVec 7) (b : BitVec 7) (l : BitVec 4)
  /-- IMNX (R138). Integer minimum or maximum by type. -/
  | imnx (d : BitVec 7) (a : BitVec 7) (b : BitVec 7) (m : BitVec 1) (t : BitVec 2)
  /-- AND (R138). Bitwise AND. -/
  | and (d : BitVec 7) (a : BitVec 7) (b : BitVec 7) (f : BitVec 2)
  /-- OR (R138). Bitwise OR. -/
  | or (d : BitVec 7) (a : BitVec 7) (b : BitVec 7) (f : BitVec 2)
  /-- XOR (R138). Bitwise XOR. -/
  | xor (d : BitVec 7) (a : BitVec 7) (b : BitVec 7) (f : BitVec 2)
  /-- ANDN (R138). Bitwise AND with complement. -/
  | andn (d : BitVec 7) (a : BitVec 7) (b : BitVec 7) (f : BitVec 2)
  /-- SHL (R138). Shift left by a register amount. -/
  | shl (d : BitVec 7) (a : BitVec 7) (b : BitVec 7) (f : BitVec 2)
  /-- SHR (R138). Logical shift right by a register amount. -/
  | shr (d : BitVec 7) (a : BitVec 7) (b : BitVec 7) (f : BitVec 2)
  /-- SRA (R138). Arithmetic shift right by a register amount. -/
  | sra (d : BitVec 7) (a : BitVec 7) (b : BitVec 7) (f : BitVec 2)
  /-- ROT (R138). Rotate left by a register amount. -/
  | rot (d : BitVec 7) (a : BitVec 7) (b : BitVec 7) (f : BitVec 2)
  /-- BITS (R138). Population count, leading or trailing zeros, or bit reversal. -/
  | bits (d : BitVec 7) (a : BitVec 7) (f : BitVec 3)
  /-- BFX (R138). Bit-field extract with zero or sign extension. -/
  | bfx (d : BitVec 7) (a : BitVec 7) (b : BitVec 7) (f : BitVec 1)
  /-- BFI (R138). Bit-field insert into d. -/
  | bfi (d : BitVec 7) (a : BitVec 7) (b : BitVec 7)
  /-- ICMP (R139). Integer compare into a mask register. -/
  | icmp (d : BitVec 7) (a : BitVec 7) (b : BitVec 7) (t : BitVec 2) (c : BitVec 2)
  /-- SEL (R139). Per-lane select between a and b by a mask register named in fn. -/
  | sel (d : BitVec 7) (a : BitVec 7) (b : BitVec 7) (k : BitVec 4)
  /-- MOV (R138). 32- or 64-bit register move. -/
  | mov (d : BitVec 7) (a : BitVec 7) (f : BitVec 1)
  /-- IADDI (R141). Add an immediate. -/
  | iaddi (d : BitVec 7) (a : BitVec 7) (i : BitVec 11)
  /-- ANDI (R141). AND with an immediate. -/
  | andi (d : BitVec 7) (a : BitVec 7) (i : BitVec 11)
  /-- ORI (R141). OR with an immediate. -/
  | ori (d : BitVec 7) (a : BitVec 7) (i : BitVec 11)
  /-- XORI (R141). XOR with an immediate. -/
  | xori (d : BitVec 7) (a : BitVec 7) (i : BitVec 11)
  /-- SHFTI (R142). Shift or rotate by an immediate amount. -/
  | shfti (d : BitVec 7) (a : BitVec 7) (o : BitVec 2) (w : BitVec 1) (c : BitVec 6)
  /-- ICMPI (R142). Compare with an immediate into a mask register. -/
  | icmpi (d : BitVec 7) (a : BitVec 7) (c : BitVec 3) (v : BitVec 8)
  /-- MOVI (R141). Load an immediate. -/
  | movi (d : BitVec 7) (i : BitVec 11)
  /-- ABSET (R143). Writes the low 64 bits or the high 16 bits of an address base register. -/
  | abset (n : BitVec 3) (a : BitVec 7) (h : BitVec 1) (i : BitVec 10)
  /-- AADD (R144). 64-bit address add with extended and shifted b. -/
  | aadd (d : BitVec 7) (a : BitVec 7) (b : BitVec 7) (e : BitVec 2) (s : BitVec 2)
  /-- I64 (R145). 64-bit division, remainder, widening multiply or extension. -/
  | i64 (d : BitVec 7) (a : BitVec 7) (b : BitVec 7) (f : BitVec 3)
  /-- FADD (R147). FP32 add with one rounding. -/
  | fadd (d : BitVec 7) (a : BitVec 7) (b : BitVec 7) (r : BitVec 2)
  /-- FSUB (R147). FP32 subtract with one rounding. -/
  | fsub (d : BitVec 7) (a : BitVec 7) (b : BitVec 7) (r : BitVec 2)
  /-- FMUL (R147). FP32 multiply with one rounding. -/
  | fmul (d : BitVec 7) (a : BitVec 7) (b : BitVec 7) (r : BitVec 2)
  /-- FFMA (R147). FP32 fused multiply-add into d. -/
  | ffma (d : BitVec 7) (a : BitVec 7) (b : BitVec 7) (r : BitVec 2)
  /-- FMIN (R148). FP32 minimum, NUM or NAN flavour. -/
  | fmin (d : BitVec 7) (a : BitVec 7) (b : BitVec 7) (f : BitVec 1)
  /-- FMAX (R148). FP32 maximum, NUM or NAN flavour. -/
  | fmax (d : BitVec 7) (a : BitVec 7) (b : BitVec 7) (f : BitVec 1)
  /-- FCMP (R149). FP32 compare into a mask register. -/
  | fcmp (d : BitVec 7) (a : BitVec 7) (b : BitVec 7) (c : BitVec 3)
  /-- FSGN (R150). Sign copy, negate, XOR or absolute value on bits. -/
  | fsgn (d : BitVec 7) (a : BitVec 7) (b : BitVec 7) (f : BitVec 4)
  /-- FRCP (R151). Long-latency reciprocal. -/
  | frcp (d : BitVec 7) (a : BitVec 7) (l : BitVec 4)
  /-- FRSQ (R151). Long-latency reciprocal square root. -/
  | frsq (d : BitVec 7) (a : BitVec 7) (l : BitVec 4)
  /-- FEXP2 (R151). Long-latency base-2 exponential. -/
  | fexp2 (d : BitVec 7) (a : BitVec 7) (l : BitVec 4)
  /-- FLOG2 (R151). Long-latency base-2 logarithm. -/
  | flog2 (d : BitVec 7) (a : BitVec 7) (l : BitVec 4)
  /-- FSIN (R151). Long-latency sine. -/
  | fsin (d : BitVec 7) (a : BitVec 7) (l : BitVec 4)
  /-- FCOS (R151). Long-latency cosine. -/
  | fcos (d : BitVec 7) (a : BitVec 7) (l : BitVec 4)
  /-- FTANH (R151). Long-latency hyperbolic tangent. -/
  | ftanh (d : BitVec 7) (a : BitVec 7) (l : BitVec 4)
  /-- FCVT (R152). Converts one element between formats with the given rounding. -/
  | fcvt (d : BitVec 7) (a : BitVec 7) (s : BitVec 3) (t : BitVec 3) (n : BitVec 1) (j : BitVec 2) (r : BitVec 2)
  /-- FCVTS (R153). Scales and packs FP32 values into a narrow format. -/
  | fcvts (d : BitVec 7) (a : BitVec 7) (b : BitVec 7) (t : BitVec 2) (r : BitVec 2)
  /-- HADD2 (R154). Packed 16-bit add. -/
  | hadd2 (d : BitVec 7) (a : BitVec 7) (b : BitVec 7) (f : BitVec 1) (r : BitVec 2)
  /-- HMUL2 (R154). Packed 16-bit multiply. -/
  | hmul2 (d : BitVec 7) (a : BitVec 7) (b : BitVec 7) (f : BitVec 1) (r : BitVec 2)
  /-- HFMA2 (R154). Packed 16-bit fused multiply-add. -/
  | hfma2 (d : BitVec 7) (a : BitVec 7) (b : BitVec 7) (f : BitVec 1) (r : BitVec 2)
  /-- DOT4 (R155). Four-way 8-bit dot product added into d. -/
  | dot4 (d : BitVec 7) (a : BitVec 7) (b : BitVec 7) (f : BitVec 4)
  /-- FSCL (R156). Multiplies an FP32 value by a power of two. -/
  | fscl (d : BitVec 7) (a : BitVec 7) (b : BitVec 7) (r : BitVec 2)
  /-- FRND (R156). Rounds an FP32 value to an integral value. -/
  | frnd (d : BitVec 7) (a : BitVec 7) (f : BitVec 4)
  /-- FIC (R157). Classifies one floating-point element. -/
  | fic (d : BitVec 7) (a : BitVec 7) (f : BitVec 4)
  /-- SHFL (R158). Moves values between lanes. -/
  | shfl (d : BitVec 7) (a : BitVec 7) (b : BitVec 7) (f : BitVec 4)
  /-- VOTE (R159). Turns a per-lane test into a mask. -/
  | vote (d : BitVec 7) (a : BitVec 7) (f : BitVec 4)
  /-- RDCE (R160). Reduction across active lanes in a fixed tree order. -/
  | rdce (d : BitVec 7) (a : BitVec 7) (f : BitVec 4)
  /-- SCAN (R160). Inclusive scan across active lanes in ascending order. -/
  | scan (d : BitVec 7) (a : BitVec 7) (f : BitVec 4)
  /-- KOP (R161). Operations on mask registers. -/
  | kop (d : BitVec 7) (a : BitVec 7) (b : BitVec 7) (f : BitVec 4)
  /-- KEM_RD (R135). Copies EM into a mask register. -/
  | kemRd (d : BitVec 7)
  /-- KEM_SET (R135). Sets EM from a mask register. -/
  | kemSet (a : BitVec 7)
  /-- KEM_AND (R135). ANDs EM with a mask register. -/
  | kemAnd (a : BitVec 7)
  /-- KEM_ANDN (R135). ANDs EM with the complement of a mask register. -/
  | kemAndn (a : BitVec 7)
  /-- KEM_SWAP (R135). Exchanges EM with a mask register. -/
  | kemSwap (d : BitVec 7) (a : BitVec 7)
  /-- KCNT (R162). Reads a mask into registers as count, first, last, value or prefix. -/
  | kcnt (d : BitVec 7) (a : BitVec 7) (f : BitVec 4)
  /-- BCST (R163). Broadcasts one lane's value to all active lanes. -/
  | bcst (d : BitVec 7) (a : BitVec 7) (b : BitVec 7) (f : BitVec 1)
  /-- LD (R71). Per-lane load with translation, exact stopping and lookahead. -/
  | ld (d : BitVec 7) (a : BitVec 7) (n : BitVec 3) (s : BitVec 3) (h : BitVec 1) (l : BitVec 4)
  /-- ST (R71). Per-lane store with translation and exact stopping. -/
  | st (d : BitVec 7) (a : BitVec 7) (n : BitVec 3) (s : BitVec 3) (h : BitVec 1)
  /-- LDS (R102). Long-latency scratchpad load by team-relative offset. -/
  | lds (d : BitVec 7) (a : BitVec 7) (n : BitVec 3) (s : BitVec 3) (h : BitVec 1) (l : BitVec 4)
  /-- STS (R102). Scratchpad store by team-relative offset. -/
  | sts (d : BitVec 7) (a : BitVec 7) (n : BitVec 3) (s : BitVec 3) (h : BitVec 1)
  /-- LDX (R267). Strong load read at the coherence point, acquiring with its observer mask. -/
  | ldx (d : BitVec 7) (a : BitVec 7) (o : BitVec 5) (s : BitVec 2) (n : BitVec 3)
  /-- STX (R267). Strong store that releases with its observer mask. -/
  | stx (d : BitVec 7) (a : BitVec 7) (o : BitVec 5) (s : BitVec 2) (n : BitVec 3)
  /-- WAITL (R272). Reads lanes and, if unchanged, sleeps once on their lines before reading again. -/
  | waitl (d : BitVec 7) (a : BitVec 7) (o : BitVec 5) (s : BitVec 1) (n : BitVec 3)
  /-- PREF_L1 (R72). Prefetches lines into the first-level cache and L2. -/
  | prefL1 (a : BitVec 7) (n : BitVec 3) (h : BitVec 1)
  /-- PREF_L2 (R72). Prefetches lines into L2 only. -/
  | prefL2 (a : BitVec 7) (n : BitVec 3) (h : BitVec 1)
  /-- ATADD (R270). Atomic add served by the home teller. -/
  | atadd (d : BitVec 7) (a : BitVec 7) (b : BitVec 7) (n : BitVec 3) (w : BitVec 1)
  /-- ATSMIN (R270). Atomic signed minimum. -/
  | atsmin (d : BitVec 7) (a : BitVec 7) (b : BitVec 7) (n : BitVec 3) (w : BitVec 1)
  /-- ATSMAX (R270). Atomic signed maximum. -/
  | atsmax (d : BitVec 7) (a : BitVec 7) (b : BitVec 7) (n : BitVec 3) (w : BitVec 1)
  /-- ATNMIN (R270). Atomic natural minimum. -/
  | atnmin (d : BitVec 7) (a : BitVec 7) (b : BitVec 7) (n : BitVec 3) (w : BitVec 1)
  /-- ATNMAX (R270). Atomic natural maximum. -/
  | atnmax (d : BitVec 7) (a : BitVec 7) (b : BitVec 7) (n : BitVec 3) (w : BitVec 1)
  /-- ATAND (R270). Atomic AND. -/
  | atand (d : BitVec 7) (a : BitVec 7) (b : BitVec 7) (n : BitVec 3) (w : BitVec 1)
  /-- ATOR (R270). Atomic OR. -/
  | ator (d : BitVec 7) (a : BitVec 7) (b : BitVec 7) (n : BitVec 3) (w : BitVec 1)
  /-- ATXOR (R270). Atomic XOR. -/
  | atxor (d : BitVec 7) (a : BitVec 7) (b : BitVec 7) (n : BitVec 3) (w : BitVec 1)
  /-- ATXCH (R270). Atomic exchange. -/
  | atxch (d : BitVec 7) (a : BitVec 7) (b : BitVec 7) (n : BitVec 3) (w : BitVec 1)
  /-- ATCAS (R270). Atomic compare-and-swap against d. -/
  | atcas (d : BitVec 7) (a : BitVec 7) (b : BitVec 7) (n : BitVec 3) (w : BitVec 1)
  /-- ATFADD (R270). Atomic FP32 add. -/
  | atfadd (d : BitVec 7) (a : BitVec 7) (b : BitVec 7) (n : BitVec 3)
  /-- ATBADD2 (R270). Atomic packed BF16 add. -/
  | atbadd2 (d : BitVec 7) (a : BitVec 7) (b : BitVec 7) (n : BitVec 3)
  /-- KACQ (R263). Acquires a key, ordering reads of its bound region. -/
  | kacq (d : BitVec 7) (a : BitVec 7) (i : BitVec 11)
  /-- KREL (R263). Releases a key after its region's writes are performed and increments GEN. -/
  | krel (d : BitVec 7) (a : BitVec 7) (i : BitVec 11)
  /-- FENCE (R274). Makes later writes releases and earlier reads acquires with its observer mask. -/
  | fence (o : BitVec 5)
  /-- FENCE_PUBB (R274). Publishes shadowed pairs by inverting FRONT in one indivisible step. -/
  | fencePubb (a : BitVec 7) (o : BitVec 5) (n : BitVec 3)
  /-- BAR (R278). Arrives at a team, cluster or grid barrier and waits for the phase to pass. -/
  | bar (d : BitVec 7) (v : BitVec 2) (n : BitVec 4)
  /-- XCP (R90). Starts one copy from a record held in eight scalar registers. -/
  | xcp (d : BitVec 7) (s : BitVec 1)
  /-- XCPD (R91). Starts copies from records in the team's scratchpad. -/
  | xcpd (d : BitVec 7) (a : BitVec 7)
  /-- YIELDC (R92). Branches if no continuation copies are outstanding, else sleeps until the last completes. -/
  | yieldc (k : BitVec 4) (h : BitVec 2) (p : BitVec 19)
  /-- SPOP (R109). Takes the head FULL slot of a ring, waiting while it is not FULL. -/
  | spop (d : BitVec 7) (r : BitVec 7)
  /-- SPOP_OPEN (R109). Opens the next FREE slot of a ring for a producer, waiting while none is FREE. -/
  | spopOpen (d : BitVec 7) (r : BitVec 7)
  /-- SREL (R109). Commits a ring slot, releasing its bytes to the consumer. -/
  | srel (d : BitVec 7) (r : BitVec 7) (b : BitVec 7)
  /-- SREL_FREE (R109). Frees a TAKEN ring slot. -/
  | srelFree (d : BitVec 7) (r : BitVec 7) (b : BitVec 7)
  /-- MBRD (R231). Takes the oldest record from the mailbox, waiting if empty, and acquires. -/
  | mbrd (s : BitVec 2)
  /-- MBRD_TRY (R231). Takes a mailbox record if one is present, else returns all ones. -/
  | mbrdTry (s : BitVec 2)
  /-- JPOST (R233). Posts a tile-job record to a chosen mailbox or the ready queue. -/
  | jpost (d : BitVec 7) (s : BitVec 2) (b : BitVec 7)
  /-- EVSIG (R232). Decrements an event as a release, locally or over UALink. -/
  | evsig (d : BitVec 7) (a : BitVec 7) (b : BitVec 7)
  /-- EVSIG_SET (R232). Sets the counter of a COUNT or LAUNCH event. -/
  | evsigSet (d : BitVec 7) (a : BitVec 7) (b : BitVec 7)
  /-- EVSIG_RD (R232). Reads the counter of a local event. -/
  | evsigRd (d : BitVec 7) (a : BitVec 7)
  /-- TAGA (R197). Allocates a meeting-router tag with a descriptor from scratchpad. -/
  | taga (d : BitVec 7) (a : BitVec 7) (b : BitVec 7)
  /-- TAGF (R197). Frees a tag and waits until it is FREE. -/
  | tagf (d : BitVec 7) (a : BitVec 7)
  /-- MEET (R198). Sends a 4 KiB scratchpad chunk to the tag's router as one contribution. -/
  | meet (d : BitVec 7) (a : BitVec 7) (b : BitVec 7)
  /-- TTRDY (R203). Fires or continues a tile-table entry. -/
  | ttrdy (d : BitVec 7) (a : BitVec 7)
  /-- TILE_TLD (R174). Queues a load of a tile register from memory. -/
  | tileTld (t : BitVec 4) (a : BitVec 7) (n : BitVec 3)
  /-- TILE_TST (R174). Queues a store of a tile register to memory. -/
  | tileTst (t : BitVec 4) (a : BitVec 7) (n : BitVec 3)
  /-- MMA (R175). Queues one dense or sparse tile step into an accumulator. -/
  | mma (d : BitVec 3) (a : BitVec 4) (b : BitVec 4) (f : BitVec 2)
  /-- MJOB (R185). Checks a job card and format block and queues a matrix job. -/
  | mjob (d : BitVec 7) (a : BitVec 7) (b : BitVec 7)
  /-- MJOB_WAIT (R185). Waits until the engine queue is empty and returns the job status. -/
  | mjobWait (d : BitVec 7)
  /-- MJOB_CANCEL (R185). Cancels queued jobs and the running job. -/
  | mjobCancel (d : BitVec 7)
  /-- ACC_ZERO (R176). Queues the zeroing of an accumulator. -/
  | accZero (d : BitVec 3)
  /-- ACC_DRAIN (R176). Queues a raw drain of an accumulator block to memory. -/
  | accDrain (d : BitVec 3) (a : BitVec 7) (n : BitVec 3)
  /-- ACC_CVT (R176). Queues a converted drain of an accumulator block. -/
  | accCvt (d : BitVec 3) (a : BitVec 7) (n : BitVec 3)
  /-- ACC_MOVE (R176). Queues a copy of one accumulator to another. -/
  | accMove (d : BitVec 3) (a : BitVec 3)
  /-- LONG_LATENCY_RESULT (R36). A long-latency instruction's result is written, opening its group's issue if its window had closed. -/
  | longLatencyResult (n : Nat)
  /-- PAGE_WALK_COMPLETE (R64). A walker finishes a walk, filling both TLB levels and answering all joined lanes. -/
  | pageWalkComplete (unit : Nat) (r : WalkReq)
  /-- REMOTE_ACCESS (R60). An access arriving over UALink is bound and translated at the target device. -/
  | remoteAccess (r : RemoteReq)
  /-- DEVMODE_WRITE (R18). Write of DEVMODE, discarded whole on reserved values or locked changes. -/
  | devmodeWrite (v : BitVec 64)
  /-- L2PIN_PIN (R57). Pins L2 units after the checks of Table 4, writing back and zeroing them. -/
  | l2pinPin (v : BitVec 64)
  /-- L2PIN_UNPIN (R57). Unpins L2 units, discarding their contents. -/
  | l2pinUnpin (v : BitVec 64)
  /-- TLBI_ALL (R65). Invalidates every stage-1 TLB entry of the partition. -/
  | tlbiAll (v : BitVec 64)
  /-- TLBI_PAGE (R65). Invalidates stage-1 TLB entries containing the named page. -/
  | tlbiPage (v : BitVec 64)
  /-- TLBIG_ALL (R65). Invalidates every stage-2 TLB entry of the named partition. -/
  | tlbigAll (v : BitVec 64)
  /-- TLBIG_PAGE (R65). Invalidates stage-2 TLB entries containing the named intermediate page. -/
  | tlbigPage (v : BitVec 64)
  /-- CELADD (R68). Hands an unmapped page to the cellar stamped with QEPOCH, which then increments. -/
  | celadd (v : BitVec 64)
  /-- CELTAKE (R69). Read that returns and removes the oldest released cellar entry. -/
  | celtake (d : BitVec 7)
  /-- COPY_QUEUE_SLOT_TAKE (R85). The copy engine takes the head slot of a copy queue once its READY bit is set. -/
  | copyQueueSlotTake (core : Nat) (queue : Nat)
  /-- COPY_COMPLETE (R79). A copy lands its last byte, writes back its home and delivers its completion. -/
  | copyComplete (core : Nat) (copy : Nat)
  /-- COPY_HALT (R86). A copy access fails translation and the copy halts with its resume row. -/
  | copyHalt (core : Nat) (copy : Nat)
  /-- FAULT_LOG_ENTRY_WRITE (R87). The engine writes a waiting fault-log entry and advances WIDX. -/
  | faultLogEntryWrite (core : Nat)
  /-- XQCFG_WRITE (R84). Configures the selected copy queue; setting EN restarts a halted queue. -/
  | xqcfgWrite (v : BitVec 64)
  /-- XFRES (R88). Resumes a halted XCP or XCPD copy from its fault-log entry. -/
  | xfres (v : BitVec 64)
  /-- MATRIX_COMMAND_EXECUTE (R171). The engine performs the next queued TILE, MMA or ACC command. -/
  | matrixCommandExecute (cluster : Nat)
  /-- WALKER_RECORD_WRITE (R183). The walker takes a permit and writes an iteration's copy records into a copy queue. -/
  | walkerRecordWrite (cluster : Nat)
  /-- MATRIX_SLOT_STAGE (R183). The engine takes a FULL ring slot, stages it into a staging tile and frees it. -/
  | matrixSlotStage (cluster : Nat)
  /-- MATRIX_STEP_COMPLETE (R183). A job step completes and returns its permit. -/
  | matrixStepComplete (cluster : Nat)
  /-- MTAGT_WRITE (R188). Configures the tag table, discarded if tags are allocated. -/
  | mtagtWrite (v : BitVec 64)
  /-- CONTRIBUTION (R192). A router takes a contribution and answers or stores it by the tag's state. -/
  | contribution (n : Nat)
  /-- ROUND_RESULT_WRITTEN (R193). The combined chunk is written to DST and EVH decremented, or the tag is poisoned. -/
  | roundResultWritten (part : Nat) (tag : Nat)
  /-- ORPHAN_TIMEOUT (R194). A round's timer expires, freeing its blocks and poisoning the tag. -/
  | orphanTimeout (part : Nat) (tag : Nat)
  /-- MEET_ANSWER (R198). An answer reaches its sender, writing the status record and decrementing the barrier. -/
  | meetAnswer (n : Nat)
  /-- TAG_FREEING_COMPLETE (R192). A FREEING tag becomes FREE once its contributions in the network are answered. -/
  | tagFreeingComplete (part : Nat) (tag : Nat)
  /-- TILE_CHUNK_SEND (R201). The collective unit reads and sends the next chunk-peer pair of a firing. -/
  | tileChunkSend (part : Nat) (entry : Nat)
  /-- FIRING_PAIR_LANDED (R201). A pair lands at its peer; after the last, ROUND advances and LEVT is decremented. -/
  | firingPairLanded (part : Nat) (entry : Nat)
  /-- ARRIVAL_RETRY (R205). A refused arrival is retried after at least 1 µs. -/
  | arrivalRetry (n : Nat)
  /-- LANDING_ARRIVAL (R205). An arriving chunk is placed in a landing slot, the spill ring or refused. -/
  | landingArrival (a : Arrival)
  /-- SPILL_REFETCH (R205). The oldest spilled chunk moves into a free slot and its launch counter is decremented. -/
  | spillRefetch (part : Nat)
  /-- LANDFREE (R206). Frees a landing slot. -/
  | landfree (v : BitVec 64)
  /-- TLAUNCH (R211). Checks a launch record and starts the team or refuses it. -/
  | tlaunch (v : BitVec 64)
  /-- OPERATOR_NOP (R217). Operator opcode with no effect. -/
  | operatorNop (o : OpFields)
  /-- GEMM (R219). Compute operator decoded into tile jobs through its operator table entry. -/
  | operatorGemm (o : OpFields)
  /-- ADD (R219). Compute operator decoded into tile jobs through its operator table entry. -/
  | operatorAdd (o : OpFields)
  /-- BIAS (R219). Compute operator decoded into tile jobs through its operator table entry. -/
  | operatorBias (o : OpFields)
  /-- ACT (R219). Compute operator decoded into tile jobs through its operator table entry. -/
  | operatorAct (o : OpFields)
  /-- RNORM (R219). Compute operator decoded into tile jobs through its operator table entry. -/
  | operatorRnorm (o : OpFields)
  /-- SOFTMAX (R219). Compute operator decoded into tile jobs through its operator table entry. -/
  | operatorSoftmax (o : OpFields)
  /-- OPERATOR_COPY (R219). Compute operator COPY decoded into tile jobs through its operator table entry. -/
  | operatorCopy (o : OpFields)
  /-- ALLRED (R219). Compute operator decoded into tile jobs through its operator table entry. -/
  | operatorAllred (o : OpFields)
  /-- ALLTOALL (R219). Compute operator decoded into tile jobs through its operator table entry. -/
  | operatorAlltoall (o : OpFields)
  /-- OPERATOR_WAIT (R220). Makes every later operator of the stream wait for WEVT to be zero. -/
  | operatorWait (o : OpFields)
  /-- OPERATOR_SIG (R217). Decrements SEVT once every earlier operator of the stream is complete. -/
  | operatorSig (o : OpFields)
  /-- OPERATOR_SEL (R222). After earlier operators complete, reads a word and skips AUX instructions when it is zero. -/
  | operatorSel (o : OpFields)
  /-- OPERATOR_CALL (R222). Decodes a descriptor's instructions as a nested stream. -/
  | operatorCall (o : OpFields)
  /-- OPERATOR_FENCE (R217). Makes every later operator depend on every earlier one. -/
  | operatorFence (o : OpFields)
  /-- OPERATOR_END (R222). Ends the current stream level. -/
  | operatorEnd (o : OpFields)
  /-- OPERATOR_RESERVED (R223). A reserved opcode stops the stream with OPS_RES. -/
  | operatorReserved (opc : BitVec 8) (o : OpFields)
  /-- JOB_POST (R229). A ready job is posted to the least-loaded eligible mailbox with a free slot. -/
  | jobPost (part : Nat)
  /-- OPERATING_POINT_STABLE (R226). The new operating point's clocks are stable and held jobs may be posted. -/
  | operatingPointStable (part : Nat)
  /-- REMOTE_EVENT_SIGNAL (R228). An event decrement or set arriving over UALink is applied or refused. -/
  | remoteEventSignal (r : RemoteSignal)
  /-- WAKE (R239). A 64-byte doorbell write is checked against the coin and may advance QWPTR. -/
  | wake (w : WakeMsg)
  /-- QUEUE_ENABLE (R236). Setting QCTL.EN resets the pointers and starts the queue at position 0. -/
  | queueEnable (q : Nat) (v : BitVec 64)
  /-- QUEUE_DISABLE (R236). Clearing QCTL.EN stops the thread at its next packet boundary. -/
  | queueDisable (q : Nat) (v : BitVec 64)
  /-- QUEUE_RUN (R251). QCTL.RUN restarts a stopped queue at QRPTR. -/
  | queueRun (q : Nat) (v : BitVec 64)
  /-- QUEUE_HALT (R248). QCTL.HALT stops the queue at the next packet boundary. -/
  | queueHalt (q : Nat) (v : BitVec 64)
  /-- PACKET_NOP (R244). Skips its payload. -/
  | packetNop (p : Packet)
  /-- NOPWRAP (R244). Advances the ring position to the wrap. -/
  | nopwrap (p : Packet)
  /-- INDIRECT (R245). Enters a buffer one level deeper. -/
  | indirect (p : Packet)
  /-- PACKET_WAIT (R246). Blocks until its memory or event condition holds. -/
  | packetWait (p : Packet)
  /-- WAIT_REEVALUATE (R246). A waiting WAIT re-evaluates on a write to its line or event, or every 4 µs. -/
  | waitReevaluate (q : Nat)
  /-- WAIT_TIMEOUT (R246). A WAIT's timeout expires and stops the queue with WAIT_TMO. -/
  | waitTimeout (q : Nat)
  /-- PRED (R246). Skips the next SKIP packets when its condition is false. -/
  | pred (p : Packet)
  /-- LOOP (R245). Runs the following body ITER times. -/
  | loop (p : Packet)
  /-- FFENCE (R249). Waits for earlier packets, discards fetched words and refetches. -/
  | ffence (p : Packet)
  /-- PACKET_WRITE (R244). Stores its data words as a release. -/
  | packetWrite (p : Packet)
  /-- PACKET_EVSIG (R244). Signals or sets an event on behalf of the owner partition. -/
  | packetEvsig (p : Packet)
  /-- RUNOPS (R247). Hands an operator stream to the owner partition's dispatcher. -/
  | runops (p : Packet)
  /-- RUNOPS_COMPLETE (R247). A WAITDONE RUNOPS completes once every operator of its stream is complete. -/
  | runopsComplete (q : Nat)
  /-- REPORT (R244). Writes a REPORT event record, waiting while the ring is full. -/
  | report (p : Packet)
  /-- PACKET_RESERVED (R242). A reserved packet type stops the queue with PKT_TYPE. -/
  | packetReserved (p : Packet)
  /-- QP_PERIOD_START (R303). A queue thread's EDF period begins and its budget is renewed. -/
  | qpPeriodStart (q : Nat)
  /-- QP_OVERRUN (R304). A thread spends its budget, setting THROT and OVRF and writing an OVR record. -/
  | qpOverrun (q : Nat)
  /-- TELLER_SERVE (R269). A teller performs one atomic request indivisibly and answers its lane. -/
  | tellerServe (cluster : Nat)
  /-- WAITL_WAKE (R272). A sleeping WAITL wakes on a write, publish, eviction or timeout and reads again. -/
  | waitlWake (n : Nat)
  /-- CTXOP_SAVE (R296). Stops a team exactly, waits for its outstanding work and writes its image. -/
  | ctxopSave (v : BitVec 64)
  /-- CTXOP_RESTORE (R297). Places a saved team on a core and resumes its groups. -/
  | ctxopRestore (v : BitVec 64)
  /-- CTXOP_DROP (R297). Marks an image consumed and releases its reservation. -/
  | ctxopDrop (v : BitVec 64)
  /-- DEBUG_HALT (R291). DBGCTL.HALTREQ stops the group at its next instruction boundary. -/
  | debugHalt (n : Nat)
  /-- DEBUG_RESUME (R291). DBGCTL.RESUME restarts a halted group, taking any pending trap first. -/
  | debugResume (n : Nat)
  /-- SLOT_CHANGE (R299). A core passes to a slot of another partition: expiry for the outgoing, resume for the incoming. -/
  | slotChange (core : Nat)
  /-- TEAM_PARK (R299). A team with slot expiry pending parks at its first tile-job boundary. -/
  | teamPark (core : Nat) (team : Nat)
  /-- HARD_PARK (R299). A team that has not reached a boundary parks hard at the drain deadline. -/
  | hardPark (core : Nat) (team : Nat)
  /-- VACATE (R300). VCTL operation 2 starts draining a partition's teams from a range of cores. -/
  | vacate (v : BitVec 64)
  /-- DRAIN_HALF_DEADLINE (R295). Half the drain deadline passes and U groups holding jobs trap DRAIN. -/
  | drainHalfDeadline (core : Nat) (team : Nat)
  /-- DRAIN_BOUNDARY_SAVE (R301). A draining team at a tile-job boundary is saved without reservation. -/
  | drainBoundarySave (core : Nat) (team : Nat)
  /-- DRAIN_DEADLINE (R301). At the deadline a draining team is hard-stopped, saved and reserved. -/
  | drainDeadline (core : Nat) (team : Nat)
  /-- PARTITION_START (R306). PSTART operation 1 starts a partition from its start record and launches its first team. -/
  | partitionStart (v : BitVec 64)
  /-- PARTITION_END (R306). PSTART operation 2 ends a partition and releases its state. -/
  | partitionEnd (v : BitVec 64)
  /-- FEATEN_WRITE (R311). Enables features, cleared to FEATCAP and discarded after the first partition start. -/
  | featenWrite (v : BitVec 64)
  /-- PUBWIN_WRITE (R316). Sets the publish window and resets PUBNEXT. -/
  | pubwinWrite (v : BitVec 64)
  /-- PUBNEXT_WRITE (R316). Sets the next publish offset, discarding instruction-cache lines when lowered. -/
  | pubnextWrite (v : BitVec 64)
  /-- CCAST (R319). Checks a published object's seal and multicasts it to peers. -/
  | ccast (v : BitVec 64)
  /-- MULTICAST_RECEIVE (R319). A peer checks a received object's hash and accepts or refuses it. -/
  | multicastReceive (m : CastMsg)
  /-- MULTICAST_ANSWER (R319). A peer's answer arrives; after the last, CCASTST is set done and LEVT decremented. -/
  | multicastAnswer (part : Nat) (peer : Nat) (answer : BitVec 8)
  /-- RDMA_WRITE (R324). An RDMA WRITE message is checked whole and written or refused. -/
  | rdmaWrite (m : RdmaMsg)
  /-- ROCE_REFUSED_OPERATION (R323). An RDMA READ, SEND, atomic or unreliable message is answered with a NAK. -/
  | roceRefusedOperation (m : RdmaMsg)
  /-- LINK_CHANGE (R325). A UALink port or the CXL link goes up or down. -/
  | linkChange (port : Nat) (up : Bool)
  /-- COLD_START (R328). Power-good or the cold-reset pin runs the start steps in full. -/
  | coldStart (b : BootInput)
  /-- WARM_START (R328). BOOTCTL.WARM or the warm-reset pin freezes the strongbox and runs the warm start steps. -/
  | warmStart (b : BootInput)
  /-- SBCTL_FREEZE (R331). Freezes the strongbox with cause software. -/
  | sbctlFreeze (v : BitVec 64)
  /-- SBSTAT_UNFREEZE (R331). Clearing FROZEN resumes recording at WIDX. -/
  | sbstatUnfreeze (v : BitVec 64)
  /-- REGISTER_WRITE (R6). A write to a CSR or hub register that has no row of its own, under the access codes of Table 2. -/
  | registerWrite (r : RegTarget) (v : BitVec 64)
  /-- HOST_MEMORY_ACCESS (R320). A host-complex core's load, store or atomic to LPDDR5X, device memory or the CXL pool through the host physical map, of observer class HOST and with no device translation. -/
  | hostMemoryAccess (a : HostAccess)
  /-- XFLOG_WRITE (R87). Configures the fault log; setting EN clears LBAD and lets waiting entries be written. -/
  | xflogWrite (v : BitVec 64)
  /-- SRSEED_WRITE (R115). Seeds the core's stochastic-rounding generators. -/
  | srseedWrite (v : BitVec 64)
  /-- TCTL_WRITE (R167). Sets a tile register's format and shape, discarded with BADCFG when illegal. -/
  | tctlWrite (t : BitVec 4) (v : BitVec 64)
  /-- MDCFG_WRITE (R177). Sets drain format and shape, discarded with BADCFG when illegal. -/
  | mdcfgWrite (v : BitVec 64)
  /-- KBASE_WRITE (R261). Binds the selected key to a region. -/
  | kbaseWrite (v : BitVec 64)
  /-- SHDCTL_ADD (R264). Adds a shadow pair to the directory. -/
  | shdctlAdd (v : BitVec 64)
  /-- SHDCTL_REMOVE (R264). Removes a shadow pair from the directory. -/
  | shdctlRemove (v : BitVec 64)
  /-- PBADD (R276). Adds bytes to a team barrier's pending-byte counter. -/
  | pbadd (v : BitVec 64)
  /-- NOP (R288). CTL function 1; does nothing. -/
  | nop
  /-- STOP (R289). Ends the group once its copies, MEETs and matrix queue have settled; the team ends with its last group. -/
  | stop
  /-- YIELD (R288). Makes the group not ready for 16 clocks of its pipe and resets its age boost. -/
  | yield
  /-- BKPT (R288). Traps BKPT, or halts the group when DBGCTL.BKPTH is set. -/
  | bkpt
  /-- RTE (R289). Returns from a trap, restoring mode, WB, EM, DM and PC from the current level's trap state. -/
  | rte
  /-- PROFILE_TRANSITION_COMPLETE (R19). Clocks and supplies of the requested profile are stable and PACT takes the new value. -/
  | profileTransitionComplete
  /-- CELLAR_RELEASE (R68). A cellar entry is released once QOLD exceeds its stamp. -/
  | cellarRelease
  /-- THROTTLE_STEP (R330). Every 100 µs under a thermal or current limit, clocks step down or back up by 0.3 GHz. -/
  | throttleStep
  /-- THERMAL_TRIP (R330). At 115 °C the strongbox freezes and every die is held in reset. -/
  | thermalTrip
  deriving DecidableEq, Repr

end Sys2Proof
end

