-- ==== Sys2Proof/Decode.lean ====
section
/-! DEFINITION. Decoding of instruction words, and the encoder, both from the encoding tables of the specification
(02 R22, R23, R43). Decoding is a match on the major opcode and on the fixed fields of a row. Field values that a row's
entry leaves unassigned are decoded, and trap ILL when the instruction is checked (02 R41, WellFormed.lean). -/
namespace Sys2Proof


/-- The instruction of a 32-bit word (02 R22, R43): the major opcode selects the format, and the fixed fields of a row
select the row. A word that no row fits has no instruction: it is illegal (02 R41, R44). -/
def decodeWord (w : BitVec 32) : Option Instr :=
  match (w.extractLsb' 25 7).toNat with
  | 0x00 => if w.extractLsb' 0 25 = 0x1#25 then some (.nop) else if w.extractLsb' 0 25 = 0x2#25 then some (.stop) else if w.extractLsb' 0 25 = 0x3#25 then some (.yield) else if w.extractLsb' 0 25 = 0x4#25 then some (.bkpt) else if w.extractLsb' 0 25 = 0x5#25 then some (.rte) else none
  | 0x01 => if w.extractLsb' 21 4 = 0x0#4 then some (.bra (w.extractLsb' 19 2) (w.extractLsb' 0 19)) else none
  | 0x02 => some (.brany (w.extractLsb' 21 4) (w.extractLsb' 19 2) (w.extractLsb' 0 19))
  | 0x03 => some (.brall (w.extractLsb' 21 4) (w.extractLsb' 19 2) (w.extractLsb' 0 19))
  | 0x04 => some (.brnone (w.extractLsb' 21 4) (w.extractLsb' 19 2) (w.extractLsb' 0 19))
  | 0x05 => if w.extractLsb' 21 4 = 0x0#4 then some (.call (w.extractLsb' 19 2) (w.extractLsb' 0 19)) else none
  | 0x06 => if w.extractLsb' 0 11 = 0x700#11 then some (.jmpr (w.extractLsb' 18 7) (w.extractLsb' 11 7)) else if w.extractLsb' 18 7 = 0x70#7 ∧ w.extractLsb' 0 11 = 0x701#11 then some (.ret (w.extractLsb' 11 7)) else none
  | 0x07 => if w.extractLsb' 18 7 = 0x70#7 then some (.winb (w.extractLsb' 11 7) (w.extractLsb' 0 11)) else none
  | 0x08 => some (.sysc (w.extractLsb' 18 7) (w.extractLsb' 0 18))
  | 0x09 => some (.hcall (w.extractLsb' 18 7) (w.extractLsb' 0 18))
  | 0x0A => some (.trap (w.extractLsb' 18 7) (w.extractLsb' 0 18))
  | 0x0B => if w.extractLsb' 0 7 = 0x70#7 then some (.csrr (w.extractLsb' 18 7) (w.extractLsb' 7 11)) else none
  | 0x0C => some (.csrw (w.extractLsb' 18 7) (w.extractLsb' 7 11) (w.extractLsb' 0 7))
  | 0x0D => if w.extractLsb' 0 4 = 0x0#4 then some (.publ (w.extractLsb' 18 7) (w.extractLsb' 11 7) (w.extractLsb' 4 7)) else none
  | 0x0E => some (.lit (w.extractLsb' 0 25))
  | 0x0F => if w.extractLsb' 9 16 = 0x0#16 then some (.ix (w.extractLsb' 8 1) (w.extractLsb' 6 2) (w.extractLsb' 5 1) (w.extractLsb' 3 2) (w.extractLsb' 2 1) (w.extractLsb' 0 2)) else none
  | 0x10 => some (.iadd (w.extractLsb' 18 7) (w.extractLsb' 11 7) (w.extractLsb' 4 7) (w.extractLsb' 0 4))
  | 0x11 => some (.isub (w.extractLsb' 18 7) (w.extractLsb' 11 7) (w.extractLsb' 4 7) (w.extractLsb' 0 4))
  | 0x12 => some (.imul (w.extractLsb' 18 7) (w.extractLsb' 11 7) (w.extractLsb' 4 7) (w.extractLsb' 0 4))
  | 0x13 => some (.imulh (w.extractLsb' 18 7) (w.extractLsb' 11 7) (w.extractLsb' 4 7) (w.extractLsb' 0 4))
  | 0x14 => some (.imad (w.extractLsb' 18 7) (w.extractLsb' 11 7) (w.extractLsb' 4 7) (w.extractLsb' 0 4))
  | 0x15 => some (.idiv (w.extractLsb' 18 7) (w.extractLsb' 11 7) (w.extractLsb' 4 7) (w.extractLsb' 0 4))
  | 0x16 => some (.irem (w.extractLsb' 18 7) (w.extractLsb' 11 7) (w.extractLsb' 4 7) (w.extractLsb' 0 4))
  | 0x17 => if w.extractLsb' 2 1 = 0x0#1 then some (.imnx (w.extractLsb' 18 7) (w.extractLsb' 11 7) (w.extractLsb' 4 7) (w.extractLsb' 3 1) (w.extractLsb' 0 2)) else none
  | 0x18 => if w.extractLsb' 2 2 = 0x0#2 then some (.and (w.extractLsb' 18 7) (w.extractLsb' 11 7) (w.extractLsb' 4 7) (w.extractLsb' 0 2)) else none
  | 0x19 => if w.extractLsb' 2 2 = 0x0#2 then some (.or (w.extractLsb' 18 7) (w.extractLsb' 11 7) (w.extractLsb' 4 7) (w.extractLsb' 0 2)) else none
  | 0x1A => if w.extractLsb' 2 2 = 0x0#2 then some (.xor (w.extractLsb' 18 7) (w.extractLsb' 11 7) (w.extractLsb' 4 7) (w.extractLsb' 0 2)) else none
  | 0x1B => if w.extractLsb' 2 2 = 0x0#2 then some (.andn (w.extractLsb' 18 7) (w.extractLsb' 11 7) (w.extractLsb' 4 7) (w.extractLsb' 0 2)) else none
  | 0x1C => if w.extractLsb' 2 2 = 0x0#2 then some (.shl (w.extractLsb' 18 7) (w.extractLsb' 11 7) (w.extractLsb' 4 7) (w.extractLsb' 0 2)) else none
  | 0x1D => if w.extractLsb' 2 2 = 0x0#2 then some (.shr (w.extractLsb' 18 7) (w.extractLsb' 11 7) (w.extractLsb' 4 7) (w.extractLsb' 0 2)) else none
  | 0x1E => if w.extractLsb' 2 2 = 0x0#2 then some (.sra (w.extractLsb' 18 7) (w.extractLsb' 11 7) (w.extractLsb' 4 7) (w.extractLsb' 0 2)) else none
  | 0x1F => if w.extractLsb' 2 2 = 0x0#2 then some (.rot (w.extractLsb' 18 7) (w.extractLsb' 11 7) (w.extractLsb' 4 7) (w.extractLsb' 0 2)) else none
  | 0x20 => if w.extractLsb' 3 8 = 0xE0#8 then some (.bits (w.extractLsb' 18 7) (w.extractLsb' 11 7) (w.extractLsb' 0 3)) else none
  | 0x21 => if w.extractLsb' 1 3 = 0x0#3 then some (.bfx (w.extractLsb' 18 7) (w.extractLsb' 11 7) (w.extractLsb' 4 7) (w.extractLsb' 0 1)) else none
  | 0x22 => if w.extractLsb' 0 4 = 0x0#4 then some (.bfi (w.extractLsb' 18 7) (w.extractLsb' 11 7) (w.extractLsb' 4 7)) else none
  | 0x23 => some (.icmp (w.extractLsb' 18 7) (w.extractLsb' 11 7) (w.extractLsb' 4 7) (w.extractLsb' 2 2) (w.extractLsb' 0 2))
  | 0x24 => some (.sel (w.extractLsb' 18 7) (w.extractLsb' 11 7) (w.extractLsb' 4 7) (w.extractLsb' 0 4))
  | 0x25 => if w.extractLsb' 1 10 = 0x380#10 then some (.mov (w.extractLsb' 18 7) (w.extractLsb' 11 7) (w.extractLsb' 0 1)) else none
  | 0x26 => some (.iaddi (w.extractLsb' 18 7) (w.extractLsb' 11 7) (w.extractLsb' 0 11))
  | 0x27 => some (.andi (w.extractLsb' 18 7) (w.extractLsb' 11 7) (w.extractLsb' 0 11))
  | 0x28 => some (.ori (w.extractLsb' 18 7) (w.extractLsb' 11 7) (w.extractLsb' 0 11))
  | 0x29 => some (.xori (w.extractLsb' 18 7) (w.extractLsb' 11 7) (w.extractLsb' 0 11))
  | 0x2A => if w.extractLsb' 6 2 = 0x0#2 then some (.shfti (w.extractLsb' 18 7) (w.extractLsb' 11 7) (w.extractLsb' 9 2) (w.extractLsb' 8 1) (w.extractLsb' 0 6)) else none
  | 0x2B => some (.icmpi (w.extractLsb' 18 7) (w.extractLsb' 11 7) (w.extractLsb' 8 3) (w.extractLsb' 0 8))
  | 0x2C => if w.extractLsb' 11 7 = 0x70#7 then some (.movi (w.extractLsb' 18 7) (w.extractLsb' 0 11)) else none
  | 0x2D => if w.extractLsb' 21 4 = 0x0#4 then some (.abset (w.extractLsb' 18 3) (w.extractLsb' 11 7) (w.extractLsb' 10 1) (w.extractLsb' 0 10)) else none
  | 0x2E => some (.aadd (w.extractLsb' 18 7) (w.extractLsb' 11 7) (w.extractLsb' 4 7) (w.extractLsb' 2 2) (w.extractLsb' 0 2))
  | 0x2F => if w.extractLsb' 3 1 = 0x0#1 then some (.i64 (w.extractLsb' 18 7) (w.extractLsb' 11 7) (w.extractLsb' 4 7) (w.extractLsb' 0 3)) else none
  | 0x30 => if w.extractLsb' 2 2 = 0x0#2 then some (.fadd (w.extractLsb' 18 7) (w.extractLsb' 11 7) (w.extractLsb' 4 7) (w.extractLsb' 0 2)) else none
  | 0x31 => if w.extractLsb' 2 2 = 0x0#2 then some (.fsub (w.extractLsb' 18 7) (w.extractLsb' 11 7) (w.extractLsb' 4 7) (w.extractLsb' 0 2)) else none
  | 0x32 => if w.extractLsb' 2 2 = 0x0#2 then some (.fmul (w.extractLsb' 18 7) (w.extractLsb' 11 7) (w.extractLsb' 4 7) (w.extractLsb' 0 2)) else none
  | 0x33 => if w.extractLsb' 2 2 = 0x0#2 then some (.ffma (w.extractLsb' 18 7) (w.extractLsb' 11 7) (w.extractLsb' 4 7) (w.extractLsb' 0 2)) else none
  | 0x34 => if w.extractLsb' 1 3 = 0x0#3 then some (.fmin (w.extractLsb' 18 7) (w.extractLsb' 11 7) (w.extractLsb' 4 7) (w.extractLsb' 0 1)) else none
  | 0x35 => if w.extractLsb' 1 3 = 0x0#3 then some (.fmax (w.extractLsb' 18 7) (w.extractLsb' 11 7) (w.extractLsb' 4 7) (w.extractLsb' 0 1)) else none
  | 0x36 => if w.extractLsb' 3 1 = 0x0#1 then some (.fcmp (w.extractLsb' 18 7) (w.extractLsb' 11 7) (w.extractLsb' 4 7) (w.extractLsb' 0 3)) else none
  | 0x37 => some (.fsgn (w.extractLsb' 18 7) (w.extractLsb' 11 7) (w.extractLsb' 4 7) (w.extractLsb' 0 4))
  | 0x38 => if w.extractLsb' 4 7 = 0x70#7 then some (.frcp (w.extractLsb' 18 7) (w.extractLsb' 11 7) (w.extractLsb' 0 4)) else none
  | 0x39 => if w.extractLsb' 4 7 = 0x70#7 then some (.frsq (w.extractLsb' 18 7) (w.extractLsb' 11 7) (w.extractLsb' 0 4)) else none
  | 0x3A => if w.extractLsb' 4 7 = 0x70#7 then some (.fexp2 (w.extractLsb' 18 7) (w.extractLsb' 11 7) (w.extractLsb' 0 4)) else none
  | 0x3B => if w.extractLsb' 4 7 = 0x70#7 then some (.flog2 (w.extractLsb' 18 7) (w.extractLsb' 11 7) (w.extractLsb' 0 4)) else none
  | 0x3C => if w.extractLsb' 4 7 = 0x70#7 then some (.fsin (w.extractLsb' 18 7) (w.extractLsb' 11 7) (w.extractLsb' 0 4)) else none
  | 0x3D => if w.extractLsb' 4 7 = 0x70#7 then some (.fcos (w.extractLsb' 18 7) (w.extractLsb' 11 7) (w.extractLsb' 0 4)) else none
  | 0x3E => if w.extractLsb' 4 7 = 0x70#7 then some (.ftanh (w.extractLsb' 18 7) (w.extractLsb' 11 7) (w.extractLsb' 0 4)) else none
  | 0x3F => some (.fcvt (w.extractLsb' 18 7) (w.extractLsb' 11 7) (w.extractLsb' 8 3) (w.extractLsb' 5 3) (w.extractLsb' 4 1) (w.extractLsb' 2 2) (w.extractLsb' 0 2))
  | 0x40 => some (.fcvts (w.extractLsb' 18 7) (w.extractLsb' 11 7) (w.extractLsb' 4 7) (w.extractLsb' 2 2) (w.extractLsb' 0 2))
  | 0x41 => if w.extractLsb' 3 1 = 0x0#1 then some (.hadd2 (w.extractLsb' 18 7) (w.extractLsb' 11 7) (w.extractLsb' 4 7) (w.extractLsb' 2 1) (w.extractLsb' 0 2)) else none
  | 0x42 => if w.extractLsb' 3 1 = 0x0#1 then some (.hmul2 (w.extractLsb' 18 7) (w.extractLsb' 11 7) (w.extractLsb' 4 7) (w.extractLsb' 2 1) (w.extractLsb' 0 2)) else none
  | 0x43 => if w.extractLsb' 3 1 = 0x0#1 then some (.hfma2 (w.extractLsb' 18 7) (w.extractLsb' 11 7) (w.extractLsb' 4 7) (w.extractLsb' 2 1) (w.extractLsb' 0 2)) else none
  | 0x44 => some (.dot4 (w.extractLsb' 18 7) (w.extractLsb' 11 7) (w.extractLsb' 4 7) (w.extractLsb' 0 4))
  | 0x45 => if w.extractLsb' 2 2 = 0x0#2 then some (.fscl (w.extractLsb' 18 7) (w.extractLsb' 11 7) (w.extractLsb' 4 7) (w.extractLsb' 0 2)) else none
  | 0x46 => if w.extractLsb' 4 7 = 0x70#7 then some (.frnd (w.extractLsb' 18 7) (w.extractLsb' 11 7) (w.extractLsb' 0 4)) else none
  | 0x47 => if w.extractLsb' 4 7 = 0x70#7 then some (.fic (w.extractLsb' 18 7) (w.extractLsb' 11 7) (w.extractLsb' 0 4)) else none
  | 0x50 => some (.shfl (w.extractLsb' 18 7) (w.extractLsb' 11 7) (w.extractLsb' 4 7) (w.extractLsb' 0 4))
  | 0x51 => if w.extractLsb' 4 7 = 0x70#7 then some (.vote (w.extractLsb' 18 7) (w.extractLsb' 11 7) (w.extractLsb' 0 4)) else none
  | 0x52 => if w.extractLsb' 4 7 = 0x70#7 then some (.rdce (w.extractLsb' 18 7) (w.extractLsb' 11 7) (w.extractLsb' 0 4)) else none
  | 0x53 => if w.extractLsb' 4 7 = 0x70#7 then some (.scan (w.extractLsb' 18 7) (w.extractLsb' 11 7) (w.extractLsb' 0 4)) else none
  | 0x54 => some (.kop (w.extractLsb' 18 7) (w.extractLsb' 11 7) (w.extractLsb' 4 7) (w.extractLsb' 0 4))
  | 0x55 => if w.extractLsb' 0 18 = 0x700#18 then some (.kemRd (w.extractLsb' 18 7)) else if w.extractLsb' 18 7 = 0x0#7 ∧ w.extractLsb' 0 11 = 0x701#11 then some (.kemSet (w.extractLsb' 11 7)) else if w.extractLsb' 18 7 = 0x0#7 ∧ w.extractLsb' 0 11 = 0x702#11 then some (.kemAnd (w.extractLsb' 11 7)) else if w.extractLsb' 18 7 = 0x0#7 ∧ w.extractLsb' 0 11 = 0x703#11 then some (.kemAndn (w.extractLsb' 11 7)) else if w.extractLsb' 0 11 = 0x704#11 then some (.kemSwap (w.extractLsb' 18 7) (w.extractLsb' 11 7)) else none
  | 0x56 => if w.extractLsb' 4 7 = 0x70#7 then some (.kcnt (w.extractLsb' 18 7) (w.extractLsb' 11 7) (w.extractLsb' 0 4)) else none
  | 0x57 => if w.extractLsb' 1 3 = 0x0#3 then some (.bcst (w.extractLsb' 18 7) (w.extractLsb' 11 7) (w.extractLsb' 4 7) (w.extractLsb' 0 1)) else none
  | 0x58 => some (.ld (w.extractLsb' 18 7) (w.extractLsb' 11 7) (w.extractLsb' 8 3) (w.extractLsb' 5 3) (w.extractLsb' 4 1) (w.extractLsb' 0 4))
  | 0x59 => if w.extractLsb' 0 4 = 0x0#4 then some (.st (w.extractLsb' 18 7) (w.extractLsb' 11 7) (w.extractLsb' 8 3) (w.extractLsb' 5 3) (w.extractLsb' 4 1)) else none
  | 0x5A => some (.lds (w.extractLsb' 18 7) (w.extractLsb' 11 7) (w.extractLsb' 8 3) (w.extractLsb' 5 3) (w.extractLsb' 4 1) (w.extractLsb' 0 4))
  | 0x5B => if w.extractLsb' 0 4 = 0x0#4 then some (.sts (w.extractLsb' 18 7) (w.extractLsb' 11 7) (w.extractLsb' 8 3) (w.extractLsb' 5 3) (w.extractLsb' 4 1)) else none
  | 0x5C => if w.extractLsb' 0 1 = 0x0#1 then some (.ldx (w.extractLsb' 18 7) (w.extractLsb' 11 7) (w.extractLsb' 6 5) (w.extractLsb' 4 2) (w.extractLsb' 1 3)) else none
  | 0x5D => if w.extractLsb' 0 1 = 0x0#1 then some (.stx (w.extractLsb' 18 7) (w.extractLsb' 11 7) (w.extractLsb' 6 5) (w.extractLsb' 4 2) (w.extractLsb' 1 3)) else none
  | 0x5E => if w.extractLsb' 5 1 = 0x0#1 ∧ w.extractLsb' 0 1 = 0x0#1 then some (.waitl (w.extractLsb' 18 7) (w.extractLsb' 11 7) (w.extractLsb' 6 5) (w.extractLsb' 4 1) (w.extractLsb' 1 3)) else none
  | 0x5F => if w.extractLsb' 18 7 = 0x70#7 ∧ w.extractLsb' 5 3 = 0x0#3 ∧ w.extractLsb' 0 4 = 0x0#4 then some (.prefL1 (w.extractLsb' 11 7) (w.extractLsb' 8 3) (w.extractLsb' 4 1)) else if w.extractLsb' 18 7 = 0x70#7 ∧ w.extractLsb' 5 3 = 0x4#3 ∧ w.extractLsb' 0 4 = 0x0#4 then some (.prefL2 (w.extractLsb' 11 7) (w.extractLsb' 8 3) (w.extractLsb' 4 1)) else none
  | 0x60 => some (.atadd (w.extractLsb' 18 7) (w.extractLsb' 11 7) (w.extractLsb' 4 7) (w.extractLsb' 1 3) (w.extractLsb' 0 1))
  | 0x61 => some (.atsmin (w.extractLsb' 18 7) (w.extractLsb' 11 7) (w.extractLsb' 4 7) (w.extractLsb' 1 3) (w.extractLsb' 0 1))
  | 0x62 => some (.atsmax (w.extractLsb' 18 7) (w.extractLsb' 11 7) (w.extractLsb' 4 7) (w.extractLsb' 1 3) (w.extractLsb' 0 1))
  | 0x63 => some (.atnmin (w.extractLsb' 18 7) (w.extractLsb' 11 7) (w.extractLsb' 4 7) (w.extractLsb' 1 3) (w.extractLsb' 0 1))
  | 0x64 => some (.atnmax (w.extractLsb' 18 7) (w.extractLsb' 11 7) (w.extractLsb' 4 7) (w.extractLsb' 1 3) (w.extractLsb' 0 1))
  | 0x65 => some (.atand (w.extractLsb' 18 7) (w.extractLsb' 11 7) (w.extractLsb' 4 7) (w.extractLsb' 1 3) (w.extractLsb' 0 1))
  | 0x66 => some (.ator (w.extractLsb' 18 7) (w.extractLsb' 11 7) (w.extractLsb' 4 7) (w.extractLsb' 1 3) (w.extractLsb' 0 1))
  | 0x67 => some (.atxor (w.extractLsb' 18 7) (w.extractLsb' 11 7) (w.extractLsb' 4 7) (w.extractLsb' 1 3) (w.extractLsb' 0 1))
  | 0x68 => some (.atxch (w.extractLsb' 18 7) (w.extractLsb' 11 7) (w.extractLsb' 4 7) (w.extractLsb' 1 3) (w.extractLsb' 0 1))
  | 0x69 => some (.atcas (w.extractLsb' 18 7) (w.extractLsb' 11 7) (w.extractLsb' 4 7) (w.extractLsb' 1 3) (w.extractLsb' 0 1))
  | 0x6A => if w.extractLsb' 0 1 = 0x0#1 then some (.atfadd (w.extractLsb' 18 7) (w.extractLsb' 11 7) (w.extractLsb' 4 7) (w.extractLsb' 1 3)) else none
  | 0x6B => if w.extractLsb' 0 1 = 0x0#1 then some (.atbadd2 (w.extractLsb' 18 7) (w.extractLsb' 11 7) (w.extractLsb' 4 7) (w.extractLsb' 1 3)) else none
  | 0x6C => some (.kacq (w.extractLsb' 18 7) (w.extractLsb' 11 7) (w.extractLsb' 0 11))
  | 0x6D => some (.krel (w.extractLsb' 18 7) (w.extractLsb' 11 7) (w.extractLsb' 0 11))
  | 0x6E => if w.extractLsb' 11 14 = 0x3870#14 ∧ w.extractLsb' 0 6 = 0x0#6 then some (.fence (w.extractLsb' 6 5)) else if w.extractLsb' 18 7 = 0x70#7 ∧ w.extractLsb' 4 2 = 0x1#2 ∧ w.extractLsb' 0 1 = 0x0#1 then some (.fencePubb (w.extractLsb' 11 7) (w.extractLsb' 6 5) (w.extractLsb' 1 3)) else none
  | 0x6F => if w.extractLsb' 11 7 = 0x70#7 ∧ w.extractLsb' 0 5 = 0x0#5 then some (.bar (w.extractLsb' 18 7) (w.extractLsb' 9 2) (w.extractLsb' 5 4)) else none
  | 0x70 => if w.extractLsb' 15 3 = 0x6#3 ∧ w.extractLsb' 0 14 = 0x700#14 then some (.xcp (w.extractLsb' 18 7) (w.extractLsb' 14 1)) else none
  | 0x71 => if w.extractLsb' 0 11 = 0x700#11 then some (.xcpd (w.extractLsb' 18 7) (w.extractLsb' 11 7)) else none
  | 0x72 => some (.yieldc (w.extractLsb' 21 4) (w.extractLsb' 19 2) (w.extractLsb' 0 19))
  | 0x73 => if w.extractLsb' 0 11 = 0x700#11 then some (.spop (w.extractLsb' 18 7) (w.extractLsb' 11 7)) else if w.extractLsb' 0 11 = 0x701#11 then some (.spopOpen (w.extractLsb' 18 7) (w.extractLsb' 11 7)) else none
  | 0x74 => if w.extractLsb' 0 4 = 0x0#4 then some (.srel (w.extractLsb' 18 7) (w.extractLsb' 11 7) (w.extractLsb' 4 7)) else if w.extractLsb' 0 4 = 0x1#4 then some (.srelFree (w.extractLsb' 18 7) (w.extractLsb' 11 7) (w.extractLsb' 4 7)) else none
  | 0x75 => if w.extractLsb' 22 3 = 0x6#3 ∧ w.extractLsb' 0 20 = 0x38700#20 then some (.mbrd (w.extractLsb' 20 2)) else if w.extractLsb' 22 3 = 0x6#3 ∧ w.extractLsb' 0 20 = 0x38701#20 then some (.mbrdTry (w.extractLsb' 20 2)) else none
  | 0x76 => if w.extractLsb' 15 3 = 0x6#3 ∧ w.extractLsb' 11 2 = 0x0#2 ∧ w.extractLsb' 0 4 = 0x0#4 then some (.jpost (w.extractLsb' 18 7) (w.extractLsb' 13 2) (w.extractLsb' 4 7)) else none
  | 0x77 => if w.extractLsb' 0 4 = 0x0#4 then some (.evsig (w.extractLsb' 18 7) (w.extractLsb' 11 7) (w.extractLsb' 4 7)) else if w.extractLsb' 0 4 = 0x1#4 then some (.evsigSet (w.extractLsb' 18 7) (w.extractLsb' 11 7) (w.extractLsb' 4 7)) else if w.extractLsb' 0 11 = 0x702#11 then some (.evsigRd (w.extractLsb' 18 7) (w.extractLsb' 11 7)) else none
  | 0x78 => if w.extractLsb' 0 4 = 0x0#4 then some (.taga (w.extractLsb' 18 7) (w.extractLsb' 11 7) (w.extractLsb' 4 7)) else none
  | 0x79 => if w.extractLsb' 0 11 = 0x700#11 then some (.tagf (w.extractLsb' 18 7) (w.extractLsb' 11 7)) else none
  | 0x7A => if w.extractLsb' 0 4 = 0x0#4 then some (.meet (w.extractLsb' 18 7) (w.extractLsb' 11 7) (w.extractLsb' 4 7)) else none
  | 0x7B => if w.extractLsb' 0 11 = 0x700#11 then some (.ttrdy (w.extractLsb' 18 7) (w.extractLsb' 11 7)) else none
  | 0x7C => if w.extractLsb' 22 3 = 0x0#3 ∧ w.extractLsb' 7 4 = 0x0#4 ∧ w.extractLsb' 0 4 = 0x0#4 then some (.tileTld (w.extractLsb' 18 4) (w.extractLsb' 11 7) (w.extractLsb' 4 3)) else if w.extractLsb' 22 3 = 0x0#3 ∧ w.extractLsb' 7 4 = 0x0#4 ∧ w.extractLsb' 0 4 = 0x1#4 then some (.tileTst (w.extractLsb' 18 4) (w.extractLsb' 11 7) (w.extractLsb' 4 3)) else none
  | 0x7D => if w.extractLsb' 21 4 = 0x0#4 ∧ w.extractLsb' 15 3 = 0x0#3 ∧ w.extractLsb' 8 3 = 0x0#3 ∧ w.extractLsb' 2 2 = 0x0#2 then some (.mma (w.extractLsb' 18 3) (w.extractLsb' 11 4) (w.extractLsb' 4 4) (w.extractLsb' 0 2)) else none
  | 0x7E => if w.extractLsb' 0 4 = 0x0#4 then some (.mjob (w.extractLsb' 18 7) (w.extractLsb' 11 7) (w.extractLsb' 4 7)) else if w.extractLsb' 0 18 = 0x38701#18 then some (.mjobWait (w.extractLsb' 18 7)) else if w.extractLsb' 0 18 = 0x38702#18 then some (.mjobCancel (w.extractLsb' 18 7)) else none
  | 0x7F => if w.extractLsb' 21 4 = 0x0#4 ∧ w.extractLsb' 0 18 = 0x38700#18 then some (.accZero (w.extractLsb' 18 3)) else if w.extractLsb' 21 4 = 0x0#4 ∧ w.extractLsb' 7 4 = 0x0#4 ∧ w.extractLsb' 0 4 = 0x1#4 then some (.accDrain (w.extractLsb' 18 3) (w.extractLsb' 11 7) (w.extractLsb' 4 3)) else if w.extractLsb' 21 4 = 0x0#4 ∧ w.extractLsb' 7 4 = 0x0#4 ∧ w.extractLsb' 0 4 = 0x2#4 then some (.accCvt (w.extractLsb' 18 3) (w.extractLsb' 11 7) (w.extractLsb' 4 3)) else if w.extractLsb' 21 4 = 0x0#4 ∧ w.extractLsb' 14 4 = 0x0#4 ∧ w.extractLsb' 0 11 = 0x703#11 then some (.accMove (w.extractLsb' 18 3) (w.extractLsb' 11 3)) else none
  | _ => none


/-- The word of an instruction, from the formats and the opcode map (02 R23, R43); a step of a unit has none. -/
def encode : Instr → Option (BitVec 32)
  | .lit p => some (0xE#7 ++ p)
  | .ix e d f a g b => some (0xF#7 ++ 0x0#16 ++ e ++ d ++ f ++ a ++ g ++ b)
  | .nop => some (0x0#7 ++ 0x1#25)
  | .stop => some (0x0#7 ++ 0x2#25)
  | .yield => some (0x0#7 ++ 0x3#25)
  | .bkpt => some (0x0#7 ++ 0x4#25)
  | .rte => some (0x0#7 ++ 0x5#25)
  | .bra h p => some (0x1#7 ++ 0x0#4 ++ h ++ p)
  | .brany k h p => some (0x2#7 ++ k ++ h ++ p)
  | .brall k h p => some (0x3#7 ++ k ++ h ++ p)
  | .brnone k h p => some (0x4#7 ++ k ++ h ++ p)
  | .call h p => some (0x5#7 ++ 0x0#4 ++ h ++ p)
  | .jmpr d a => some (0x6#7 ++ d ++ a ++ 0x700#11)
  | .ret a => some (0x6#7 ++ 0x70#7 ++ a ++ 0x701#11)
  | .winb a i => some (0x7#7 ++ 0x70#7 ++ a ++ i)
  | .sysc d c => some (0x8#7 ++ d ++ c)
  | .hcall d c => some (0x9#7 ++ d ++ c)
  | .trap d c => some (0xA#7 ++ d ++ c)
  | .csrr d c => some (0xB#7 ++ d ++ c ++ 0x70#7)
  | .csrw d c a => some (0xC#7 ++ d ++ c ++ a)
  | .publ d a b => some (0xD#7 ++ d ++ a ++ b ++ 0x0#4)
  | .iadd d a b f => some (0x10#7 ++ d ++ a ++ b ++ f)
  | .isub d a b f => some (0x11#7 ++ d ++ a ++ b ++ f)
  | .imul d a b f => some (0x12#7 ++ d ++ a ++ b ++ f)
  | .imulh d a b f => some (0x13#7 ++ d ++ a ++ b ++ f)
  | .imad d a b f => some (0x14#7 ++ d ++ a ++ b ++ f)
  | .idiv d a b l => some (0x15#7 ++ d ++ a ++ b ++ l)
  | .irem d a b l => some (0x16#7 ++ d ++ a ++ b ++ l)
  | .imnx d a b m t => some (0x17#7 ++ d ++ a ++ b ++ m ++ 0x0#1 ++ t)
  | .and d a b f => some (0x18#7 ++ d ++ a ++ b ++ 0x0#2 ++ f)
  | .or d a b f => some (0x19#7 ++ d ++ a ++ b ++ 0x0#2 ++ f)
  | .xor d a b f => some (0x1A#7 ++ d ++ a ++ b ++ 0x0#2 ++ f)
  | .andn d a b f => some (0x1B#7 ++ d ++ a ++ b ++ 0x0#2 ++ f)
  | .shl d a b f => some (0x1C#7 ++ d ++ a ++ b ++ 0x0#2 ++ f)
  | .shr d a b f => some (0x1D#7 ++ d ++ a ++ b ++ 0x0#2 ++ f)
  | .sra d a b f => some (0x1E#7 ++ d ++ a ++ b ++ 0x0#2 ++ f)
  | .rot d a b f => some (0x1F#7 ++ d ++ a ++ b ++ 0x0#2 ++ f)
  | .bits d a f => some (0x20#7 ++ d ++ a ++ 0xE0#8 ++ f)
  | .bfx d a b f => some (0x21#7 ++ d ++ a ++ b ++ 0x0#3 ++ f)
  | .bfi d a b => some (0x22#7 ++ d ++ a ++ b ++ 0x0#4)
  | .icmp d a b t c => some (0x23#7 ++ d ++ a ++ b ++ t ++ c)
  | .sel d a b k => some (0x24#7 ++ d ++ a ++ b ++ k)
  | .mov d a f => some (0x25#7 ++ d ++ a ++ 0x380#10 ++ f)
  | .iaddi d a i => some (0x26#7 ++ d ++ a ++ i)
  | .andi d a i => some (0x27#7 ++ d ++ a ++ i)
  | .ori d a i => some (0x28#7 ++ d ++ a ++ i)
  | .xori d a i => some (0x29#7 ++ d ++ a ++ i)
  | .shfti d a o w c => some (0x2A#7 ++ d ++ a ++ o ++ w ++ 0x0#2 ++ c)
  | .icmpi d a c v => some (0x2B#7 ++ d ++ a ++ c ++ v)
  | .movi d i => some (0x2C#7 ++ d ++ 0x70#7 ++ i)
  | .abset n a h i => some (0x2D#7 ++ 0x0#4 ++ n ++ a ++ h ++ i)
  | .aadd d a b e s => some (0x2E#7 ++ d ++ a ++ b ++ e ++ s)
  | .i64 d a b f => some (0x2F#7 ++ d ++ a ++ b ++ 0x0#1 ++ f)
  | .fadd d a b r => some (0x30#7 ++ d ++ a ++ b ++ 0x0#2 ++ r)
  | .fsub d a b r => some (0x31#7 ++ d ++ a ++ b ++ 0x0#2 ++ r)
  | .fmul d a b r => some (0x32#7 ++ d ++ a ++ b ++ 0x0#2 ++ r)
  | .ffma d a b r => some (0x33#7 ++ d ++ a ++ b ++ 0x0#2 ++ r)
  | .fmin d a b f => some (0x34#7 ++ d ++ a ++ b ++ 0x0#3 ++ f)
  | .fmax d a b f => some (0x35#7 ++ d ++ a ++ b ++ 0x0#3 ++ f)
  | .fcmp d a b c => some (0x36#7 ++ d ++ a ++ b ++ 0x0#1 ++ c)
  | .fsgn d a b f => some (0x37#7 ++ d ++ a ++ b ++ f)
  | .frcp d a l => some (0x38#7 ++ d ++ a ++ 0x70#7 ++ l)
  | .frsq d a l => some (0x39#7 ++ d ++ a ++ 0x70#7 ++ l)
  | .fexp2 d a l => some (0x3A#7 ++ d ++ a ++ 0x70#7 ++ l)
  | .flog2 d a l => some (0x3B#7 ++ d ++ a ++ 0x70#7 ++ l)
  | .fsin d a l => some (0x3C#7 ++ d ++ a ++ 0x70#7 ++ l)
  | .fcos d a l => some (0x3D#7 ++ d ++ a ++ 0x70#7 ++ l)
  | .ftanh d a l => some (0x3E#7 ++ d ++ a ++ 0x70#7 ++ l)
  | .fcvt d a s t n j r => some (0x3F#7 ++ d ++ a ++ s ++ t ++ n ++ j ++ r)
  | .fcvts d a b t r => some (0x40#7 ++ d ++ a ++ b ++ t ++ r)
  | .hadd2 d a b f r => some (0x41#7 ++ d ++ a ++ b ++ 0x0#1 ++ f ++ r)
  | .hmul2 d a b f r => some (0x42#7 ++ d ++ a ++ b ++ 0x0#1 ++ f ++ r)
  | .hfma2 d a b f r => some (0x43#7 ++ d ++ a ++ b ++ 0x0#1 ++ f ++ r)
  | .dot4 d a b f => some (0x44#7 ++ d ++ a ++ b ++ f)
  | .fscl d a b r => some (0x45#7 ++ d ++ a ++ b ++ 0x0#2 ++ r)
  | .frnd d a f => some (0x46#7 ++ d ++ a ++ 0x70#7 ++ f)
  | .fic d a f => some (0x47#7 ++ d ++ a ++ 0x70#7 ++ f)
  | .shfl d a b f => some (0x50#7 ++ d ++ a ++ b ++ f)
  | .vote d a f => some (0x51#7 ++ d ++ a ++ 0x70#7 ++ f)
  | .rdce d a f => some (0x52#7 ++ d ++ a ++ 0x70#7 ++ f)
  | .scan d a f => some (0x53#7 ++ d ++ a ++ 0x70#7 ++ f)
  | .kop d a b f => some (0x54#7 ++ d ++ a ++ b ++ f)
  | .kemRd d => some (0x55#7 ++ d ++ 0x700#18)
  | .kemSet a => some (0x55#7 ++ 0x0#7 ++ a ++ 0x701#11)
  | .kemAnd a => some (0x55#7 ++ 0x0#7 ++ a ++ 0x702#11)
  | .kemAndn a => some (0x55#7 ++ 0x0#7 ++ a ++ 0x703#11)
  | .kemSwap d a => some (0x55#7 ++ d ++ a ++ 0x704#11)
  | .kcnt d a f => some (0x56#7 ++ d ++ a ++ 0x70#7 ++ f)
  | .bcst d a b f => some (0x57#7 ++ d ++ a ++ b ++ 0x0#3 ++ f)
  | .ld d a n s h l => some (0x58#7 ++ d ++ a ++ n ++ s ++ h ++ l)
  | .st d a n s h => some (0x59#7 ++ d ++ a ++ n ++ s ++ h ++ 0x0#4)
  | .lds d a n s h l => some (0x5A#7 ++ d ++ a ++ n ++ s ++ h ++ l)
  | .sts d a n s h => some (0x5B#7 ++ d ++ a ++ n ++ s ++ h ++ 0x0#4)
  | .ldx d a o s n => some (0x5C#7 ++ d ++ a ++ o ++ s ++ n ++ 0x0#1)
  | .stx d a o s n => some (0x5D#7 ++ d ++ a ++ o ++ s ++ n ++ 0x0#1)
  | .waitl d a o s n => some (0x5E#7 ++ d ++ a ++ o ++ 0x0#1 ++ s ++ n ++ 0x0#1)
  | .prefL1 a n h => some (0x5F#7 ++ 0x70#7 ++ a ++ n ++ 0x0#3 ++ h ++ 0x0#4)
  | .prefL2 a n h => some (0x5F#7 ++ 0x70#7 ++ a ++ n ++ 0x4#3 ++ h ++ 0x0#4)
  | .atadd d a b n w => some (0x60#7 ++ d ++ a ++ b ++ n ++ w)
  | .atsmin d a b n w => some (0x61#7 ++ d ++ a ++ b ++ n ++ w)
  | .atsmax d a b n w => some (0x62#7 ++ d ++ a ++ b ++ n ++ w)
  | .atnmin d a b n w => some (0x63#7 ++ d ++ a ++ b ++ n ++ w)
  | .atnmax d a b n w => some (0x64#7 ++ d ++ a ++ b ++ n ++ w)
  | .atand d a b n w => some (0x65#7 ++ d ++ a ++ b ++ n ++ w)
  | .ator d a b n w => some (0x66#7 ++ d ++ a ++ b ++ n ++ w)
  | .atxor d a b n w => some (0x67#7 ++ d ++ a ++ b ++ n ++ w)
  | .atxch d a b n w => some (0x68#7 ++ d ++ a ++ b ++ n ++ w)
  | .atcas d a b n w => some (0x69#7 ++ d ++ a ++ b ++ n ++ w)
  | .atfadd d a b n => some (0x6A#7 ++ d ++ a ++ b ++ n ++ 0x0#1)
  | .atbadd2 d a b n => some (0x6B#7 ++ d ++ a ++ b ++ n ++ 0x0#1)
  | .kacq d a i => some (0x6C#7 ++ d ++ a ++ i)
  | .krel d a i => some (0x6D#7 ++ d ++ a ++ i)
  | .fence o => some (0x6E#7 ++ 0x3870#14 ++ o ++ 0x0#6)
  | .fencePubb a o n => some (0x6E#7 ++ 0x70#7 ++ a ++ o ++ 0x1#2 ++ n ++ 0x0#1)
  | .bar d v n => some (0x6F#7 ++ d ++ 0x70#7 ++ v ++ n ++ 0x0#5)
  | .xcp d s => some (0x70#7 ++ d ++ 0x6#3 ++ s ++ 0x700#14)
  | .xcpd d a => some (0x71#7 ++ d ++ a ++ 0x700#11)
  | .yieldc k h p => some (0x72#7 ++ k ++ h ++ p)
  | .spop d r => some (0x73#7 ++ d ++ r ++ 0x700#11)
  | .spopOpen d r => some (0x73#7 ++ d ++ r ++ 0x701#11)
  | .srel d r b => some (0x74#7 ++ d ++ r ++ b ++ 0x0#4)
  | .srelFree d r b => some (0x74#7 ++ d ++ r ++ b ++ 0x1#4)
  | .mbrd s => some (0x75#7 ++ 0x6#3 ++ s ++ 0x38700#20)
  | .mbrdTry s => some (0x75#7 ++ 0x6#3 ++ s ++ 0x38701#20)
  | .jpost d s b => some (0x76#7 ++ d ++ 0x6#3 ++ s ++ 0x0#2 ++ b ++ 0x0#4)
  | .evsig d a b => some (0x77#7 ++ d ++ a ++ b ++ 0x0#4)
  | .evsigSet d a b => some (0x77#7 ++ d ++ a ++ b ++ 0x1#4)
  | .evsigRd d a => some (0x77#7 ++ d ++ a ++ 0x702#11)
  | .taga d a b => some (0x78#7 ++ d ++ a ++ b ++ 0x0#4)
  | .tagf d a => some (0x79#7 ++ d ++ a ++ 0x700#11)
  | .meet d a b => some (0x7A#7 ++ d ++ a ++ b ++ 0x0#4)
  | .ttrdy d a => some (0x7B#7 ++ d ++ a ++ 0x700#11)
  | .tileTld t a n => some (0x7C#7 ++ 0x0#3 ++ t ++ a ++ 0x0#4 ++ n ++ 0x0#4)
  | .tileTst t a n => some (0x7C#7 ++ 0x0#3 ++ t ++ a ++ 0x0#4 ++ n ++ 0x1#4)
  | .mma d a b f => some (0x7D#7 ++ 0x0#4 ++ d ++ 0x0#3 ++ a ++ 0x0#3 ++ b ++ 0x0#2 ++ f)
  | .mjob d a b => some (0x7E#7 ++ d ++ a ++ b ++ 0x0#4)
  | .mjobWait d => some (0x7E#7 ++ d ++ 0x38701#18)
  | .mjobCancel d => some (0x7E#7 ++ d ++ 0x38702#18)
  | .accZero d => some (0x7F#7 ++ 0x0#4 ++ d ++ 0x38700#18)
  | .accDrain d a n => some (0x7F#7 ++ 0x0#4 ++ d ++ a ++ 0x0#4 ++ n ++ 0x1#4)
  | .accCvt d a n => some (0x7F#7 ++ 0x0#4 ++ d ++ a ++ 0x0#4 ++ n ++ 0x2#4)
  | .accMove d a => some (0x7F#7 ++ 0x0#4 ++ d ++ 0x0#4 ++ a ++ 0x703#11)
  | .longLatencyResult _ => none
  | .pageWalkComplete _ _ => none
  | .remoteAccess _ => none
  | .devmodeWrite _ => none
  | .profileTransitionComplete => none
  | .l2pinPin _ => none
  | .l2pinUnpin _ => none
  | .tlbiAll _ => none
  | .tlbiPage _ => none
  | .tlbigAll _ => none
  | .tlbigPage _ => none
  | .celadd _ => none
  | .cellarRelease => none
  | .celtake _ => none
  | .copyQueueSlotTake _ _ => none
  | .copyComplete _ _ => none
  | .copyHalt _ _ => none
  | .faultLogEntryWrite _ => none
  | .xqcfgWrite _ => none
  | .xflogWrite _ => none
  | .xfres _ => none
  | .srseedWrite _ => none
  | .tctlWrite _ _ => none
  | .mdcfgWrite _ => none
  | .matrixCommandExecute _ => none
  | .walkerRecordWrite _ => none
  | .matrixSlotStage _ => none
  | .matrixStepComplete _ => none
  | .mtagtWrite _ => none
  | .contribution _ => none
  | .roundResultWritten _ _ => none
  | .orphanTimeout _ _ => none
  | .meetAnswer _ => none
  | .tagFreeingComplete _ _ => none
  | .tileChunkSend _ _ => none
  | .firingPairLanded _ _ => none
  | .arrivalRetry _ => none
  | .landingArrival _ => none
  | .spillRefetch _ => none
  | .landfree _ => none
  | .tlaunch _ => none
  | .operatorNop _ => none
  | .operatorGemm _ => none
  | .operatorAdd _ => none
  | .operatorBias _ => none
  | .operatorAct _ => none
  | .operatorRnorm _ => none
  | .operatorSoftmax _ => none
  | .operatorCopy _ => none
  | .operatorAllred _ => none
  | .operatorAlltoall _ => none
  | .operatorWait _ => none
  | .operatorSig _ => none
  | .operatorSel _ => none
  | .operatorCall _ => none
  | .operatorFence _ => none
  | .operatorEnd _ => none
  | .operatorReserved _ _ => none
  | .jobPost _ => none
  | .operatingPointStable _ => none
  | .remoteEventSignal _ => none
  | .wake _ => none
  | .queueEnable _ _ => none
  | .queueDisable _ _ => none
  | .queueRun _ _ => none
  | .queueHalt _ _ => none
  | .packetNop _ => none
  | .nopwrap _ => none
  | .indirect _ => none
  | .packetWait _ => none
  | .waitReevaluate _ => none
  | .waitTimeout _ => none
  | .pred _ => none
  | .loop _ => none
  | .ffence _ => none
  | .packetWrite _ => none
  | .packetEvsig _ => none
  | .runops _ => none
  | .runopsComplete _ => none
  | .report _ => none
  | .packetReserved _ => none
  | .qpPeriodStart _ => none
  | .qpOverrun _ => none
  | .kbaseWrite _ => none
  | .shdctlAdd _ => none
  | .shdctlRemove _ => none
  | .tellerServe _ => none
  | .waitlWake _ => none
  | .pbadd _ => none
  | .ctxopSave _ => none
  | .ctxopRestore _ => none
  | .ctxopDrop _ => none
  | .debugHalt _ => none
  | .debugResume _ => none
  | .slotChange _ => none
  | .teamPark _ _ => none
  | .hardPark _ _ => none
  | .vacate _ => none
  | .drainHalfDeadline _ _ => none
  | .drainBoundarySave _ _ => none
  | .drainDeadline _ _ => none
  | .partitionStart _ => none
  | .partitionEnd _ => none
  | .featenWrite _ => none
  | .pubwinWrite _ => none
  | .pubnextWrite _ => none
  | .ccast _ => none
  | .multicastReceive _ => none
  | .multicastAnswer _ _ _ => none
  | .rdmaWrite _ => none
  | .roceRefusedOperation _ => none
  | .linkChange _ _ => none
  | .coldStart _ => none
  | .warmStart _ => none
  | .throttleStep => none
  | .thermalTrip => none
  | .sbctlFreeze _ => none
  | .sbstatUnfreeze _ => none
  | .registerWrite _ _ => none
  | .hostMemoryAccess _ => none

/-- The word of an instruction as a number, zero for a step of a unit: what EVAL holds (02 R357). -/
def wordOf (i : Instr) : BitVec 32 := (encode i).getD 0

/-- An instruction word as the hardware stores it: four bytes, the lowest first (00 R5, 02 R22). -/
def wordBytes (w : BitVec 32) : List Byte :=
  [w.extractLsb' 0 8, w.extractLsb' 8 8, w.extractLsb' 16 8, w.extractLsb' 24 8]

/-- Decoding from memory: the first four bytes give the instruction, the rest is left. -/
def decodeBytes : List Byte → Option (Instr × List Byte)
  | b0 :: b1 :: b2 :: b3 :: rest => (decodeWord (b3 ++ b2 ++ b1 ++ b0)).map (·, rest)
  | _ => none

/-- The instruction that the decoder reads from an instruction whose bits are w, numbered as the opcode table numbers
them; every instruction of the table that has bits has 32 of them. -/
def decodeTableWord (nbits w : Nat) : Option Instr :=
  if nbits ≤ 32 then (decodeBytes (wordBytes (BitVec.ofNat 32 w))).map (·.1) else none

end Sys2Proof
end

