-- ==== Sys2Proof/Config.lean ====
section
/-! DEFINITION. What is fixed for the machine: the numbers of its units (01 R11 to R13), its feature word, and the free values:
constants without a body that stand for what the specification leaves open. -/
namespace Sys2Proof.Config

/-- Vector cores (01 R12). -/
def cores : Nat := 256
/-- Clusters, each with two vector cores, a sequencer and a matrix engine (01 R12, R13). -/
def clusters : Nat := 128
/-- Residency slots of a vector core (10 R208). -/
def slots : Nat := 32
/-- Meeting routers (09 R187). -/
def routers : Nat := 64
/-- Queues (11 R235). -/
def queues : Nat := 128
/-- Partitions (13 R306). -/
def partitions : Nat := 64
/-- FEATCAP at stepping A1 (14 Table 3). -/
def featCap : BitVec 64 := 0x7FF#64

/-- FREE VALUE (log 6): whether a read or a write in a lookahead window sees or keeps the value of the long-latency result
(02 R37); the arguments are a fresh number, the register and the lane. -/
opaque windowChoice : Nat → Nat → Nat → Bool

/-- FREE VALUE (log 7): which of the two FP32 values that enclose the exact result FRCP (false) and FRSQ (true) return (07 Table 13). -/
opaque roundChoice : Bool → BitVec 32 → Bool

/-- FREE VALUE (log 7): the result that FEXP2, FLOG2, FSIN, FCOS and FTANH (0 to 4) return where it lies within the bound of
07 Table 13. -/
opaque approx : Nat → BitVec 32 → BitVec 32

/-- FREE VALUE (log 8): the secret from which coins and publish records are sealed, by the number of the start (11 R238, 15 R328). -/
opaque mintKey : Nat → BitVec 256

/-- FREE VALUE (log 10): the bytes that another device answers to a read or an atomic: a fresh number, the address and the byte. -/
opaque remoteByte : Nat → BitVec 80 → Nat → Byte

/-- FREE VALUE (log 10): the fault another device answers an access with: 0 for none, else a cause code PGF, GPF, PROT or ECC. -/
opaque remoteFault : Nat → BitVec 80 → BitVec 8

/-- FREE VALUE (log 10): whether a port of the given number, while up, reaches a device (15 R325). -/
opaque reaches : Nat → Nat → Bool

/-- FREE VALUE (log 10): what a peer answers to a chunk of a firing: 1 that its landing area has no room, 2 that it has none, else that
the chunk has landed (09 R202, R205). -/
opaque pairAnswer : Nat → Nat

/-- FREE VALUE (log 14): the order in which the dispatcher takes free entries of its pool: the entry for a fresh number
(10 R221), taken modulo the number of free entries. -/
opaque poolPick : Nat → Nat

/-- FREE VALUE (log 3): whether an access not ordered with an engine's own sees the old or the new value. -/
opaque raceChoice : Nat → Bool

/-- FREE VALUE (log 16): whether a fetch still finds the line that an instruction cache took before a later write (03 R53). -/
opaque fetchStale : Nat → Bool

/-- FREE VALUE (log 13): the bytes a router keeps in bytes 32 to 63 of a tag table entry (09 R188). -/
opaque tagStateByte : Nat → Nat → Byte

/-- FREE VALUE (log 11): the layout of a team image after its header, which is not architectural (13 Table 11): its size in
64-byte units, from 1 to 65,536. -/
opaque imageUnits : Nat → Nat

/-- FREE VALUE (log 24): what a read of KBASE or KLEN gives while KSEL names no key of the partition, by a fresh number. -/
opaque unnamedKey : Nat → Dword

/-- FREE VALUE (log 23): the source-specific CODE of a strongbox record of a source other than 1, by the source and the number of the
record (15 Table 12). -/
opaque strongboxCode : Nat → Nat → Byte

/-- FREE VALUE (log 11): the bytes of a team image after its header. -/
opaque imageByte : Nat → Nat → Byte

/-- FREE VALUE (log 57): the bytes that a firmware signature covers: the public key, the security version and the image, in a layout and a
framing that the spec does not state (15 R328). -/
opaque signedMessage : (key : List Byte) → (version : Nat) → (image : List Byte) → List Byte

/-- FREE VALUE (log 45): what the boot store and the self tests give to a warm start that nothing else in the agenda brings. -/
opaque bootInput : Nat → BootInput

/-- FREE VALUE (log 54): the place that an ECC of a sequencer's register file records, whose words have no physical offset. -/
opaque poisonPlace : Nat → BitVec 48

/-- FREE VALUE (log 54): whether flipped bits beyond what a code states are seen as uncorrectable, or are corrected (03 R54, R55). -/
opaque upsetSeen : Nat → Bool

/-- FREE VALUE (log 21): the issue slots that a queue thread takes for a packet before the one in which it takes effect (11 R235, 13 R303), which
are the firmware's. -/
opaque packetSlots : Nat → Nat

end Sys2Proof.Config
end

