-- ==== Sys2Proof/Machine/State.lean ====
section
/-! DEFINITION. The state of the machine, all of it plain data. The heading '## State' of INVENTORY.md lists the rule of spec/
behind each field and its reset value. -/
namespace Sys2Proof.Machine

/-- Why the machine stops with a fault. -/
inductive Fault
  /-- Raised by exec of an instruction word when the state names no resident group to issue it. Safe: the specification
  gives an instruction no effect outside a group. -/
  | noIssuer
  deriving DecidableEq, Repr

/-- Why an instruction has no meaning. -/
inductive Refusal
  /-- Raised by an arm of exec whose instruction is not modelled yet. Safe: nothing is claimed of it. -/
  | notModelled (mnemonic : String)
  deriving DecidableEq, Repr

/-- The causes of 13 Table 21. -/
inductive Cause
  | ill | priv | win | idx | aln | pgf | gpf | prot | sysc | hcall | trap | bkpt | lav | barm | role | fpx | ecc | tagx | dbl
  | ovr | drain | atmf
  deriving DecidableEq, Repr

/-- The roles of 10 R210. -/
inductive Role
  | copy | vector | service | matrix
  deriving DecidableEq, Repr

/-- The number of a group: core × 32 + slot on a vector core, 8,192 + cluster for a sequencer (15 R321). -/
abbrev GroupId := Nat

/-- The S or the H set of trap registers, with its status register (13 Tables 3 to 5). -/
structure TrapRegs where
  held : Bool
  lim : BitVec 5
  pwb : BitVec 6
  pm : BitVec 2
  epc : Dword
  cause : BitVec 8
  eval : Dword
  eem : Dword
  tlm : Dword
  edone : Dword
  scr : Store 64
  deriving DecidableEq, Repr

/-- Uncorrectable data of an earlier load: its lanes and the physical offset of the poisoned sector (03 R55). -/
structure EccInfo where
  lanes : Dword
  off : BitVec 48
  deriving DecidableEq, Repr

/-- A long-latency result on its way (02 R35 to R37). Registers are numbered as R37 numbers them in EVAL: an allotment register by its
number, scalar n by 512 + n. -/
structure Outstanding where
  /-- The place of its instruction in the order of issue: State.fresh when it issued. -/
  num : Nat
  /-- Instructions that may still issue before the window closes. -/
  left : Nat
  /-- The registers of the destination. -/
  regs : List Nat
  /-- What will be written to vector registers: register, lane, value. -/
  vals : List (Nat × Nat × Word)
  /-- What will be written to scalars. -/
  svals : List (Nat × Dword)
  /-- Registers of the destination that an instruction of the window has written, each with the lane; lane 0 for a scalar. -/
  dirty : List (Nat × Nat)
  ecc : Option EccInfo
  deriving DecidableEq, Repr

/-- A tile register's control (08 Table 1). -/
structure Tctl where
  fmt : BitVec 4
  rm1 : BitVec 7
  cm1 : BitVec 7
  deriving DecidableEq, Repr

/-- The drain configuration (08 Table 7). -/
structure Mdcfg where
  ofmt : BitVec 4
  nsat : Bool
  rnd : BitVec 2
  rm1 : BitVec 7
  cm1 : BitVec 7
  deriving DecidableEq, Repr

/-- A piece of a row that a TILE or ACC command moves: the row, the byte of the row where it begins, its bytes, its address, and the
physical place that it was translated to at issue; none where another device holds it (08 R170, R174). -/
structure Piece where
  row : Nat
  at_ : Nat
  len : Nat
  va : VAddr
  phys : Option (Nat × Nat)
  /-- The shadow pair of its page (kind, logarithm of the page's size, lower page), whether phys lies in the upper page, and the same byte
  of the other page: the directory chooses between them at the access (12 R265). -/
  pair : Option (Nat × Nat × Nat)
  upper : Bool
  other : Option (Nat × Nat)
  /-- The partition, and QEPOCH at its translation (03 R67). -/
  part : Nat
  stamp : Nat
  deriving DecidableEq, Repr

/-- A matrix job: what was captured at issue, and where it stands (08 R180 to R186). -/
structure Job where
  card : BitVec 512
  fmtb : BitVec 512
  ab0 : VAddr
  ab1 : VAddr
  ab2 : VAddr
  mode : Mode
  part : Nat
  /-- Its home team, by its uid. -/
  teamUid : Nat
  tctl : Tab Tctl
  /-- CH of each ring at issue. -/
  ch0 : List (Nat × Nat)
  /-- The start iteration. -/
  start : Nat
  /-- The next iteration to perform. -/
  next : Nat
  /-- The next iteration whose records the walker writes, how many of its records are written, and the slot of a copy queue that is claimed
  and not yet filled: core, queue, index (08 R182). -/
  written : Nat
  recsDone : Nat
  claim : Option (Nat × Nat × Nat)
  /-- The next iteration to stage, for the sources A, B and metadata. -/
  staged : Nat × Nat × Nat
  permits : Nat
  running : Bool
  /-- The iteration whose staging met an uncorrectable word. -/
  eccAt : Option Nat
  /-- The status with which the job is ending, and whether a step that had started then is still to complete (08 R184). -/
  ending : Option (BitVec 4)
  inStep : Bool
  /-- An MJOB.CANCEL has removed jobs queued behind it (08 R185). -/
  canceled : Bool
  deriving DecidableEq, Repr

/-- A command of the matrix engine, with what it captured at issue (08 R170). -/
inductive Command
  | tile (store : Bool) (t : Nat) (pieces : List Piece)
  | step (acc a b : Nat) (ovw sparse : Bool) (ta tb tm : Tctl)
  | zero (acc : Nat)
  | move (dst src : Nat)
  | drain (acc : Nat) (cvt : Bool) (pieces : List Piece) (cfg : Mdcfg) (scale : Word)
  | job (j : Job)
  deriving DecidableEq, Repr

/-- The wait in which a group stands (10 R214). -/
inductive Wait
  | none
  /-- In SPOP (false) or SPOP.OPEN (true) on a ring. -/
  | ring (ring : Nat) (isOpen : Bool)
  | mailbox
  /-- In WAITL: the monitored lines (kind, line number), whether the sleep has ended, and when it must end: by clock (WTO) and by time. -/
  | line (lines : List (Nat × Nat)) (woken : Bool) (clock : Option Nat) (latest : Option Nat)
  | barrier (key : Nat)
  /-- In TAGF: the tag, and whether it has reached FREE. -/
  | tagf (tag : Nat) (done : Bool)
  | meetLimit
  /-- In XCP or XCPD for room: the lanes whose records are handled, with their statuses (04 R91). -/
  | room (handled : List (Nat × Word))
  /-- For a place in the matrix engine's queue, with the command that was checked and captured at issue (08 R170). -/
  | matrixQueue (c : Command)
  | matrixIdle
  /-- In MJOB.CANCEL: whether the running job ends by it, so that it returns that job's iteration (08 R185). -/
  | cancel (mine : Bool)
  /-- In YIELDC, with the mask register to write (04 R92). -/
  | continuation (k : Nat)
  | stop
  /-- In a CSRW of CTXOP until the save of a team is complete (13 R296). -/
  | context (key : Nat)
  /-- For atomic answers: the lanes answered, each with the old value or the cause of its refusal (12 R270). -/
  | atomic (answers : List (Nat × Bool × Dword))
  deriving DecidableEq, Repr

/-- The debug registers of a group (13 Table 8). -/
structure DebugRegs where
  halted : Bool
  haltReq : Bool
  /-- RESUME as it reads: held from the write that sets it until the group halts again (log 53). -/
  resume : Bool
  single : Bool
  /-- STEP or HALTREQ is set and the one instruction or trap entry that may still pass has begun. -/
  armed : Bool
  bkptHalts : Bool
  lavCheck : Bool
  pendV : Bool
  pendCause : BitVec 8
  pendEval : Dword
  pendTlm : Dword
  done : Dword
  pc : Dword
  deriving DecidableEq, Repr

/-- A resident group (10 R208, R213). -/
structure Group where
  /-- The model's own number of the group, by which copies find their owner wherever it is restored (04 R93). -/
  uid : Nat
  part : Nat
  /-- Key of its team: core × 32 + team number; the even core of a pair. -/
  team : Nat
  gid : Nat
  role : Role
  width : Nat
  pc : Dword
  em : Dword
  dm : Dword
  mode : Mode
  k : Store 64
  s : Store 64
  x : Store 9
  ab : Store 80
  wb : BitVec 9
  rbase : BitVec 6
  rsize : BitVec 5
  spov : Bool
  fpctl : BitVec 9
  fpstat : BitVec 5
  atcause : BitVec 8
  wto : BitVec 32
  st : TrapRegs
  ht : TrapRegs
  dbg : DebugRegs
  udgen : BitVec 2
  ksel : BitVec 14
  klen : BitVec 32
  mrsel : BitVec 11
  tlStatus : BitVec 3
  /-- Outstanding continuation copies (04 R92). -/
  xcnt : Nat
  cerr : Bool
  out : List Outstanding
  /-- ECCs held pending behind a trap of a level (true for H), raised after the RTE that returns from it (03 R55). -/
  ecc : List (Bool × EccInfo)
  /-- ECCs whose load has landed, to be raised at the next issue. -/
  eccNow : List EccInfo
  /-- ARR and PASS by barrier: team 0 to 15, cluster 16 to 23, grid 24 to 27 (12 R277). -/
  arr : BitVec 28
  pass : BitVec 28
  preLit : Option (BitVec 25)
  preIx : Option (BitVec 25)
  /-- The address of the first prefix of the sequence that is under way (02 R34). -/
  preStart : Option Dword
  wait : Wait
  /-- The instruction word under way, from its fetch on. -/
  word : Word
  job : Bool
  drained : Bool
  parked : Bool
  /-- Stopped for a save of its team (13 R296). -/
  stopped : Bool
  /-- A stop for a save of its team is due at the next instruction boundary (13 R291, R296). -/
  stopping : Bool
  /-- A park is due at the next instruction boundary (13 R291, R299). -/
  parking : Bool
  /-- The stop that is due fell in the clock of an instruction that issues first (13 R293). -/
  raced : Bool
  wedged : Bool
  readySince : Nat
  yieldUntil : Nat
  deriving DecidableEq, Repr

/-- A stage ring: its configuration and its state (05 R104, R105). -/
structure Ring where
  en : Bool
  nm1 : BitVec 4
  sz : BitVec 10
  base : BitVec 20
  ph : BitVec 16
  st : BitVec 32
  ch : BitVec 4
  pt : BitVec 4
  cph : Bool
  badc : Bool
  deriving DecidableEq, Repr

/-- A drain of a team: when it was accepted and when its deadline falls, in ns (13 R295, R301). -/
structure Drain where
  start : Nat
  deadline : Nat
  halfDone : Bool
  deriving DecidableEq, Repr

/-- A team (10 R208). -/
structure Team where
  /-- The model's own number of the team, by which answers find it wherever it is restored (09 R199). -/
  uid : Nat
  part : Nat
  core : Nat
  num : Nat
  paired : Bool
  sbase : BitVec 7
  ssize : BitVec 8
  rings : Tab Ring
  tbar : Store 32
  cbar : BitVec 8
  gbar : BitVec 4
  pb : Store 48
  ph : Store 32
  /-- Groups that wait on a ring, in the order in which they began: group, ring, open side (05 R107). -/
  ringWait : List (GroupId × Nat × Bool)
  groups : List GroupId
  /-- What groups that have stopped keep until the team ends: slot, register base, size (10 R213). -/
  held : List (GroupId × Nat × Nat)
  drain : Option Drain
  /-- Its groups have been stopped for the save of its vacate; true when that was a hard stop (13 R301). -/
  saving : Option Bool
  /-- Slot expiry is pending: when it began and the drain deadline (13 R299). -/
  expiry : Option Drain
  parked : Bool
  stopped : Bool
  deriving DecidableEq, Repr

/-- A translation held in a TLB, combined over both stages (03 R64). -/
structure TlbEnt where
  part : Nat
  /-- Whether the entry is of H mode's tables. -/
  hyp : Bool
  kind : Nat
  /-- Page size: its binary logarithm, 16, 21 or 30. -/
  logSize : Nat
  vpage : Nat
  /-- Stage-1 page base and size: the intermediate address. -/
  ipage : Nat
  ppage : Nat
  /-- Physical page of the upper page of a shadowed pair, which a use may still have to translate. -/
  shd : Bool
  /-- Size of the stage-1 page, for the pair of a shadowed leaf. -/
  s1Log : Nat
  grants : BitVec 4
  deriving DecidableEq, Repr

/-- A line of a first-level instruction cache (03 R53): its unit, the translation by which it was filled, the line's number in virtual,
intermediate and device memory, and its 64 bytes. -/
structure CodeLine where
  unit : Nat
  part : Nat
  hyp : Bool
  logSize : Nat
  vline : Nat
  iline : Nat
  pline : Nat
  data : BitVec 512
  deriving DecidableEq, Repr

/-- A copy in flight (04 R83). -/
structure Copy where
  id : Nat
  record : BitVec 512
  /-- 0 XCP, 1 XCPD, 2 to 9 queue 0 to 7. -/
  source : Nat
  /-- Scratchpad offset of an XCPD record; slot index of a queue record. -/
  home : Nat
  /-- Where a queue record's slot lies in its partition's kind-0 space, and its number in the queue, as it was taken (04 R78, R85). -/
  slotOff : Nat
  slotNum : Nat
  row : Nat
  mode : Mode
  part : Nat
  /-- The team of a queue record, by its uid: the one bound to the queue when the record was taken (04 R76), or that of the job whose walker
  wrote it (08 R186). -/
  teamUid : Option Nat
  /-- The partition for which its completion event is decremented: of a queue record, that of the bound team (10 R228). -/
  evPart : Nat
  /-- The group charged for it, by its uid. -/
  owner : Option Nat
  /-- The record was written by a matrix job's walker (08 R183). -/
  walker : Bool
  stamp : Nat
  /-- The lowest uncorrectable byte that it has met, and the direction of the access: 0 read, 1 write (04 R89, Table 10). -/
  err : Option (VAddr × Nat)
  /-- Its home could not be written, so that its end waits for the restart of its queue (04 R80). -/
  held : Bool
  deriving DecidableEq, Repr

/-- A fault-log entry that waits to be written (04 R87). -/
structure LogEntry where
  bytes : BitVec 1024
  part : Nat
  /-- The halted copy that keeps its in-flight place meanwhile; none for an entry that holds none. -/
  copy : Option Copy
  deriving DecidableEq, Repr

/-- A halted copy that has been logged: its entry's index modulo 2^16, and what the device keeps of it (04 R86, R88, 03 R358). -/
structure Halted where
  entry : Nat
  copy : Copy
  deriving DecidableEq, Repr

/-- A copy queue (04 R84, R85). -/
structure CopyQueue where
  en : Bool
  logn : BitVec 4
  team : BitVec 5
  base : BitVec 48
  part : Nat
  /-- Next slot to take. -/
  next : Nat
  /-- Slots finished, not yet counted in RIDX because an earlier one runs. -/
  done : List Nat
  ridx : Nat
  /-- Slots that halted or were found malformed. -/
  halted : List Nat
  /-- Stopped by a fault on its own memory. -/
  faulted : Bool
  /-- RIDX has been read from the header since the queue was enabled. -/
  synced : Bool
  /-- The lowest uncorrectable byte that the halted copy of a slot has met, with the direction of its access (04 R89). -/
  errs : List (Nat × VAddr × Nat)
  /-- Slots that a matrix job's walker filled, with the mode of its MJOB (03 R358) and its home team, by its uid (08 R186). -/
  walker : List (Nat × Mode × Nat)
  /-- The team bound to the queue, by its uid: the one that TEAM named when XQCFG was written, or the first to come with that number
  (04 R84). -/
  bound : Option Nat
  deriving DecidableEq, Repr

/-- A record that waits to be posted (10 R229). -/
structure ReadyRec where
  record : BitVec 256
  target : Nat
  /-- The dispatcher job it belongs to: stream, operator position, r, c, k. -/
  job : Option (Nat × Nat × Nat × Nat × Nat)
  deriving DecidableEq, Repr

/-- A vector core's own state (04, 06 R115, 10 R229). -/
structure Core where
  /-- Records in posting order, each with the partition it is posted for. -/
  mailbox : List (Nat × ReadyRec)
  mailWait : List GroupId
  xqsel : BitVec 3
  xq : Tab CopyQueue
  flogEn : Bool
  flogLogn : BitVec 4
  flogBase : BitVec 48
  flogPart : Nat
  xfridx : BitVec 16
  widx : Nat
  lbad : Bool
  copies : List Copy
  logWait : List LogEntry
  halted : List Halted
  /-- Copies that XFRES resumed and that wait for room (04 R88). -/
  resumed : List Copy
  /-- The source served last: 0 for XCP and XCPD, 1 + q for queue q (04 R83). -/
  served : Nat
  gen0 : BitVec 32
  gen1 : BitVec 32
  genx : BitVec 32
  tlb : List TlbEnt
  slmap : BitVec 32
  clk0 : Nat
  clk1 : Nat
  deriving DecidableEq, Repr

/-- Who sent an atomic request: a lane of a group, the host complex, or a peer device (12 R269). -/
inductive Asker
  | lane (g : GroupId) (lane : Nat)
  | host
  | peer (dev : Nat)
  deriving DecidableEq, Repr

/-- An atomic request at a teller (12 R269). -/
structure TellerReq where
  asker : Asker
  op : AtOp
  wide : Bool
  kind : Nat
  phys : Nat
  shadowed : Bool
  part : Nat
  val : Dword
  cmp : Dword
  /-- QEPOCH at its translation (03 R67). -/
  stamp : Nat
  deriving DecidableEq, Repr

/-- A cluster's own state: its sequencer's mailbox, its matrix engine, its barriers and its teller (08 R166, 12 R269, R275). -/
structure Cluster where
  /-- Records in posting order, each with the partition it is posted for. -/
  mailbox : List (Nat × ReadyRec)
  mailWait : List GroupId
  tctl : Tab Tctl
  mtstr : Word
  mdcfg : Mdcfg
  mdscl : Word
  disc : Bool
  eccBit : Bool
  mderr : Bool
  badcfg : Bool
  atype : BitVec 8
  jst : BitVec 4
  mjCause : BitVec 8
  mjIter : BitVec 40
  mjfa : Dword
  queue : List Command
  gend : BitVec 32
  ph : Store 32
  teller : List TellerReq
  tlb : List TlbEnt
  clk : Nat
  deriving DecidableEq, Repr

/-- A level of an operator stream: where its instructions stand, how many, and the next (10 R222). -/
structure StreamLevel where
  base : VAddr
  count : Nat
  pos : Nat
  deriving DecidableEq, Repr

/-- The latest compute operator of a stream, as the next one needs it (10 R220). -/
structure PrevOp where
  seq : Nat
  tm : Nat
  tn : Nat
  rows : Nat
  cols : Nat
  deriving DecidableEq, Repr

/-- What a job or an operator waits for (10 R220). -/
inductive Dep
  /-- A job of the stream: operator position, row, column, k. -/
  | job (seq r c k : Nat)
  /-- An event of this device. -/
  | event (idx : Nat)
  /-- An operator of the stream. -/
  | op (seq : Nat)
  deriving DecidableEq, Repr

/-- A tile job (10 R219 to R221). -/
structure TileJob where
  stream : Nat
  seq : Nat
  r : Nat
  c : Nat
  kk : Nat
  deps : List Dep
  depEvt : Nat
  doneEvt : Nat
  record : BitVec 256
  target : Nat
  hint : BitVec 4
  /-- 0 waiting, 1 ready, 2 posted, 3 complete. -/
  phase : Nat
  deriving DecidableEq, Repr

/-- A decoded operator: its position, whether and where it signals, its kind, and whether it is complete (10 R221). -/
structure OpRec where
  seq : Nat
  sig : Option Nat
  hint : BitVec 4
  /-- Jobs not complete. -/
  left : Nat
  /-- Earlier operators that a SIG waits for. -/
  after : Bool
  /-- Events of earlier WAITs that a SIG still waits for. -/
  evs : List Nat
  complete : Bool
  /-- A job of it has been posted, and its first job has been held for its operating point (10 R226). -/
  started : Bool
  held : Bool
  deriving DecidableEq, Repr

/-- A dispatcher stream (10 R217 to R223, 11 R247). -/
structure Stream where
  id : Nat
  queue : Nat
  qpos : Dword
  qlevel : Nat
  waitDone : Bool
  levels : List StreamLevel
  seq : Nat
  prev : Option PrevOp
  /-- Events of earlier WAITs not yet satisfied. -/
  waits : List Nat
  /-- Position of the latest FENCE. -/
  fence : Option Nat
  ops : List OpRec
  ended : Bool
  error : BitVec 8
  deriving DecidableEq, Repr

/-- Who sent a contribution (09 R191, R198). -/
structure Sender where
  /-- The group and the team, by their uids. -/
  group : Nat
  team : Nat
  core : Nat
  soff : BitVec 13
  barn : Option Nat
  deriving DecidableEq, Repr

/-- A contribution in the on-chip network (09 R191). -/
structure Contr where
  part : Nat
  tag : Nat
  cidx : Nat
  seq : BitVec 16
  xid : Nat
  sender : Sender
  data : List Byte
  deriving DecidableEq, Repr

/-- An answer on its way to a sender (09 R198). -/
structure Answer where
  sender : Sender
  tag : Nat
  cidx : Nat
  seq : BitVec 16
  status : BitVec 8
  pres : Dword
  first : Bool
  deriving DecidableEq, Repr

/-- The states of a tag other than FREE (09 Table 3). -/
inductive TagSt
  | idle | fill | fwd | pois | freeing
  deriving DecidableEq, Repr

/-- An allocated tag (09 R191, R192). -/
structure Tag where
  st : TagSt
  desc : BitVec 256
  cur : BitVec 16
  pres : Dword
  /-- The contribution that began the round: its sender, CIDX and SEQ. -/
  first : Option (Sender × Nat × BitVec 16)
  started : Nat
  tout : Nat
  mode : Mode
  chunks : List (Nat × List Byte)
  /-- A TAGF waits for the FWD ending. -/
  freeReq : Bool
  deriving DecidableEq, Repr

/-- A firing of a tile table entry (09 R201): the entry as TTRDY read it, the mode of that TTRDY, the first pair that has not landed, whether
that pair is on its way, the earliest time to send it, and whether the firing has halted (09 R202). -/
structure Firing where
  entry : Nat
  desc : BitVec 512
  mode : Mode
  next : Nat
  flying : Bool
  due : Nat
  halted : Bool
  deriving DecidableEq, Repr

/-- A partition's own state (13 R280, R306). -/
structure Partition where
  s1root : BitVec 33
  s2root : BitVec 33
  hroot : BitVec 33
  pinStatus : BitVec 3
  pinq : BitVec 7
  celRef : Bool
  mtagEn : Bool
  mtagLog : BitVec 5
  mtagBase : BitVec 48
  mrtout : BitVec 16
  /-- Router counters: router × 8 + counter (09 R196). -/
  mrcnt : Store 64
  ttEn : Bool
  ttLog : BitVec 5
  ttBase : BitVec 48
  landEn : Bool
  landLog : BitVec 4
  landBase : BitVec 48
  splEn : Bool
  splLog : BitVec 4
  splBase : BitVec 48
  landRef : BitVec 16
  badl : Bool
  bads : Bool
  /-- Landing slots that hold a VALID chunk. -/
  landUsed : List Nat
  /-- Spilled chunks, oldest first: ring index and launch counter. -/
  spilled : List (Nat × BitVec 32)
  splNext : Nat
  arrivals : Nat
  opEn : Bool
  opBase : BitVec 48
  tdEn : Bool
  tdLog : BitVec 5
  tdBase : BitVec 48
  jcEn : Bool
  jcLog : BitVec 5
  jcBase : BitVec 48
  lbEn : Bool
  lbBase : BitVec 48
  bindf : BitVec 16
  undf : BitVec 16
  rej : BitVec 16
  evN : BitVec 17
  evLo : BitVec 16
  evDpn : BitVec 16
  kN : BitVec 15
  kLo : BitVec 14
  shdStatus : BitVec 3
  stvec : Dword
  stwb : BitVec 9
  htvec : Dword
  htwb : BitVec 9
  ctxStatus : BitVec 3
  feat : Dword
  pubEn : Bool
  pubLog : BitVec 5
  pubBase : BitVec 48
  pubNext : BitVec 24
  pubSeq : Nat
  castState : BitVec 2
  castOk : BitVec 8
  castBad : BitVec 8
  castBadh : BitVec 16
  /-- Peers that have not answered a multicast, how many of the others accepted and refused, and its LEVT. -/
  castWait : List Nat
  castYes : Nat
  castNo : Nat
  castLevt : BitVec 32
  tags : Tab Tag
  firings : List Firing
  streams : List Stream
  nextStream : Nat
  jobs : List TileJob
  ready : List ReadyRec
  /-- Pool entries in use, as event indices. -/
  poolUsed : List Nat
  point : BitVec 4
  /-- The operating point on its way. -/
  pointReq : Option (BitVec 4)
  ph : Store 32
  deriving DecidableEq, Repr

/-- A level of a command queue: where its words stand, how many, the next; the loop and the skip count of the level (11 R245, R246). -/
structure QLevel where
  /-- Address of a buffer; the ring is level 0 and has none. -/
  base : VAddr
  len : Nat
  pos : Nat
  /-- Start of the body, its end, and passes left. -/
  loop : Option (Nat × Nat × Nat)
  skip : Nat
  deriving DecidableEq, Repr

/-- What a queue thread waits for (11 R235). -/
inductive QWait
  | none
  /-- In WAIT: when it times out. -/
  | cond (until_ : Option Nat)
  /-- In a RUNOPS for a stream slot. -/
  | slot
  /-- In a WAITDONE RUNOPS for its stream. -/
  | stream (id : Nat)
  | drain
  | report
  deriving DecidableEq, Repr

/-- A command queue and its thread (11 R236). -/
structure Queue where
  en : Bool
  stop : Bool
  haltReq : Bool
  /-- RUN as it reads: held from the write that sets it until the thread's next turn (log 53). -/
  run : Bool
  /-- EN has been cleared while an FFENCE waits, which completes first (11 R248). -/
  closing : Bool
  evr : BitVec 3
  owner : BitVec 6
  nonce : BitVec 48
  kind : BitVec 3
  logw : BitVec 5
  base : BitVec 48
  rptr : Dword
  wptr : Dword
  code : BitVec 8
  level : BitVec 3
  lost : Bool
  epos : Dword
  why : BitVec 4
  rejCount : Word
  throt : Bool
  ovrf : Bool
  period : BitVec 20
  budget : BitVec 20
  periodStart : Nat
  periodIdx : Nat
  /-- Issue slots that the thread has taken in its period (13 R303). -/
  used : Nat
  /-- Issue slots that the thread still takes before the one in which the packet at hand takes effect; none before its first (11 R235). -/
  slots : Option Nat
  rights : BitVec 8
  levels : List QLevel
  /-- Words that the front end has read: a ring word by its position, a buffer word by its address, with the value (11 R249). -/
  ahead : List (Option Nat × VAddr × Word)
  wait : QWait
  /-- The packet that waits, as it was read. -/
  packet : Option Packet
  /-- A WPTR_BAD that waits for the packet boundary. -/
  badWptr : Option Dword
  deriving DecidableEq, Repr

/-- A host event ring (11 R252). -/
structure EventRing where
  en : Bool
  logn : BitVec 4
  base : BitVec 48
  fault : Bool
  lost : Word
  owed : Bool
  deriving DecidableEq, Repr

/-- A key of the device (12 R261). -/
structure Key where
  v : Bool
  kind : BitVec 3
  base : BitVec 48
  lines : Word
  gen : Dword
  deriving DecidableEq, Repr

/-- A shadow pair (12 R264). -/
structure Pair where
  part : Nat
  kind : Nat
  logSize : Nat
  lower : Nat
  front : Bool
  deriving DecidableEq, Repr

/-- An entry of the cellar (03 R68). -/
structure CellarEnt where
  part : Nat
  size : BitVec 2
  kind : BitVec 3
  page : BitVec 32
  stamp : Nat
  released : Bool
  deriving DecidableEq, Repr

/-- A saved team: where its image lies, the team, its groups with their registers, its scratchpad bytes, its rings and
barriers, and its sequencer's matrix state (13 R296). The layout in memory is not architectural. -/
structure Image where
  area : Nat
  live : Bool
  hard : Bool
  rcore : Option Nat
  part : Nat
  team : Team
  groups : List (Nat × Group)
  /-- Vector registers by group: allotment register × 64 + lane. -/
  regs : List (Nat × Store 32)
  scratch : Store 8
  matrix : Option Cluster
  tiles : Store 8
  accs : Store 32
  deriving DecidableEq, Repr

/-- A reservation on a core (13 R297, R302). -/
structure Reserve where
  /-- The team, by its uid. -/
  uid : Nat
  core : Nat
  /-- The team number that is withheld: of a save with KEEP (13 R296). -/
  num : Option Nat
  slots : List Nat
  regs : List (Nat × Nat)
  sbase : Nat
  ssize : Nat
  seqr : Bool
  deriving DecidableEq, Repr

/-- A vacate in progress (13 R300). -/
structure Vacate where
  part : Nat
  first : Nat
  last : Nat
  rcore : Nat
  start : Nat
  deadline : Nat
  nextArea : Nat
  lastArea : Option Nat
  deriving DecidableEq, Repr

/-- What the device has sent over UALink: requests whose effect lies on another device (15 R325). -/
inductive Sent
  | signal (dev : Nat) (handle : Word) (set : Bool) (n : Word)
  | write (va : VAddr) (data : List Byte)
  | read (va : VAddr) (bytes : Nat)
  | atomic (va : VAddr) (op : AtOp) (wide : Bool) (val cmp : Dword)
  /-- A chunk of a tile: the peer, the header (source device, tile, chunk, ROUND, OP, FMT, CMP), where OP 4 places it and the event that it
  decrements, both as the peer knows them, the blocks that were uncorrectable, and the bytes (09 R200, R201). -/
  | chunk (dev sdev : Nat) (part entry chunk round op fmt : Nat) (cmp : Bool) (rdst : VAddr) (revt : Word) (bad : List Nat) (data : List Byte)
  | cast (dev part off : Nat) (record code : List Byte) (revt : Word)
  | refusal (dev : Nat) (cause : BitVec 8)
  | reply (dev : Nat) (data : List Byte)
  /-- What a load or an atomic of the host complex reads, and its access fault (15 R320). -/
  | hostReply (data : List Byte)
  | hostFault
  /-- An uncorrectable word that the host complex has read. -/
  | hostPoison
  /-- A source of the host complex's interrupts is raised for at least one clock (15 R322). -/
  | pulse (source : Nat)
  deriving DecidableEq, Repr

/-- Whose turn it is: which unit acts in a step (log 4). -/
inductive Turn
  /-- A pipe of a vector core: it picks a ready group by 10 R214. -/
  | pipe (core pipe : Nat)
  /-- The sequencer of a cluster. -/
  | sequencer (cluster : Nat)
  /-- The dispatcher: the next operator of a stream of a partition. -/
  | stream (part stream : Nat)
  /-- A queue thread: its next packet. -/
  | queue (q : Nat)
  /-- A queue's front end reads a word: of the ring at a position, or of a buffer at an address (11 R249). -/
  | readAhead (q : Nat) (pos : Option Nat) (va : VAddr)
  /-- A step of a unit, the host, a link or the pins: one of the rows of the opcode table that have no word. -/
  | unit (i : Instr)
  /-- Time passes, in ns; temperature and current are read. -/
  | elapse (ns : Nat) (temp : BitVec 8) (current : Bool)
  /-- An upset: bits flip, by their places in the unit of error protection that holds an address, on a die (03 R54, R55, 01 R21); kind 5 is
  the register files of sequencers. -/
  | upset (kind addr die : Nat) (bits : List Nat)
  /-- An upset of an 8-byte word of a contribution in a router's vat (03 R55). -/
  | vatUpset (part tag cidx word die : Nat) (bits : List Nat)
  /-- The on-chip network delivers a contribution again (09 R191). -/
  | redeliver
  deriving DecidableEq, Repr

/-- The machine. -/
structure State where
  /-- Device memory, kinds 0 and 4, by physical offset. -/
  hbm : Store 8
  /-- The on-chip window map (03 Table 2) but for its register files and accumulators, by physical kind-1 offset. -/
  win : Store 8
  /-- Vector registers: (core × 2,048 + register) × 64 + lane. -/
  vregs : Store 32
  /-- Sequencer registers: cluster × 512 + register. -/
  sregs : Store 32
  /-- Accumulators: ((cluster × 8 + accumulator) × 128 + row) × 128 + column. -/
  accs : Store 32
  /-- LPDDR5X, kind 2. -/
  lpddr : Store 8
  /-- The CXL pool, kind 3. -/
  cxl : Store 8
  /-- First-level instruction caches (03 R53). -/
  icache : List CodeLine
  /-- Poisoned units of error protection, each with its number: 32-byte sectors of kinds 0 (and 4), 2 and 3; 8-byte words of kind 1;
  32-byte sectors of pinned L2 under number 6; 8-byte words of sequencer register files under number 5 (03 R54, R55). -/
  poison : List (Nat × Nat)
  groups : Tab Group
  teams : Tab Team
  cores : Tab Core
  clusters : Tab Cluster
  parts : Tab Partition
  live : BitVec 64
  events : Store 31
  keys : Tab Key
  pairs : List Pair
  l2tlb : Tab (List TlbEnt)
  /-- Pinned units: die × 96 + unit, with the partition that holds it. -/
  pinned : Tab Nat
  qepoch : Nat
  cellar : List CellarEnt
  queues : Tab Queue
  /-- The thread that each queue processor served last in its round (11 R235, 13 R303). -/
  qserved : Tab Nat
  rings : Tab EventRing
  edf : Bool
  mintIn : Store 64
  nrctl : Store 64
  nrbase : Store 64
  slEn : Bool
  slN : BitVec 2
  slPeriod : BitVec 20
  slDrn : BitVec 16
  slEpoch : Dword
  slSel : BitVec 8
  vState : BitVec 2
  vRes : BitVec 3
  vHard : BitVec 8
  vSaved : BitVec 8
  vElapsed : BitVec 16
  varea : BitVec 48
  vevt : Word
  vacate : Option Vacate
  images : List Image
  reserves : List Reserve
  pbEn : Bool
  pbBase : BitVec 48
  net : List Contr
  answers : List Answer
  answered : List Nat
  lastContr : Option Contr
  nextXid : Nat
  nextCopy : Nat
  nextUid : Nat
  /-- Refused arrivals, each with the earliest time of its retry (09 R205). -/
  arrivalsHeld : List (Arrival × Nat)
  sent : List Sent
  /-- NAKs the frontend ports have sent. -/
  naks : Nat
  devLock : Bool
  devBadw : Bool
  devEccm : BitVec 2
  devVatx : BitVec 2
  devPinf : BitVec 2
  devPact : BitVec 2
  devProf : BitVec 2
  /-- ECC mode in effect, sampled at the memory clear (01 R21). -/
  eccMode : BitVec 2
  featen : BitVec 11
  idLock : Bool
  portUp : BitVec 18
  devNum : BitVec 13
  bootKind : BitVec 2
  bootRetrain : Bool
  bootStep : BitVec 3
  bootFail : BitVec 8
  /-- The BFAIL pin is driven (15 R328). -/
  bfail : Bool
  /-- BOOTCTL.WARM. -/
  warmReq : Bool
  poolSz : BitVec 8
  warms : Word
  starts : Nat
  thrLvl : BitVec 4
  thrCur : Bool
  thrHot : Bool
  thrTemp : BitVec 8
  eccUe : Store 32
  eccCe : Store 32
  sbFrozen : Bool
  /-- SBCTL.FREEZE as it reads: held until FROZEN is cleared (log 53). -/
  sbFreeze : Bool
  sbCause : BitVec 3
  sbDrop : BitVec 16
  sbWidx : Word
  strongbox : Store 256
  cxlUp : Bool
  psPend : Bool
  psLstat : BitVec 3
  psStatus : BitVec 3
  firstStart : Bool
  inReset : Bool
  /-- Time in ns on the IEEE 1588 timescale. -/
  time : Nat
  cur : GroupId
  /-- The stream that decodes, and the queue whose packet is processed, in this turn. -/
  curPart : Nat
  curStream : Nat
  curQueue : Nat
  agenda : List Turn
  fresh : Nat
  turns : Nat
  deriving DecidableEq, Repr

/-- A set of trap registers at group launch (13 Tables 3 to 5). -/
def TrapRegs.launch : TrapRegs := ⟨false, 0, 0, 0, 0, 0, 0, 0, 0, 0, []⟩

/-- The debug registers at group launch (13 Table 8). -/
def DebugRegs.launch : DebugRegs := ⟨false, false, false, false, false, false, false, false, 0, 0, 0, 0, 0⟩

/-- A vector core after a start: SRSEED and the generators 1 (06 R115), LOGN 4, nothing queued. -/
def Core.reset : Core :=
  ⟨[], [], 0, [], false, 4, 0, 0, 0, 0, false, [], [], [], [], 0, 1, 1, 1, [], 0, 0, 0⟩

/-- A copy queue after a start: disabled, LOGN 4 (04 Table 7). -/
def CopyQueue.reset : CopyQueue := ⟨false, 4, 0, 0, 0, 0, [], 0, [], false, false, [], [], none⟩

/-- A tile register's control at group launch: E4M3, 128 rows, 128 columns (08 Table 1). -/
def Tctl.reset : Tctl := ⟨4, 127, 127⟩

/-- The drain configuration at group launch (08 Table 7). -/
def Mdcfg.reset : Mdcfg := ⟨1, false, 0, 127, 127⟩

/-- A cluster after a start (08 Tables 1 to 8, Reset column). -/
def Cluster.reset : Cluster :=
  ⟨[], [], [], 128, Mdcfg.reset, 0x3F800000, false, false, false, false, 0, 0, 0, 0, 0, [], 1, [], [], [], 0⟩

/-- A queue after a start: LOGW 10 (11 Table 3), all else 0. -/
def Queue.reset : Queue :=
  { en := false, stop := false, haltReq := false, run := false, closing := false, evr := 0, owner := 0, nonce := 0, kind := 0, logw := 10, base := 0,
    rptr := 0, wptr := 0, code := 0, level := 0, lost := false, epos := 0, why := 0, rejCount := 0, throt := false,
    ovrf := false, period := 0, budget := 0, periodStart := 0, periodIdx := 0, used := 0, slots := none, rights := 0, levels := [],
    ahead := [], wait := .none, packet := none, badWptr := none }

/-- An event ring after a start: disabled, LOGN 4 (11 Table 11). -/
def EventRing.reset : EventRing := ⟨false, 4, 0, false, 0, false⟩

/-- A partition's state at partition start, before the start record's values are taken (13 R306, the CSRs' Reset columns). -/
def Partition.start : Partition :=
  { s1root := 0, s2root := 0, hroot := 0, pinStatus := 0, pinq := 0, celRef := false, mtagEn := false, mtagLog := 4,
    mtagBase := 0, mrtout := 200, mrcnt := [], ttEn := false, ttLog := 0, ttBase := 0, landEn := false, landLog := 0,
    landBase := 0, splEn := false, splLog := 0, splBase := 0, landRef := 0, badl := false, bads := false, landUsed := [],
    spilled := [], splNext := 0, arrivals := 0, opEn := false, opBase := 0, tdEn := false, tdLog := 0, tdBase := 0,
    jcEn := false, jcLog := 0, jcBase := 0, lbEn := false, lbBase := 0, bindf := 0, undf := 0, rej := 0, evN := 0,
    evLo := 0, evDpn := 0, kN := 0, kLo := 0, shdStatus := 0, stvec := 0, stwb := 0, htvec := 0, htwb := 0,
    ctxStatus := 0, feat := 1, pubEn := false, pubLog := 16, pubBase := 0, pubNext := 0, pubSeq := 0, castState := 0,
    castOk := 0, castBad := 0, castBadh := 0, castWait := [], castYes := 0, castNo := 0, castLevt := 0, tags := [], firings := [], streams := [],
    nextStream := 0, jobs := [], ready := [], poolUsed := [], point := 1, pointReq := none, ph := [] }

/-- A new group: every state zero or at its reset value (10 R213); the launch adds what its record gives. -/
def Group.launch : Group :=
  { uid := 0, part := 0, team := 0, gid := 0, role := .vector, width := 16, pc := 0, em := 0, dm := 0, mode := .s, k := [], s := [],
    x := [], ab := [], wb := 0, rbase := 0, rsize := 1, spov := false, fpctl := 0, fpstat := 0, atcause := 0, wto := 0,
    st := TrapRegs.launch, ht := TrapRegs.launch, dbg := DebugRegs.launch, udgen := 3, ksel := 0, klen := 0, mrsel := 0,
    tlStatus := 0, xcnt := 0, cerr := false, out := [], ecc := [], eccNow := [], arr := 0, pass := 0, preLit := none,
    preIx := none, preStart := none, wait := .none, word := 0, job := false, drained := false, parked := false, stopped := false,
    stopping := false, parking := false, raced := false, wedged := false, readySince := 0, yieldUntil := 0 }

/-- The 32 bytes of a strongbox record as one number, the lowest byte first (15 Table 12). -/
def sbEntry (time seq src code unit pos value : Nat) : BitVec 256 :=
  BitVec.ofNat 64 value ++ BitVec.ofNat 64 pos ++ BitVec.ofNat 16 unit ++ BitVec.ofNat 8 code ++ BitVec.ofNat 8 src ++
  BitVec.ofNat 32 seq ++ BitVec.ofNat 64 time

/-- The record of a start step, of source 6 (15 Table 12); its CODE is left open (log 23). -/
def stepEntry (time seq : Nat) : BitVec 256 := sbEntry time seq 6 (Config.strongboxCode 6 seq).toNat 0 0 0

/-- The machine right after a cold start (15 R328; 13 R306: no partition is live), whose six steps have been recorded (15 R331). The values
that the specification does not give are named in logs 1, 2, 4, 6 and 9. -/
def State.reset : State :=
  { hbm := [], win := [], vregs := [], sregs := [], accs := [], lpddr := [], cxl := [], icache := [], poison := [], groups := [],
    teams := [], cores := [], clusters := [], parts := [], live := 0, events := [], keys := [], pairs := [], l2tlb := [],
    pinned := [], qepoch := 0, cellar := [], queues := [], qserved := [], rings := [], edf := true, mintIn := [], nrctl := [],
    nrbase := [], slEn := false, slN := 0, slPeriod := 10000, slDrn := 0, slEpoch := 0, slSel := 0, vState := 0, vRes := 0,
    vHard := 0, vSaved := 0, vElapsed := 0, varea := 0, vevt := 0xFFFFFFFF, vacate := none, images := [], reserves := [],
    pbEn := false, pbBase := 0, net := [], answers := [], answered := [], lastContr := none, nextXid := 0, nextCopy := 0, nextUid := 0,
    arrivalsHeld := [], sent := [], naks := 0, devLock := false, devBadw := false, devEccm := 0, devVatx := 0,
    devPinf := 3, devPact := 0, devProf := 0, eccMode := 0, featen := 1, idLock := false, portUp := 0, devNum := 0,
    bootKind := 1, bootRetrain := false, bootStep := 6, bootFail := 0, bfail := false, warmReq := false, poolSz := 0, warms := 0, starts := 0, thrLvl := 0,
    thrCur := false, thrHot := false, thrTemp := 0, eccUe := [], eccCe := [], sbFrozen := false, sbFreeze := false, sbCause := 0,
    sbDrop := 0, sbWidx := 6, strongbox := (List.range 6).map fun i => (i, stepEntry 0 i), cxlUp := false, psPend := false, psLstat := 0, psStatus := 0,
    firstStart := false, inReset := false, time := 0, cur := 0, curPart := 0, curStream := 0, curQueue := 0, agenda := [], fresh := 0, turns := 0 }

end Sys2Proof.Machine
end

