-- ==== Sys2Proof/Machine/Physical.lean ====
section
/-! DEFINITION. Sparse tables, byte lists, strongbox records (15 R331) and the physical spaces: the on-chip window map (03 Table 2), error
protection and its poison (03 R54, R55, 15 R327), monitored lines (12 R272) and the write of bytes at their coherence point. -/
namespace Sys2Proof.Machine

/-- The entry of a sparse table; an unlisted number reads zero. -/
def storeGet {n : Nat} : Store n → Nat → BitVec n
  | [], _ => 0
  | (k, v) :: r, a => if k = a then v else storeGet r a

/-- Write an entry: the table stays in rising order and lists no zero. -/
def storeSet {n : Nat} (m : Store n) (a : Nat) (v : BitVec n) : Store n :=
  m.filter (fun e => decide (e.1 < a)) ++ ((if v = 0 then [] else [(a, v)]) ++ m.filter (fun e => decide (a < e.1)))

/-- The canonical form of a sparse table: rising numbers, no zero. -/
def storeWf {n : Nat} : Store n → Bool
  | [] => true
  | [(_, v)] => v != 0
  | (k, v) :: (k', v') :: r => v != 0 && decide (k < k') && storeWf ((k', v') :: r)

/-- The record of a number, if it has one. -/
def tabGet {α : Type} : Tab α → Nat → Option α
  | [], _ => none
  | (k, v) :: r, a => if k = a then some v else tabGet r a

/-- Write a record, keeping the rising order. -/
def tabSet {α : Type} (t : Tab α) (a : Nat) (v : α) : Tab α :=
  t.filter (fun e => decide (e.1 < a)) ++ ((a, v) :: t.filter (fun e => decide (a < e.1)))

/-- Remove a record. -/
def tabDel {α : Type} (t : Tab α) (a : Nat) : Tab α := t.filter (fun e => e.1 != a)

/-- A natural number from bytes, the lowest first (00 R5). -/
def leNat : List Byte → Nat
  | [] => 0
  | b :: r => b.toNat + 256 * leNat r

/-- The n lowest bytes of a number, the lowest first (00 R5). -/
def leBytes : Nat → Nat → List Byte
  | 0, _ => []
  | n + 1, v => BitVec.ofNat 8 v :: leBytes n (v / 256)

/-- A decimal field of a byte list: n bytes at an offset as a number. -/
def leField (l : List Byte) (off n : Nat) : Nat := leNat ((l.drop off).take n)

/-- A byte of a byte list. -/
def byteAt (l : List Byte) (i : Nat) : Nat := ((l[i]?).getD 0).toNat

/-- A strongbox record (15 R331): written when the strongbox is not frozen, else counted in DROP. CODE is that of the event record for source 1
and not stated for the others (log 23). -/
def sbRecord (s : State) (src code unit pos value : Nat) : State :=
  if s.sbFrozen then { s with sbDrop := if s.sbDrop = 0xFFFF then s.sbDrop else s.sbDrop + 1 }
  else
    let i := s.sbWidx.toNat
    { s with strongbox := storeSet s.strongbox (i % 4096)
               (sbEntry s.time i src (if src = 1 then code else (Config.strongboxCode src i).toNat) unit pos value),
             sbWidx := s.sbWidx + 1 }

/-- The extent of device memory in the ECC mode in effect (03 Device memory, 01 R21). -/
def hbmSize (s : State) : Nat := (if s.eccMode = 1#2 then 540 else 576) * 2 ^ 30
/-- The extent of the CXL pool (15 R327). -/
def poolSize (s : State) : Nat := s.poolSz.toNat * 16 * 2 ^ 30

/-- The regions of the on-chip window map (03 Table 2). -/
inductive Region
  | scratch (core off : Nat)
  | regs (core off : Nat)
  | tile (cluster off : Nat)
  | acc (cluster off : Nat)
  | pinned (die unit : Nat)
  | hole
  deriving DecidableEq, Repr

/-- The region of a physical kind-1 offset (03 Table 2). -/
def regionOf (off : Nat) : Region :=
  let o := off % 0x100000
  if off < 0x10000000 then (if o < 0x80000 then .scratch (off / 0x100000) o else .hole)
  else if off < 0x20000000 then (if o < 0x80000 then .regs ((off - 0x10000000) / 0x100000) o else .hole)
  else if off < 0x28000000 then (if o < 0x40000 then .tile ((off - 0x20000000) / 0x100000) o else .hole)
  else if 0x30000000 ≤ off ∧ off < 0x38000000 then
    (if o < 0x80000 then .acc ((off - 0x30000000) / 0x100000) o else .hole)
  else if 0x100000000 ≤ off ∧ off < 0x140000000 then
    let d := (off - 0x100000000) / 0x10000000
    let u := (off - 0x100000000) % 0x10000000 / 0x100000
    if u < 96 then .pinned d u else .hole
  else .hole

/-- Byte i of a 32-bit word (00 R5). -/
def wordByte (w : Word) (i : Nat) : Byte := w.extractLsb' (8 * (i % 4)) 8
/-- Replace byte i of a 32-bit word. -/
def wordSetByte (w : Word) (i : Nat) (b : Byte) : Word :=
  (w &&& ~~~((0xFF#32) <<< (8 * (i % 4)))) ||| ((b.setWidth 32) <<< (8 * (i % 4)))

/-- A byte of physical memory. -/
def memByte (s : State) (kind off : Nat) : Byte :=
  match kind with
  | 0 | 4 => storeGet s.hbm off
  | 1 =>
    match regionOf off with
    | .regs c o => wordByte (storeGet s.vregs (c * 131072 + o / 4)) o
    | .acc c o => wordByte (storeGet s.accs (c * 131072 + o / 4)) o
    | _ => storeGet s.win off
  | 2 => storeGet s.lpddr off
  | _ => storeGet s.cxl off

/-- Store a byte of physical memory. -/
def memSetByte (s : State) (kind off : Nat) (b : Byte) : State :=
  match kind with
  | 0 | 4 => { s with hbm := storeSet s.hbm off b }
  | 1 =>
    match regionOf off with
    | .regs c o =>
      let k := c * 131072 + o / 4
      { s with vregs := storeSet s.vregs k (wordSetByte (storeGet s.vregs k) o b) }
    | .acc c o =>
      let k := c * 131072 + o / 4
      { s with accs := storeSet s.accs k (wordSetByte (storeGet s.accs k) o b) }
    | _ => { s with win := storeSet s.win off b }
  | 2 => { s with lpddr := storeSet s.lpddr off b }
  | _ => { s with cxl := storeSet s.cxl off b }

/-- The canonical form of the machine's memory: in every space the listed addresses rise and no entry is zero, which is what an
unlisted address reads as (log 1). -/
def Memory.wf (s : State) : Bool :=
  storeWf s.hbm && storeWf s.win && storeWf s.lpddr && storeWf s.cxl && storeWf s.vregs && storeWf s.sregs && storeWf s.accs

/-- Kind 4 is another name of kind 0 (03 R53). -/
def normKind (k : Nat) : Nat := if k = 4 then 0 else k
/-- The unit of error protection that holds a byte: a 32-byte sector, in pinned L2 too (number 6), and an 8-byte word in the other on-chip
memories (03 R54, R55). -/
def poisonUnit (kind off : Nat) : Nat × Nat :=
  if kind = 1 then (if off < 0x100000000 then (1, off / 8) else (6, off / 32)) else (normKind kind, off / 32)
/-- The bytes of the unit of error protection that holds a byte. -/
def poisonSize (kind off : Nat) : Nat := if kind = 1 ∧ off < 0x100000000 then 8 else 32
/-- The space, the first byte and the bytes of a poisoned unit. -/
def unitSpan (u : Nat × Nat) : Nat × Nat × Nat :=
  if u.1 = 1 ∨ u.1 = 5 then (u.1, u.2 * 8, 8) else (if u.1 = 6 then 1 else u.1, u.2 * 32, 32)
/-- Whether n bytes at an offset hold a unit of error protection whole. -/
def unitWithin (kind off n : Nat) (u : Nat × Nat) : Bool :=
  let (k, a, z) := unitSpan u
  k == normKind kind && decide (off ≤ a ∧ a + z ≤ off + n)

/-- Whether a byte is uncorrectable: its sector is poisoned, or the CXL link is down (03 R54, 15 R327). -/
def poisonedAt (s : State) (kind off : Nat) : Bool := s.poison.contains (poisonUnit kind off) || (kind == 3 && !s.cxlUp)

/-- The first uncorrectable byte of a range, as the offset of its sector or word. -/
def poisonIn (s : State) (kind off n : Nat) : Option Nat :=
  ((List.range n).find? (fun i => poisonedAt s kind (off + i))).map fun i =>
    (off + i) / poisonSize kind (off + i) * poisonSize kind (off + i)

/-- Read bytes; an uncorrectable byte reads as it stands, and its readers look at poisonIn. -/
def readMem (s : State) (kind off n : Nat) : List Byte := (List.range n).map fun i => memByte s kind (off + i)

/-- The sleep of a WAITL that monitors one of the lines ends (12 R272). -/
def wakeLines (s : State) (kind first last : Nat) : State :=
  { s with groups := s.groups.map fun e =>
      match e.2.wait with
      | .line ls false u t =>
        if ls.any (fun l => l.1 == normKind kind && decide (first ≤ l.2 ∧ l.2 ≤ last)) then
          (e.1, { e.2 with wait := .line ls true u t })
        else e
      | _ => e }

/-- Store bytes one after another. -/
def storeBytes (s : State) (kind off : Nat) : List Byte → State
  | [] => s
  | b :: r => storeBytes (memSetByte s kind off b) kind (off + 1) r

/-- Add one to a 32-bit counter that saturates. -/
def satCount (v : Word) : Word := if v = 0xFFFFFFFF#32 then v else v + 1

/-- An uncorrectable error is counted on its die, and recorded with the unit concerned and its place (03 R54, 15 Table 9, R331). -/
def countError (s : State) (die unit addr : Nat) : State :=
  sbRecord { s with eccUe := storeSet s.eccUe die (satCount (storeGet s.eccUe die)) } 3 0 unit addr 0

/-- An access to the pool while the link is down is an uncorrectable error (15 R327), counted on the hub die, number 4, which has the port
(01 R11); the unit of the port is log 45's. -/
def linkError (s : State) (kind off : Nat) : State := if kind == 3 && !s.cxlUp then countError s 4 18 off else s

/-- Write bytes at their coherence point: a sector wholly written loses its poison (03 R54), and monitored lines wake (12 R272). A write to
the pool while its link is down changes nothing there (15 R327, log 45). -/
def writeMem (s : State) (kind off : Nat) (l : List Byte) : State :=
  if kind == 3 && !s.cxlUp then linkError s kind off
  else
    let s1 := storeBytes s kind off l
    let s2 := { s1 with poison := s1.poison.filter fun u => !unitWithin kind off l.length u }
    if l.isEmpty then s2 else wakeLines s2 kind (off / 64) ((off + l.length - 1) / 64)

end Sys2Proof.Machine
end

