-- ==== Sys2Proof/WellFormed.lean ====
section
/-! DEFINITION. Which instructions are legal by their encoding: the field ranges of each entry, the register fields, and
the prefixes (02 R24 to R35, R41; the entries of 04, 05, 07 to 10, 12 to 14). What is not legal traps ILL. -/
namespace Sys2Proof

/-- The formats of an instruction word (02 Tables 1 to 10). -/
inductive Fmt
  | a | l | i | b | m | x | s | c | y | p
  deriving DecidableEq, Repr

/-- The register fields that a prefix can make indirect (02 Table 15). -/
inductive Sel
  | d | a | b
  deriving DecidableEq, Repr

/-- A register field of an instruction: its value, whether it is read and written, and its width in registers (1, 2 or 4). -/
structure Opnd where
  sel : Sel
  fld : BitVec 7
  src : Bool
  dst : Bool
  wid : Nat
  deriving DecidableEq, Repr

/-- The prefixes that stand before an instruction: the payloads of LIT and IX (02 R32, R33). -/
structure Pre where
  lit : Option (BitVec 25)
  ix : Option (BitVec 25)
  deriving DecidableEq, Repr

/-- No prefix. -/
def Pre.none : Pre := ⟨Option.none, Option.none⟩

/-- The format of an instruction word; a step of a unit has none (02 Table 16). -/
def Instr.fmt : Instr → Option Fmt
  | .lit _ | .ix .. => some .p
  | .bra .. | .brany .. | .brall .. | .brnone .. | .call .. | .yieldc .. => some .b
  | .winb .. | .iaddi .. | .andi .. | .ori .. | .xori .. | .shfti .. | .icmpi .. | .movi .. | .abset .. | .kacq .. | .krel ..
  | .bar .. => some .i
  | .sysc .. | .hcall .. | .trap .. => some .y
  | .csrr .. | .csrw .. => some .c
  | .idiv .. | .irem .. | .frcp .. | .frsq .. | .fexp2 .. | .flog2 .. | .fsin .. | .fcos .. | .ftanh .. => some .l
  | .ld .. | .st .. | .lds .. | .sts .. | .prefL1 .. | .prefL2 .. => some .m
  | .ldx .. | .stx .. | .waitl .. | .fence .. | .fencePubb .. => some .s
  | .atadd .. | .atsmin .. | .atsmax .. | .atnmin .. | .atnmax .. | .atand .. | .ator .. | .atxor .. | .atxch .. | .atcas ..
  | .atfadd .. | .atbadd2 .. => some .x
  | .nop | .stop | .yield | .bkpt | .rte | .jmpr .. | .ret .. | .publ .. | .iadd .. | .isub .. | .imul .. | .imulh ..
  | .imad .. | .imnx .. | .and .. | .or .. | .xor .. | .andn .. | .shl .. | .shr .. | .sra .. | .rot .. | .bits .. | .bfx ..
  | .bfi .. | .icmp .. | .sel .. | .mov .. | .aadd .. | .i64 .. | .fadd .. | .fsub .. | .fmul .. | .ffma .. | .fmin ..
  | .fmax .. | .fcmp .. | .fsgn .. | .fcvt .. | .fcvts .. | .hadd2 .. | .hmul2 .. | .hfma2 .. | .dot4 .. | .fscl .. | .frnd ..
  | .fic .. | .shfl .. | .vote .. | .rdce .. | .scan .. | .kop .. | .kemRd .. | .kemSet .. | .kemAnd .. | .kemAndn ..
  | .kemSwap .. | .kcnt .. | .bcst .. | .xcp .. | .xcpd .. | .spop .. | .spopOpen .. | .srel .. | .srelFree .. | .mbrd ..
  | .mbrdTry .. | .jpost .. | .evsig .. | .evsigSet .. | .evsigRd .. | .taga .. | .tagf .. | .meet .. | .ttrdy ..
  | .tileTld .. | .tileTst .. | .mma .. | .mjob .. | .mjobWait .. | .mjobCancel .. | .accZero .. | .accDrain ..
  | .accCvt .. | .accMove .. => some .a
  | _ => none

/-- A source field of n registers. -/
def srcOpnd (sel : Sel) (f : BitVec 7) (n : Nat) : Opnd := ⟨sel, f, true, false, n⟩
/-- A destination field of n registers. -/
def dstOpnd (f : BitVec 7) (n : Nat) : Opnd := ⟨.d, f, false, true, n⟩
/-- The d field read and written, n registers. -/
def bothOpnd (f : BitVec 7) (n : Nat) : Opnd := ⟨.d, f, true, true, n⟩

/-- Registers of a 64-bit code: 2, else 1 (07 R136). -/
def codeWid (is64 : Bool) : Nat := if is64 then 2 else 1

/-- Whether an integer type code names 64-bit operands (07 Table 4). -/
def code64 (f : BitVec 4) : Bool := f == 2#4 || f == 3#4

/-- Registers of a format-M size (02 Table 11): 64-bit a pair, 128-bit a quad. -/
def szWid (s : BitVec 3) : Nat := if s = 5#3 then 2 else if s = 6#3 then 4 else 1

/-- Registers of a format-S size (02 Table 11). -/
def strongWid (s : BitVec 2) : Nat := if s = 1#2 then 2 else if s = 2#2 then 4 else 1

/-- The vector-register fields of an instruction, with what each is used for (the entries of each instruction). -/
def Instr.opnds : Instr → List Opnd
  | .iadd d a b f | .isub d a b f | .imul d a b f | .imulh d a b f =>
    let n := codeWid (code64 f); [dstOpnd d n, srcOpnd .a a n, srcOpnd .b b n]
  | .imad d a b f => let n := codeWid (code64 f); [bothOpnd d n, srcOpnd .a a n, srcOpnd .b b n]
  | .idiv d a b _ | .irem d a b _ => [dstOpnd d 1, srcOpnd .a a 1, srcOpnd .b b 1]
  | .imnx d a b _ t => let n := codeWid (t.getLsbD 1); [dstOpnd d n, srcOpnd .a a n, srcOpnd .b b n]
  | .and d a b f | .or d a b f | .xor d a b f | .andn d a b f =>
    let n := codeWid (f.getLsbD 1); [dstOpnd d n, srcOpnd .a a n, srcOpnd .b b n]
  | .shl d a b f | .shr d a b f | .sra d a b f | .rot d a b f =>
    let n := codeWid (f.getLsbD 1); [dstOpnd d n, srcOpnd .a a n, srcOpnd .b b 1]
  | .bits d a f => [dstOpnd d (codeWid (f == 7#3)), srcOpnd .a a (codeWid (f.getLsbD 2))]
  | .bfx d a b _ => [dstOpnd d 1, srcOpnd .a a 1, srcOpnd .b b 1]
  | .bfi d a b => [bothOpnd d 1, srcOpnd .a a 1, srcOpnd .b b 1]
  | .icmp _ a b t _ => let n := codeWid (t.getLsbD 1); [srcOpnd .a a n, srcOpnd .b b n]
  | .sel d a b _ => [dstOpnd d 1, srcOpnd .a a 1, srcOpnd .b b 1]
  | .mov d a f => let n := codeWid (f == 1#1); [dstOpnd d n, srcOpnd .a a n]
  | .iaddi d a _ | .andi d a _ | .ori d a _ | .xori d a _ => [dstOpnd d 1, srcOpnd .a a 1]
  | .shfti d a _ w _ => let n := codeWid (w == 1#1); [dstOpnd d n, srcOpnd .a a n]
  | .icmpi _ a _ _ => [srcOpnd .a a 1]
  | .movi d _ => [dstOpnd d 1]
  | .aadd d a b e _ => [dstOpnd d 2, srcOpnd .a a 2, srcOpnd .b b (codeWid (e == 0#2))]
  | .i64 d a b f =>
    if f.ult 4#3 then [dstOpnd d 2, srcOpnd .a a 2, srcOpnd .b b 2]
    else if f.ult 6#3 then [dstOpnd d 2, srcOpnd .a a 1, srcOpnd .b b 1]
    else [dstOpnd d 2, srcOpnd .a a 1]
  | .fadd d a b _ | .fsub d a b _ | .fmul d a b _ | .fscl d a b _ => [dstOpnd d 1, srcOpnd .a a 1, srcOpnd .b b 1]
  | .ffma d a b _ => [bothOpnd d 1, srcOpnd .a a 1, srcOpnd .b b 1]
  | .fmin d a b _ | .fmax d a b _ => [dstOpnd d 1, srcOpnd .a a 1, srcOpnd .b b 1]
  | .fcmp _ a b _ => [srcOpnd .a a 1, srcOpnd .b b 1]
  | .fsgn d a b f => if f.ult 3#4 then [dstOpnd d 1, srcOpnd .a a 1, srcOpnd .b b 1] else [dstOpnd d 1, srcOpnd .a a 1]
  | .frcp d a _ | .frsq d a _ | .fexp2 d a _ | .flog2 d a _ | .fsin d a _ | .fcos d a _ | .ftanh d a _ =>
    [dstOpnd d 1, srcOpnd .a a 1]
  | .fcvt d a _ t _ _ _ => [if t = 1#3 ∨ t = 7#3 then dstOpnd d 1 else bothOpnd d 1, srcOpnd .a a 1]
  | .fcvts d a b t _ => [dstOpnd d 1, srcOpnd .a a (if t.ult 2#2 then 4 else 2), srcOpnd .b b 1]
  | .hadd2 d a b _ _ | .hmul2 d a b _ _ => [dstOpnd d 1, srcOpnd .a a 1, srcOpnd .b b 1]
  | .hfma2 d a b _ _ | .dot4 d a b _ => [bothOpnd d 1, srcOpnd .a a 1, srcOpnd .b b 1]
  | .frnd d a _ | .fic d a _ => [dstOpnd d 1, srcOpnd .a a 1]
  | .shfl d a b f => let n := codeWid (f.getLsbD 3); [dstOpnd d n, srcOpnd .a a n, srcOpnd .b b 1]
  | .vote _ a f => [srcOpnd .a a (codeWid (f == 2#4))]
  | .rdce d a _ | .scan d a _ => [dstOpnd d 1, srcOpnd .a a 1]
  | .kop _ a _ f => if f = 8#4 then [srcOpnd .a a 2] else []
  | .kcnt d _ f => [dstOpnd d (codeWid (f == 3#4))]
  | .bcst d a b f => let n := codeWid (f == 1#1); [dstOpnd d n, srcOpnd .a a n, srcOpnd .b b 1]
  | .ld d a _ s _ _ => [dstOpnd d (szWid s), srcOpnd .a a 1]
  | .st d a _ s _ => [srcOpnd .d d (szWid s), srcOpnd .a a 1]
  | .lds d a _ s _ _ => [dstOpnd d (szWid s), srcOpnd .a a 1]
  | .sts d a _ s _ => [srcOpnd .d d (szWid s), srcOpnd .a a 1]
  | .ldx d a _ s _ => [dstOpnd d (strongWid s), srcOpnd .a a 1]
  | .stx d a _ s _ => [srcOpnd .d d (strongWid s), srcOpnd .a a 1]
  | .waitl d a _ s _ => [bothOpnd d (codeWid (s == 1#1)), srcOpnd .a a 1]
  | .prefL1 a _ _ | .prefL2 a _ _ | .fencePubb a _ _ => [srcOpnd .a a 1]
  | .atadd d a b _ w | .atsmin d a b _ w | .atsmax d a b _ w | .atnmin d a b _ w | .atnmax d a b _ w | .atand d a b _ w
  | .ator d a b _ w | .atxor d a b _ w | .atxch d a b _ w =>
    let n := codeWid (w == 1#1); [dstOpnd d n, srcOpnd .a a 1, srcOpnd .b b n]
  | .atcas d a b _ w => let n := codeWid (w == 1#1); [bothOpnd d n, srcOpnd .a a 1, srcOpnd .b b n]
  | .atfadd d a b _ | .atbadd2 d a b _ => [dstOpnd d 1, srcOpnd .a a 1, srcOpnd .b b 1]
  | .kacq d _ _ | .krel d _ _ | .bar d _ _ => [dstOpnd d 1]
  | .xcp d _ => [dstOpnd d 1]
  | .xcpd d a => [dstOpnd d 1, srcOpnd .a a 1]
  | .spop d _ | .spopOpen d _ => [dstOpnd d 1]
  | .srel d _ b | .srelFree d _ b => [dstOpnd d 1, srcOpnd .b b 1]
  | .jpost d _ b => [dstOpnd d 1, srcOpnd .b b 1]
  | .evsig d a b | .evsigSet d a b => [dstOpnd d 1, srcOpnd .a a 1, srcOpnd .b b 1]
  | .evsigRd d a => [dstOpnd d 1, srcOpnd .a a 1]
  | .taga d a b => [dstOpnd d 1, srcOpnd .a a 1, srcOpnd .b b 1]
  | .tagf d a | .ttrdy d a => [dstOpnd d 1, srcOpnd .a a 1]
  | .meet d a b => [dstOpnd d 1, srcOpnd .a a 1, srcOpnd .b b 2]
  | .mjob d _ _ | .mjobWait d | .mjobCancel d => [dstOpnd d 2]
  | .csrr d _ => [dstOpnd d 2]
  | .csrw d _ a => [dstOpnd d 2, ⟨.a, a, true, false, 2⟩]
  | _ => []

/-- A mask or ring field: 0 to 15 (02 R29, 05 R109). -/
def maskOk (f : BitVec 7) : Bool := f.ult 16#7
/-- A scalar or z: 96 to 112. -/
def scalarZ (f : BitVec 7) : Bool := (96#7).ule f && f.ule 112#7
/-- A scalar: 96 to 111. -/
def scalarOk (f : BitVec 7) : Bool := (96#7).ule f && f.ult 112#7

/-- The conversions of FCVT (07 R152). -/
def fcvtPair (s t : BitVec 3) : Bool :=
  (s != 0#3 && t != 0#3 && s.ult 6#3 && t.ult 6#3 && s != t) ||
  (s == 1#3 && (t == 6#3 || t == 7#3)) || (s == 6#3 && (t == 1#3 || t == 2#3 || t == 3#3)) ||
  (s == 7#3 && (t == 1#3 || t == 6#3))

/-- Bits of an element of a format code 1 to 7 (04 Table 3). -/
def fmtBits (f : BitVec 3) : Nat :=
  if f = 1#3 ∨ f = 7#3 then 32 else if f = 2#3 ∨ f = 3#3 then 16 else 8

/-- The element index of FCVT is below the element count of every narrow side, and 0 when both sides have 32 bits (07 R152). -/
def fcvtIndex (s t : BitVec 3) (j : BitVec 2) : Bool :=
  j.toNat * (Nat.max (if fmtBits s = 32 then 0 else fmtBits s) (if fmtBits t = 32 then 0 else fmtBits t)) < 32 &&
  (fmtBits s != 32 || fmtBits t != 32 || j == 0#2)

/-- The field values that an instruction's own entry gives it (02 R41 and the entry of each). -/
def Instr.fieldsOk : Instr → Bool
  | .jmpr d a => scalarZ d && scalarOk a
  | .ret a => scalarOk a
  | .winb a _ => scalarZ a
  | .sysc d _ | .hcall d _ | .trap d _ => d.ule 112#7
  | .csrr d _ => d.ule 112#7
  | .csrw d _ a => d.ule 112#7 && a.ule 112#7
  | .publ d a b => scalarOk d && scalarOk a && scalarOk b
  | .iadd _ _ _ f | .isub _ _ _ f | .imul _ _ _ f | .imad _ _ _ f => f.ult 6#4
  | .imulh _ _ _ f => f.ult 4#4
  | .icmp d _ _ _ _ => maskOk d
  | .shfti _ _ _ w c => w == 1#1 || c.ult 32#6
  | .icmpi d _ _ _ => maskOk d
  | .abset _ a _ _ => scalarZ a
  | .aadd _ _ _ e _ => e != 3#2
  | .i64 _ _ b f => f.ult 6#3 || b == 112#7
  | .fadd _ _ _ r | .fsub _ _ _ r | .fmul _ _ _ r | .ffma _ _ _ r | .fscl _ _ _ r => r != 3#2
  | .fcmp d _ _ _ => maskOk d
  | .fsgn _ _ b f => f.ult 3#4 || (f.ult 5#4 && b == 112#7)
  | .fcvt _ _ s t n j r => fcvtPair s t && (n == 0#1 || t == 4#3) && fcvtIndex s t j && r != 3#2
  | .fcvts _ a _ _ r => a.ult 96#7 && r != 3#2
  | .hadd2 _ _ _ _ r | .hmul2 _ _ _ _ r | .hfma2 _ _ _ _ r => r != 3#2
  | .dot4 _ _ _ f => f.ult 6#4
  | .frnd _ _ f | .fic _ _ f => f.ult 5#4
  | .shfl _ _ _ f => (f.extractLsb' 0 3).ult 4#3
  | .vote d _ f => maskOk d && f.ult 4#4
  | .rdce _ _ f | .scan _ _ f => f.ult 11#4
  | .kop d a b f =>
    maskOk d &&
    (if f.ult 4#4 then maskOk a && maskOk b
     else if f.ult 6#4 then maskOk a && b == 0#7
     else if f.ult 8#4 then a == 0#7 && b == 0#7
     else f == 8#4 && (scalarZ a || a == 115#7) && b == 112#7)
  | .kemRd d => maskOk d
  | .kemSet a | .kemAnd a | .kemAndn a => maskOk a
  | .kemSwap d a => maskOk d && maskOk a
  | .kcnt d a f => maskOk a && f.ult 5#4 && (f != 3#4 || d.ult 112#7)
  | .ld d _ _ s _ _ | .lds d _ _ s _ _ => s != 7#3 && !(s == 6#3 && scalarOk d)
  | .st d _ _ s _ | .sts d _ _ s _ => s != 7#3 && s != 1#3 && s != 3#3 && !(s == 6#3 && scalarOk d)
  | .ldx d _ _ s _ | .stx d _ _ s _ => s != 3#2 && !(s == 2#2 && scalarOk d)
  | .kacq _ a _ | .krel _ a _ => scalarZ a
  | .bar _ v n => v != 3#2 && (v == 0#2 || n.ult (if v = 1#2 then 8#4 else 4#4))
  | .spop _ r | .spopOpen _ r | .srel _ r _ | .srelFree _ r _ => maskOk r
  | .tileTld _ a _ | .tileTst _ a _ => scalarZ a
  | .mma _ a _ f => f.ult 2#2 || !a.getLsbD 0
  | .mjob _ a b => scalarZ a && scalarZ b
  | .accDrain _ a _ | .accCvt _ a _ => scalarZ a
  | _ => true

/-- A register field within the values of its use (02 R25 to R27, R33, Table 12), the prefixes being p: an indirect field holds
0 to 95 and leaves the rest to the check of its effective number. -/
def Opnd.ok (o : Opnd) (litOk indirect : Bool) : Bool :=
  if indirect then o.fld.ult 96#7
  else
    o.fld.ult 116#7 && (o.fld != 115#7 || (litOk && !o.dst)) && (o.fld.ult 113#7 || !o.dst) &&
    (if o.fld.ult 96#7 then o.fld.toNat % o.wid == 0 else !(o.wid == 4 && scalarOk o.fld))

/-- The bit of an IX payload that enables a field (02 Table 15). -/
def ixEnable (p : BitVec 25) : Sel → Bool
  | .d => p.getLsbD 8
  | .a => p.getLsbD 5
  | .b => p.getLsbD 2

/-- The index register that an IX payload selects for a field (02 Table 15). -/
def ixSelect (p : BitVec 25) : Sel → Nat
  | .d => (p.extractLsb' 6 2).toNat
  | .a => (p.extractLsb' 3 2).toNat
  | .b => (p.extractLsb' 0 2).toNat

/-- Whether a field is made indirect by the prefixes. -/
def Pre.indirect (p : Pre) (sel : Sel) : Bool := (p.ix.map (ixEnable · sel)).getD false

/-- The prefix rules (02 R32 to R34; an enabled field that the target's format has and its entry uses as no register traps ILL too, as one that
the format lacks: log 55): targets have formats A, L, I, M, X or S; a LIT before A, L, X or S needs a source field
holding 115; an enabled field must be a register field of the target; SHFTI takes no LIT, JMPR, RET (07 R134) and the matrix instructions
neither prefix. -/
def Pre.okFor (p : Pre) (i : Instr) : Bool :=
  (if p.lit.isNone && p.ix.isNone then true
   else match i.fmt with
     | some .a | some .l | some .x | some .s | some .i | some .m => true
     | some .p => true
     | _ => false) &&
  (match i.fmt with
   | some .a | some .l | some .x | some .s => p.lit.isNone || i.opnds.any fun o => o.src && o.fld == 115#7 && !p.indirect o.sel
   | _ => true) &&
  (i.fmt == some .p || [Sel.d, .a, .b].all fun s => !p.indirect s || i.opnds.any (·.sel == s)) &&
  (match i with
   | .shfti .. => p.lit.isNone
   | .jmpr .. | .ret _ => p.lit.isNone && p.ix.isNone
   | .jpost .. => !p.indirect .d
   | .lit _ => p.lit.isNone
   | .ix .. => p.lit.isNone && p.ix.isNone
   | .tileTld .. | .tileTst .. | .mma .. | .mjob .. | .mjobWait .. | .mjobCancel .. | .accZero .. | .accDrain .. | .accCvt ..
   | .accMove .. => p.ix.isNone && p.lit.isNone
   | _ => true)

/-- Whether register fields may hold 115: in formats A, L, X and S with a LIT (02 R33). -/
def Pre.litField (p : Pre) (i : Instr) : Bool :=
  p.lit.isSome && (i.fmt == some .a || i.fmt == some .l || i.fmt == some .x || i.fmt == some .s)

/-- A register field value that generation 1 does not have (14 Table 8). -/
def legacyField (f : BitVec 7) : Bool := (64#7).ule f && f.ult 96#7

/-- Legacy decoding (14 Table 8): the majors it makes illegal, the prefixes and the register fields 64 to 95 of generation 1. -/
def legacyOk (gen : Nat) (p : Pre) (i : Instr) : Bool :=
  gen == 3 ||
  ((match i with
    | .publ .. | .taga .. | .tagf .. | .meet .. | .ttrdy .. => false
    | .lit _ | .ix .. => gen != 1
    | _ => true) &&
   (gen != 1 ||
     (i.opnds.all (fun o => p.indirect o.sel || !legacyField o.fld) &&
      (match i with
       | .sysc d _ | .hcall d _ | .trap d _ => !legacyField d
       | _ => true))))

/-- An instruction is legal by its encoding, behind the prefixes p, when generation gen is decoded (02 R41, 14 R314). -/
def Instr.legal (gen : Nat) (p : Pre) (i : Instr) : Bool :=
  i.fieldsOk && p.okFor i && i.opnds.all (fun o => o.ok (p.litField i) (p.indirect o.sel)) && legacyOk gen p i

/-- An instruction is well formed when it is legal behind no prefix, or, if a field holds 115, behind a LIT (02 R33). -/
def Instr.wf (i : Instr) : Bool := i.legal 3 Pre.none || i.legal 3 ⟨some 0#25, Option.none⟩

end Sys2Proof
end

