-- ==== Sys2Proof/Machine/Ops.lean ====
section
/-! DEFINITION. The named operations over the state: the places of units and registers, long-latency results,
taking a trap (13 R285) and returning from one (13 R289), and completing an instruction. -/
namespace Sys2Proof.Machine

/-- Bit i of a mask. -/
def bitOf (m : Dword) (i : Nat) : Bool := m.getLsbD i

/-- The mask with the listed bits set. -/
def maskOf (l : List Nat) : Dword := l.foldl (fun m i => m ||| (1#64 <<< i)) 0

/-- Bits [W − 1 : 0] set (07 R128). -/
def fullMask (w : Nat) : Dword := BitVec.ofNat 64 (2 ^ w - 1)

/-- Sign extension of an n-bit number. -/
def sextInt (n v : Nat) : Int := if v % 2 ^ n < 2 ^ (n - 1) then (v % 2 ^ n : Int) else (v % 2 ^ n : Int) - 2 ^ n

/-- The cause code of 13 Table 21. -/
def Cause.code : Cause → BitVec 8
  | .ill => 0x01 | .priv => 0x02 | .win => 0x03 | .idx => 0x04 | .aln => 0x05 | .pgf => 0x06 | .gpf => 0x07 | .prot => 0x08
  | .sysc => 0x09 | .hcall => 0x0A | .trap => 0x0B | .bkpt => 0x0C | .lav => 0x0D | .barm => 0x0E | .role => 0x0F
  | .fpx => 0x10 | .ecc => 0x11 | .tagx => 0x12 | .dbl => 0x13 | .ovr => 0x14 | .drain => 0x15 | .atmf => 0x16

/-- The cause of a code; an unassigned code reads as ILL. -/
def causeOf (c : BitVec 8) : Cause :=
  ([Cause.ill, .priv, .win, .idx, .aln, .pgf, .gpf, .prot, .sysc, .hcall, .trap, .bkpt, .lav, .barm, .role, .fpx, .ecc, .tagx,
    .dbl, .ovr, .drain, .atmf].find? (fun x => x.code == c)).getD .ill

/-- Groups of sequencers have numbers from 8,192 (15 R321). -/
def isSeq (id : GroupId) : Bool := decide (8192 ≤ id)
/-- The vector core of a group. -/
def coreOf (id : GroupId) : Nat := id / 32
/-- The residency slot of a group. -/
def slotOf (id : GroupId) : Nat := id % 32
/-- The cluster of a group. -/
def clusterOf (id : GroupId) : Nat := if isSeq id then id - 8192 else id / 64

/-- A group, if it is resident. -/
def State.group? (s : State) (id : GroupId) : Option Group := tabGet s.groups id
/-- Write a group. -/
def State.setGroup (s : State) (id : GroupId) (g : Group) : State := { s with groups := tabSet s.groups id g }
/-- Change a resident group. -/
def State.modGroup (s : State) (id : GroupId) (f : Group → Group) : State :=
  match s.group? id with
  | some g => s.setGroup id (f g)
  | none => s
/-- A team, if it is live. -/
def State.team? (s : State) (t : Nat) : Option Team := tabGet s.teams t
/-- Change a live team. -/
def State.modTeam (s : State) (t : Nat) (f : Team → Team) : State :=
  match s.team? t with
  | some x => { s with teams := tabSet s.teams t (f x) }
  | none => s
/-- A vector core's state. -/
def State.core (s : State) (c : Nat) : Core := (tabGet s.cores c).getD Core.reset
/-- Change a vector core's state. -/
def State.modCore (s : State) (c : Nat) (f : Core → Core) : State := { s with cores := tabSet s.cores c (f (s.core c)) }
/-- A cluster's state. -/
def State.cluster (s : State) (c : Nat) : Cluster := (tabGet s.clusters c).getD Cluster.reset
/-- Change a cluster's state. -/
def State.modCluster (s : State) (c : Nat) (f : Cluster → Cluster) : State :=
  { s with clusters := tabSet s.clusters c (f (s.cluster c)) }
/-- A partition's state. -/
def State.part (s : State) (p : Nat) : Partition := (tabGet s.parts p).getD Partition.start
/-- Change a partition's state. -/
def State.modPart (s : State) (p : Nat) (f : Partition → Partition) : State :=
  { s with parts := tabSet s.parts p (f (s.part p)) }
/-- A queue's state. -/
def State.queue (s : State) (q : Nat) : Queue := (tabGet s.queues q).getD Queue.reset
/-- Change a queue's state. -/
def State.modQueue (s : State) (q : Nat) (f : Queue → Queue) : State := { s with queues := tabSet s.queues q (f (s.queue q)) }
/-- A host event ring's state. -/
def State.ring (s : State) (n : Nat) : EventRing := (tabGet s.rings n).getD EventRing.reset
/-- Change a host event ring's state. -/
def State.modRing (s : State) (n : Nat) (f : EventRing → EventRing) : State :=
  { s with rings := tabSet s.rings n (f (s.ring n)) }

/-- The active lanes of a group: the bits of EM below W (07 R128). -/
def Group.active (g : Group) : List Nat := (List.range g.width).filter (bitOf g.em)
/-- The lanes of EM that are not done (13 R286). -/
def Group.pending (g : Group) : List Nat := (List.range g.width).filter (bitOf (g.em &&& ~~~g.dm))
/-- The lowest active lane. -/
def Group.lowest (g : Group) : Option Nat := g.active.head?
/-- The prefixes of the sequence under way. -/
def Group.pre (g : Group) : Pre := ⟨g.preLit, g.preIx⟩
/-- The address that a trap of the instruction records: its own or that of its first prefix (02 R34). -/
def Group.epc (g : Group) : Dword := g.preStart.getD g.pc
/-- Scalar n. -/
def Group.sreg (g : Group) (n : Nat) : Dword := storeGet g.s n
/-- The allotment, in registers (05 R99). -/
def Group.allot (g : Group) : Nat := 32 * g.rsize.toNat
/-- S mode's view of the allotment (13 R283). -/
def Group.viewS (g : Group) : Nat := if g.ht.lim = 0 then g.allot else min g.allot (32 * g.ht.lim.toNat)
/-- U mode's view of the allotment (13 R283). -/
def Group.viewU (g : Group) : Nat := if g.st.lim = 0 then g.viewS else min g.viewS (32 * g.st.lim.toNat)
/-- The view of a mode (13 R283). -/
def Group.viewOf (g : Group) : Mode → Nat
  | .u => g.viewU
  | .s => g.viewS
  | .h => g.allot
/-- The view of the current mode. -/
def Group.view (g : Group) : Nat := g.viewOf g.mode
/-- The generation that a group decodes: 3 in S and H mode, UDGEN in U mode (14 R313). -/
def Group.gen (g : Group) : Nat := match g.mode with | .u => g.udgen.toNat | _ => 3

/-- The number of a mode in PM fields (13 Tables 4, 5). -/
def modeNum : Mode → BitVec 2
  | .u => 0
  | .s => 1
  | .h => 2
/-- The mode of a PM field. -/
def modeOf (n : BitVec 2) : Mode := if n = 0#2 then .u else if n = 1#2 then .s else .h

/-- Where a lane of an allotment register is held: on a sequencer (true) or a vector core, and its number there (05 R99, 08 R164). -/
def regCell (id : GroupId) (g : Group) (reg lane : Nat) : Bool × Nat :=
  if isSeq id then (true, clusterOf id * 512 + (32 * g.rbase.toNat + reg) % 512)
  else (false, (coreOf id * 2048 + (32 * g.rbase.toNat + reg) % 2048) * 64 + lane)

/-- The word of error protection that holds a register lane: 8 bytes, of a vector core's file as its window numbers them, of a sequencer's
under number 5 (03 R55, Table 2). -/
def cellUnit (c : Bool × Nat) : Nat × Nat :=
  if c.1 then (5, c.2 / 2) else (1, (0x10000000 + c.2 / 131072 * 0x100000 + c.2 % 131072 * 4) / 8)
/-- Whether a register lane lies in an uncorrectable word (03 R55). -/
def cellBad (s : State) (c : Bool × Nat) : Bool := s.poison.contains (cellUnit c)
/-- A word of error protection both of whose register lanes are written is sound again (03 R54, log 54). -/
def healCells (s : State) (cells : List (Bool × Nat)) : State :=
  { s with poison := s.poison.filter fun u =>
      !cells.any fun c => cellUnit c == u && cells.any fun d => cellUnit d == u && d != c }

/-- The stored value of a register lane. -/
def cellGet (s : State) (c : Bool × Nat) : Word := if c.1 then storeGet s.sregs c.2 else storeGet s.vregs c.2
/-- A register lane as a reader gets it: an uncorrectable word reads as zero (03 R55, log 54). -/
def cellRead (s : State) (c : Bool × Nat) : Word := if cellBad s c then 0 else cellGet s c
/-- Store a register lane. -/
def cellSet (s : State) (c : Bool × Nat) (v : Word) : State :=
  if c.1 then { s with sregs := storeSet s.sregs c.2 v } else { s with vregs := storeSet s.vregs c.2 v }

/-- A lane of an allotment register as an instruction reads it: in the window of a long-latency result the read returns the
value before it or the result, which the specification leaves open (02 R37); port tells the reads of one instruction apart. -/
def readV (s : State) (id : GroupId) (g : Group) (reg lane port : Nat) : Word :=
  g.out.foldl (fun v o =>
    match o.vals.find? (fun e => e.1 == reg && e.2.1 == lane) with
    | some e => if Config.windowChoice (s.fresh + port) reg lane then e.2.2 else v
    | none => v) (cellRead s (regCell id g reg lane))

/-- A scalar as an instruction reads it (02 R37). -/
def readS (s : State) (g : Group) (n port : Nat) : Dword :=
  g.out.foldl (fun v o =>
    match o.svals.find? (fun e => e.1 == n) with
    | some e => if Config.windowChoice (s.fresh + port) (512 + n) 0 then e.2 else v
    | none => v) (g.sreg n)

/-- Mark lanes of registers as written in a window that is open (02 R37). -/
def markOne (cells : List (Nat × Nat)) (o : Outstanding) : Outstanding :=
  { o with dirty := o.dirty ++ cells.filter (fun c => o.regs.contains c.1 && !o.dirty.contains c) }
/-- Mark them in all windows. -/
def markDirty (cells : List (Nat × Nat)) (out : List Outstanding) : List Outstanding := out.map (markOne cells)

/-- Write lanes of an allotment register of the group that issues. -/
def writeV (s : State) (id : GroupId) (g : Group) (reg : Nat) (vals : List (Nat × Word)) : State :=
  vals.foldl (fun s e => cellSet s (regCell id g reg e.1) e.2) s

/-- Write a scalar of a group. -/
def Group.setS (g : Group) (n : Nat) (v : Dword) : Group := { g with s := storeSet g.s n v, out := markDirty [(512 + n, 0)] g.out }
/-- Write a mask register; bits at or above W are cleared (07 R128). -/
def Group.setK (g : Group) (n : Nat) (v : Dword) : Group := { g with k := storeSet g.k n (v &&& fullMask g.width) }
/-- Write EM; bits at or above W are cleared (07 R128). -/
def Group.setEm (g : Group) (v : Dword) : Group := { g with em := v &&& fullMask g.width }

/-- The lanes of registers that a long-latency result will be written to: a lane that its window has written keeps that value or takes the
result, which is left open (02 R37). -/
def landingCells (s : State) (o : Outstanding) : List (Nat × Nat) :=
  (o.vals.map (fun (e : Nat × Nat × Word) => (e.1, e.2.1)) ++ o.svals.map (fun (e : Nat × Dword) => (512 + e.1, 0))).filter fun c =>
    !(o.dirty.contains c && !Config.windowChoice s.fresh c.1 c.2)

/-- Land one long-latency result; the windows of earlier instructions that are still open see its lanes written (02 R37). -/
def landOne (s : State) (id : GroupId) (o : Outstanding) : State :=
  match s.group? id with
  | none => s
  | some g =>
    let cells := landingCells s o
    let vals := o.vals.filter fun e => cells.contains (e.1, e.2.1)
    let s1 := healCells (vals.foldl (fun t e => cellSet t (regCell id g e.1 e.2.1) e.2.2) s)
      (vals.map fun e => regCell id g e.1 e.2.1)
    { s1.modGroup id fun x =>
        { x with s := (o.svals.filter fun (e : Nat × Dword) => cells.contains (512 + e.1, 0)).foldl (fun m e => storeSet m e.1 e.2) x.s,
                 out := x.out.map fun w => if w.num < o.num then markOne cells w else w }
      with fresh := s.fresh + 1 }

/-- Land one result after those of later instructions, whose lanes it may leave as they are (02 R37). -/
def landStep (id : GroupId) (o : Outstanding) (a : State × List (Nat × Nat)) : State × List (Nat × Nat) :=
  let o' : Outstanding := { o with dirty := o.dirty ++ a.2 }
  (landOne a.1 id o', landingCells a.1 o' ++ a.2)

/-- Land the results for which a test holds; the ECCs that their loads met are to be raised in the order of the loads (03 R55). Where two
results meet in a lane, either may remain (02 R37): the later instruction's is written first, and the earlier one's window has then been
written. -/
def landWhere (s : State) (id : GroupId) (p : Outstanding → Bool) : State :=
  match s.group? id with
  | none => s
  | some g =>
    if g.out.isEmpty then s
    else
      let due := g.out.filter p
      (due.foldr (landStep id)
        (s.setGroup id { g with out := g.out.filter (fun o => !p o), eccNow := g.eccNow ++ due.flatMap (·.ecc.toList) }, [])).1

/-- WriteOutstandingResults (02 R39). -/
def landAll (s : State) (id : GroupId) : State := landWhere s id (fun _ => true)

/-- The windows that have closed are written before the group issues (02 R36). -/
def closeWindows (s : State) (id : GroupId) : State := landWhere s id (fun o => o.left == 0)

/-- The BASE of a TWB register times 8 is a valid window of a view: zero, or with 96 registers above it (13 R285). -/
def twbValid (wb : BitVec 9) (view : Nat) : Bool := wb == 0 || decide (wb.toNat + 96 ≤ view)

/-- The pipe clock of a group's pipe, or its sequencer's. -/
def groupClk (s : State) (id : GroupId) : Nat :=
  if isSeq id then (s.cluster (clusterOf id)).clk
  else if slotOf id % 2 = 0 then (s.core (coreOf id)).clk0 else (s.core (coreOf id)).clk1

/-- The byte list of an event record of 32 bytes (11 Table 12). -/
def eventRecord (kind flags qid code level : Nat) (pos value time : Nat) : List Byte :=
  leBytes 1 kind ++ leBytes 1 flags ++ leBytes 1 qid ++ leBytes 1 code ++ leBytes 1 level ++ leBytes 3 0 ++
  leBytes 8 pos ++ leBytes 8 value ++ leBytes 8 time

/-- WIDX and RIDX of host event ring n, in its memory (11 R252). -/
def ringIdx (s : State) (n : Nat) : Nat × Nat :=
  let b := (s.ring n).base.toNat
  (leNat (readMem s 2 b 8), leNat (readMem s 2 (b + 8) 8))

/-- Whether a ring takes no record now: disabled or full (11 R252). -/
def ringFull (s : State) (n : Nat) : Bool :=
  let r := s.ring n
  !r.en || (let (w, i) := ringIdx s n; (w + 2 ^ 64 - i) % 2 ^ 64 == 2 ^ r.logn.toNat)

/-- Whether a record of the ring lies beyond kind-2 memory, so that its write fails (11 R253). -/
def ringBad (s : State) (n : Nat) : Bool :=
  let r := s.ring n
  let (w, _) := ringIdx s n
  decide (64 * 2 ^ 30 < r.base.toNat + 64 + 32 * (w % 2 ^ r.logn.toNat) + 32)

/-- Count a lost record on a ring (11 R253), which raises the ring's interrupt for at least one clock (15 R322). -/
def ringLost (s : State) (n : Nat) (fault : Bool) : State :=
  ({ s with sent := s.sent ++ [.pulse (1 + n)] } : State).modRing n fun r =>
    { r with
      lost := if r.lost = 0xFFFFFFFF then r.lost else r.lost + 1, owed := true, fault := r.fault || fault }

/-- Write an event record to a host event ring, or count it (11 R252, R253); every record written or lost is also a
strongbox event of source 1 (15 R331). -/
def ringWrite (s : State) (n kind qid code level pos value : Nat) : State :=
  let s' :=
    if ringFull s n then ringLost s n false
    else if ringBad s n then ringLost s n true
    else
      let r := s.ring n
      let (w, _) := ringIdx s n
      let s1 := writeMem s 2 (r.base.toNat + 64 + 32 * (w % 2 ^ r.logn.toNat))
        (eventRecord kind (if r.owed then 1 else 0) qid code level pos value s.time)
      (writeMem s1 2 r.base.toNat (leBytes 8 (w + 1))).modRing n fun r => { r with owed := false }
  sbRecord s' 1 code qid pos value

/-- A wedge: the group halts with DPEND holding the trap that could not be taken, and a kind-3 event record goes to host event
ring 0 (13 R285). -/
def wedge (s : State) (id : GroupId) (val lanes epc : Dword) : State :=
  let s1 := s.modGroup id fun g =>
    { g with wedged := true, wait := .none, preLit := none, preIx := none, preStart := none,
             dbg := { g.dbg with halted := true, resume := false, pendV := false, pendCause := Cause.dbl.code, pendEval := val, pendTlm := lanes,
                                 done := g.dm, pc := epc } }
  let p := match s.group? id with | some g => g.part | none => 0
  let value := if isSeq id then clusterOf id * 256 + p * 65536 + 2 ^ 22 else slotOf id + coreOf id * 256 + p * 65536
  sbRecord (ringWrite s1 0 3 0xFF 0x13 0 epc.toNat value) 2 0 (if isSeq id then clusterOf id else coreOf id) 0 0

/-- Enter the handler of a level: save, change mode, window and mask, and go to the entry (13 R285). -/
def enterTrap (g : Group) (toH : Bool) (cause : Cause) (val lanes epc tvec : Dword) (twb : BitVec 9) : Group :=
  let t : TrapRegs := if toH then g.ht else g.st
  let t' : TrapRegs := { t with epc := epc, cause := cause.code, eval := val, eem := g.em, tlm := lanes, edone := g.dm,
                                pm := modeNum g.mode, pwb := g.wb.extractLsb' 3 6, held := true }
  let g' := { g with mode := if toH then .h else .s, wb := twb, em := lanes, dm := 0, pc := tvec &&& ~~~3#64,
                     preLit := none, preIx := none, preStart := none, wait := .none,
                     ecc := g.ecc ++ g.eccNow.map (fun (e : EccInfo) => (toH, e)), eccNow := [] }
  if toH then { g' with ht := t' } else { g' with st := t' }

/-- A stop or a park of a group is due (13 R291). -/
def Group.due (g : Group) : Bool := g.stopping || g.parking

/-- A park, or a stop for a save, becomes due. -/
def Group.addStop (g : Group) (park : Bool) : Group := { g with parking := g.parking || park, stopping := g.stopping || !park }

/-- What is due takes the group: each of a stop and a park for itself, so that the end of the one leaves the other (13 R296, R299, R301). -/
def Group.takeStops (g : Group) : Group :=
  { g with parked := g.parked || g.parking, stopped := g.stopped || g.stopping, parking := false, stopping := false, raced := false }

/-- A trap that a stop meets (13 R292): it is recorded in DPEND as it would have been taken, and the group stops. -/
def pendTrap (s : State) (id : GroupId) (g : Group) (cause : Cause) (val lanes epc : Dword) : State :=
  s.setGroup id
    { g.takeStops with
             pc := epc, preLit := none, preIx := none, preStart := none, wait := .none,
             dbg := { g.dbg with halted := g.dbg.halted || g.dbg.haltReq, haltReq := false, resume := g.dbg.resume && !g.dbg.haltReq,
                                 armed := false, pendV := true,
                                 pendCause := cause.code, pendEval := val, pendTlm := lanes, done := g.dm, pc := epc } }

/-- TakeTrap (13 R285): from U the trap goes to S, else to H; a trap for S that finds the S trap state held or the handler
unusable becomes DBL to H; when H cannot take it the group wedges. A stop that is due makes it pending (13 R292, R293). -/
def takeTrap (s : State) (id : GroupId) (cause : Cause) (val lanes epc : Dword) : State :=
  let s := landAll s id
  match s.group? id with
  | none => s
  | some g =>
    if g.dbg.haltReq || g.due then pendTrap s id g cause val lanes epc else
    let p := s.part g.part
    let fromU := g.mode == .u
    let sBad := g.st.held || !p.stvec.getLsbD 0 || !twbValid p.stwb g.viewS
    let toH := !fromU || sBad
    let cause' := if fromU && sBad then Cause.dbl else cause
    let val' := if fromU && sBad then cause.code.setWidth 64 else val
    if toH && (g.ht.held || !p.htvec.getLsbD 0 || !twbValid p.htwb g.allot) then wedge s id val' lanes epc
    else if toH then s.setGroup id (enterTrap g true cause' val' lanes epc p.htvec p.htwb)
    else s.setGroup id (enterTrap g false cause' val' lanes epc p.stvec p.stwb)

/-- A trap of the instruction at hand: it records the address of its first prefix (02 R34). -/
def raiseTrap (s : State) (id : GroupId) (g : Group) (cause : Cause) (val lanes : Dword) : State :=
  takeTrap s id cause val lanes g.epc

/-- A trap of the instruction at hand whose TLM is EM (13 R284). -/
def raiseAll (s : State) (id : GroupId) (g : Group) (cause : Cause) (val : Dword) : State :=
  takeTrap s id cause val g.em g.epc

/-- A trap of the instruction at hand that the manual takes with EDONE empty, whatever DM holds (03 R66, 08 R174, R185, 09 R203, 12 R274,
14 R318). -/
def raiseWhole (s : State) (id : GroupId) (g : Group) (cause : Cause) (val : Dword) : State :=
  raiseAll (s.modGroup id fun x => { x with dm := 0 }) id g cause val

/-- One instruction nearer the close of each open window (02 R35). -/
def tick (out : List Outstanding) : List Outstanding := out.map fun o => { o with left := o.left - 1 }

/-- A group after an instruction that completes and goes on at pc (13 R286: DM is cleared; 02 R35: windows count). -/
def Group.retireTo (g : Group) (pc : Dword) : Group :=
  { g with pc := pc, dm := 0, preLit := none, preIx := none, preStart := none, wait := .none, out := tick g.out }

/-- A group after an instruction that completes and goes on with the next word. -/
def Group.retire (g : Group) : Group := g.retireTo (g.pc + 4)

/-- A new ready period begins in the clock after an instruction issues (10 R214). -/
def touchReady (s : State) (id : GroupId) : State :=
  let c := groupClk s id
  s.modGroup id fun g => { g with readySince := c + 1 }

/-- Complete the instruction of a group: the next word follows. -/
def retire (s : State) (id : GroupId) : State := { s.modGroup id Group.retire with fresh := s.fresh + 8 }

/-- Complete the instruction of a group: it goes on at pc. -/
def retireTo (s : State) (id : GroupId) (pc : Dword) : State :=
  { s.modGroup id (fun g => g.retireTo pc) with fresh := s.fresh + 8 }

/-- The group stands in a wait at its instruction (10 R214). -/
def waitIn (s : State) (id : GroupId) (w : Wait) : State := s.modGroup id fun g => { g with wait := w }

/-- The state of the trap level a group is in, or returns from: H or S (13 R289). -/
def Group.level (g : Group) : TrapRegs := if g.mode = .h then g.ht else g.st

/-- RTE (13 R289): a PWB beyond the view of the mode returned to traps WIN; else mode, window, EM, DM and PC come from the trap
state, whose HELD is cleared, and ECCs held pending behind this trap are to be raised (03 R55). -/
def returnTrap (s : State) (id : GroupId) : State :=
  let s := landAll s id
  match s.group? id with
  | none => s
  | some g =>
    let t := g.level
    let toH := g.mode == .h
    let nm := modeOf t.pm
    if t.pwb != 0 && decide (g.viewOf nm < t.pwb.toNat * 8 + 96) then
      raiseAll s id g .win (BitVec.ofNat 64 (t.pwb.toNat * 8))
    else
      let em := t.eem &&& fullMask g.width
      let g' := { g with mode := nm, wb := BitVec.ofNat 9 (t.pwb.toNat * 8), em := em, dm := t.edone &&& em, pc := t.epc &&& ~~~3#64,
                         preLit := none, preIx := none, preStart := none, wait := .none,
                         ecc := g.ecc.filter (fun (e : Bool × EccInfo) => e.1 != toH),
                         eccNow := g.eccNow ++ (g.ecc.filter (fun (e : Bool × EccInfo) => e.1 == toH)).map (fun (e : Bool × EccInfo) => e.2) }
      { s.setGroup id (if toH then { g' with ht := { t with held := false } } else { g' with st := { t with held := false } })
        with fresh := s.fresh + 8 }

/-- A stop at an instruction boundary (13 R291): outstanding results are written, a wait ends at its instruction but for the
sleep of YIELDC, and DPC and DPDONE hold the resume point and DM. -/
def stopAt (s : State) (id : GroupId) : State :=
  let s := landAll s id
  s.modGroup id fun g =>
    { g with dbg := { g.dbg with pc := g.epc, done := g.dm }, pc := g.epc, preLit := none, preIx := none, preStart := none,
             wait := match g.wait with
               | .continuation k => .continuation k
               | _ => .none }

/-- A stop that does not act now: inside a prefix sequence, while XCP or XCPD waits for room (13 R291), and while answers of an
atomic are awaited (12 R270). -/
def stopHeld (g : Group) : Bool :=
  match g.wait with
  | .room _ | .atomic _ => true
  | .none => g.preStart.isSome
  | _ => false

/-- A debugger halt (13 R291). -/
def haltGroup (s : State) (id : GroupId) : State :=
  (stopAt s id).modGroup id fun g => { g with dbg := { g.dbg with halted := true, haltReq := false, resume := false, armed := false } }

/-- Cut a byte list to 64 bytes of a record and pad it. -/
def recBytes (n : Nat) (r : Nat) : List Byte := leBytes n r

/-- Whether one core or sequencer is held by a partition: a valid byte of the core's SLMAP names it (13 R298); a sequencer goes with
its even core (10 R229). -/
def slByte (m : BitVec 32) (i : Nat) : BitVec 8 := m.extractLsb' (8 * i) 8
/-- A core belongs to every partition that a valid byte of its SLMAP names (13 R298). -/
def coreHeld (s : State) (c p : Nat) : Bool :=
  (List.range 4).any fun i =>
    let b := slByte (s.core c).slmap i
    b.getLsbD 7 && (b.extractLsb' 0 6).toNat == p

/-- A core that a vacate takes from a partition (13 R300). -/
def coreVacated (s : State) (c p : Nat) : Bool :=
  match s.vacate with
  | some v => v.part == p && decide (v.first ≤ c ∧ c ≤ v.last)
  | none => false

/-- The slot in force (13 R298). -/
def slotNow (s : State) : Nat :=
  if s.slEn then
    (if s.time < s.slEpoch.toNat then 0
     else (s.time - s.slEpoch.toNat) / (s.slPeriod.toNat * 1000) % (s.slN.toNat + 1))
  else 0

/-- The partition that holds a core's slot in force, if one does (13 R298). -/
def slotHolder (s : State) (c : Nat) : Option Nat :=
  let b := slByte (s.core c).slmap (slotNow s)
  if b.getLsbD 7 then some (b.extractLsb' 0 6).toNat else none

end Sys2Proof.Machine
end

