-- ==== Sys2Proof/Machine/Mem.lean ====
section
/-! DEFINITION. Memory: the team's scratchpad (05 R96) and address translation with its tables and TLBs (03 R59 to R66, 12 R264, R265). -/
namespace Sys2Proof.Machine

/-- The smallest power of two at least a team's allocation and at least 4,096 (05 R96). -/
def allocPow (a : Nat) : Nat := (([12, 13, 14, 15, 16, 17, 18, 19].find? (fun k => decide (a ≤ 2 ^ k))).map (2 ^ ·)).getD (2 ^ 19)

/-- ScratchLocate (05 R96): the core, the physical byte of its scratchpad, and whether it is in the gap. -/
def scratchLocate (t : Team) (core o : Nat) : Nat × Nat × Bool :=
  let a := t.ssize.toNat * 4096
  let a' := allocPow a
  let u := o % (if t.paired then 2 * a' else a')
  let p := u % a'
  (if t.paired then t.core + u / a' else core, t.sbase.toNat * 4096 + p, decide (a ≤ p))

/-- The kind-1 offset of a scratchpad byte (03 Table 2). -/
def scratchOff (core off : Nat) : Nat := core * 0x100000 + off

/-- Read bytes at a team-relative offset: gap bytes read zero (05 R96). -/
def scratchRead (s : State) (t : Team) (core o n : Nat) : List Byte :=
  (List.range n).map fun i =>
    let (c, p, gap) := scratchLocate t core ((o + i) % 2 ^ 32)
    if gap then 0 else memByte s 1 (scratchOff c p)

/-- Whether a byte of a range at a team-relative offset is in the gap. -/
def scratchGap (t : Team) (core o n : Nat) : Bool :=
  (List.range n).any fun i => (scratchLocate t core ((o + i) % 2 ^ 32)).2.2

/-- A byte list cut where a team offset passes a multiple of 4,096: each piece lies at one place or in the gap. -/
def scratchPieces : Nat → Nat → List Byte → List (Nat × List Byte)
  | 0, _, _ => []
  | _, _, [] => []
  | fuel + 1, o, l =>
    let n := 4096 - o % 4096
    (o, l.take n) :: scratchPieces fuel ((o + n) % 2 ^ 32) (l.drop n)

/-- Write bytes at a team-relative offset: gap bytes are discarded (05 R96). -/
def scratchWrite (s : State) (t : Team) (core o : Nat) (l : List Byte) : State :=
  (scratchPieces (l.length / 4096 + 2) o l).foldl (fun s e =>
    let (c, p, gap) := scratchLocate t core e.1
    if gap then s else writeMem s 1 (scratchOff c p) e.2) s

/-- GSTAT.SPOV of a group (05 R98). -/
def setSpov (s : State) (id : GroupId) (b : Bool) : State := if b then s.modGroup id fun g => { g with spov := true } else s

/-- The fields of an 80-bit address (03 R51). -/
def vaDev (va : VAddr) : Nat := (va.extractLsb' 67 13).toNat
def vaKind (va : VAddr) : Nat := (va.extractLsb' 64 3).toNat
def vaOff (va : VAddr) : Nat := (va.extractLsb' 0 64).toNat
/-- An address from its device, kind and offset. -/
def mkVa (dev kind off : Nat) : VAddr := BitVec.ofNat 80 (dev % 8192 * 2 ^ 67 + kind % 8 * 2 ^ 64 + off % 2 ^ 64)
/-- Add to the offset of an address modulo 2^64; device and kind are carried (04 R74). -/
def vaAdd (va : VAddr) (n : Int) : VAddr := va.extractLsb' 64 16 ++ (va.extractLsb' 0 64 + BitVec.ofInt 64 n)
/-- An address packed into 64 bits: device, kind, 48 offset bits (03 R66). -/
def packVa (va : VAddr) : Dword := va.extractLsb' 64 16 ++ va.extractLsb' 0 48

/-- A leaf of a translation table (03 R62). -/
structure Leaf where
  base : Nat
  logSize : Nat
  shd : Bool
  user : Bool
  x : Bool
  w : Bool
  r : Bool
  deriving DecidableEq, Repr

/-- The binary logarithm of a leaf's page at a level (03 Table 6). -/
def levelLog : Nat → Nat
  | 1 => 16
  | 2 => 21
  | _ => 30

/-- The alignment of the table that a pointer of a level names (03 Table 6). -/
def tableAlign : Nat → Nat
  | 2 => 256
  | _ => 4096

/-- The index of an offset into a table of a level (03 Table 6). -/
def tableIndex (level kind off : Nat) : Nat :=
  match level with
  | 4 => kind % 8 * 512 + off / 2 ^ 39 % 512
  | 3 => off / 2 ^ 30 % 512
  | 2 => off / 2 ^ 21 % 512
  | _ => off / 2 ^ 16 % 32

/-- Read an entry of a table at a level: a pointer to the next table, or a leaf, or nothing if it is invalid or malformed
(03 R62, 12 R264; the shadow rules hold at stage 1 only). -/
def entryOf (e level kind : Nat) (stage1 : Bool) : Option (Nat ⊕ Leaf) :=
  let addr := e / 256 % 2 ^ 40 * 256
  let bit := fun i => e / 2 ^ i % 2 == 1
  if !bit 0 || e / 2 ^ 48 != 0 || bit 6 then none
  else if bit 1 then
    (if level = 4 ∨ addr % 2 ^ levelLog level ≠ 0 then none
     else if stage1 && bit 7 && (addr % 2 ^ (levelLog level + 1) != 0 || decide (1 < kind)) then none
     else some (.inr ⟨addr, levelLog level, stage1 && bit 7, bit 5, bit 4, bit 3, bit 2⟩))
  else if level = 1 ∨ addr % tableAlign level ≠ 0 then none
  else some (.inl addr)

/-- Walk the tables from a level down; read gives an entry or the fault its read meets (03 R61). -/
def walkFrom (read : Nat → Except Cause Nat) (bad : Cause) (stage1 : Bool) (kind off : Nat) : Nat → Nat → Except Cause Leaf
  | 0, _ => .error bad
  | level + 1, table =>
    match read (table + 8 * tableIndex (level + 1) kind off) with
    | .error c => .error c
    | .ok e =>
      match entryOf e (level + 1) kind stage1 with
      | none => .error bad
      | some (.inr l) => .ok l
      | some (.inl next) => walkFrom read bad stage1 kind off level next

/-- The leaf grants an access (03 R62). -/
def leafGrants (l : Leaf) : Grant → Bool
  | .load | .wait => l.r
  | .store => l.w
  | .fetch => l.x

/-- The address within a leaf's page. -/
def leafAddr (l : Leaf) (off : Nat) : Nat := l.base + off % 2 ^ l.logSize

/-- Eight bytes of device memory as a table entry. An entry in a poisoned sector ends the walk with ECC, so that the access for which it is made
reports the error (03 R54); one beyond device memory reads zero (log 55). -/
def readEntry (s : State) (a : Nat) : Except Cause Nat :=
  if (poisonIn s 0 a 8).isSome then .error .ecc else .ok (leNat (readMem s 0 a 8))

/-- Stage 2 of an intermediate offset: the leaf, or GPF (03 R59, R62), or the ECC of a table read. -/
def stage2 (s : State) (root : BitVec 33) (kind ioff : Nat) : Except Cause Leaf :=
  walkFrom (readEntry s) .gpf false kind ioff 4 (root.toNat * 2 ^ 15)

/-- A stage-1 table read, itself translated by stage 2 with R, in kind 0 (03 R59, R62). -/
def readEntry1 (s : State) (p : Partition) (a : Nat) : Except Cause Nat :=
  match stage2 s p.s2root 0 a with
  | .error c => .error c
  | .ok l => if l.r then readEntry s (leafAddr l a) else .error .gpf

/-- Stage 1 of a virtual offset: the leaf, or PGF, or a GPF or an ECC met on a table read (03 R59). -/
def stage1 (s : State) (p : Partition) (kind off : Nat) : Except Cause Leaf :=
  walkFrom (readEntry1 s p) .pgf true kind off 4 (p.s1root.toNat * 2 ^ 15)

/-- A physical address: kind and offset, and whether the page is shadowed. -/
structure Phys where
  kind : Nat
  off : Nat
  shd : Bool
  deriving DecidableEq, Repr

/-- The pair of a shadowed leaf in the directory (12 R264). -/
def findPair (s : State) (part kind logSize lower : Nat) : Option Pair :=
  s.pairs.find? fun q => q.part == part && q.kind == kind && q.logSize == logSize && q.lower == lower

/-- The page of a pair that an access reaches: reads the front, writes the other (12 R265). -/
def pairBase (q : Pair) (write : Bool) : Nat := q.lower + (if q.front != write then 2 ^ q.logSize else 0)

/-- Publish windows: a fetch at or above PUBNEXT in an enabled window is refused (14 R316). -/
def fetchOpen (p : Partition) (off : Nat) : Bool :=
  !(p.pubEn && decide (p.pubBase.toNat ≤ off ∧ off < p.pubBase.toNat + 2 ^ p.pubLog.toNat) &&
    decide (p.pubBase.toNat + p.pubNext.toNat * 256 ≤ off))

/-- The physical extent and the kind-1 region rules (03 R51, R52, 15 R327): engine says that a copy engine asks. -/
def physOk (s : State) (part : Nat) (engine : Bool) (kind off : Nat) : Bool :=
  match kind with
  | 0 | 4 => decide (off < hbmSize s)
  | 1 =>
    match regionOf off with
    | .scratch .. => true
    | .pinned d u => tabGet s.pinned (d * 96 + u) == some part
    | .regs .. | .tile .. | .acc .. => engine
    | .hole => false
  | 2 => decide (off < 64 * 2 ^ 30)
  | _ => decide (off < poolSize s)

/-- The combined leaf of both stages for an access in U or S mode, the pair check between them (03 Table 9, 12 R264). -/
def combined (s : State) (part : Nat) (mode : Mode) (grant : Grant) (kind off : Nat) : Except Cause Phys :=
  let p := s.part part
  match mode with
  | .h =>
    match stage2 s p.hroot kind off with
    | .error c => .error c
    | .ok l => if leafGrants l grant then .ok ⟨kind, leafAddr l off, false⟩ else .error .gpf
  | m =>
    match stage1 s p kind off with
    | .error c => .error c
    | .ok l1 =>
      if !leafGrants l1 grant || (m == .u && !l1.user) then .error .pgf
      else
        let ioff : Except Cause Nat :=
          if l1.shd then
            match findPair s part kind l1.logSize l1.base with
            | none => .error .prot
            | some q => .ok (pairBase q (grant == .store) + off % 2 ^ l1.logSize)
          else .ok (leafAddr l1 off)
        match ioff with
        | .error c => .error c
        | .ok i =>
          match stage2 s p.s2root kind i with
          | .error c => .error c
          | .ok l2 => if leafGrants l2 grant then .ok ⟨kind, leafAddr l2 i, l1.shd⟩ else .error .gpf

/-- The grant bits of a TLB entry: R, W, X, U. -/
def grantBit (g : BitVec 4) : Grant → Bool
  | .load | .wait => g.getLsbD 0
  | .store => g.getLsbD 1
  | .fetch => g.getLsbD 2

/-- A TLB entry that serves an access (03 R64): of the partition and stage, holding the page, with the grant. One that holds the page without the
grant is a miss, and the tables are walked again (log 12). -/
def tlbHit (e : TlbEnt) (part : Nat) (mode : Mode) (grant : Grant) (kind off : Nat) : Bool :=
  e.part == part && (e.hyp == (mode == .h)) && e.kind == kind && e.vpage == off / 2 ^ e.logSize &&
  grantBit e.grants grant && (mode != .u || e.grants.getLsbD 3)

/-- The TLB of a unit: a vector core's number, or 256 + a cluster for its sequencer; other units hold none. -/
def unitTlb (s : State) (unit : Nat) : List TlbEnt :=
  if unit < 256 then (s.core unit).tlb else if unit < 384 then (s.cluster (unit - 256)).tlb else []
/-- The compute die of a unit: 64 cores or 32 clusters to a die (01 R12). -/
def dieOf (unit : Nat) : Nat := if unit < 256 then unit / 64 else (unit - 256) / 32
/-- The unit of a group. -/
def unitOf (id : GroupId) : Nat := if isSeq id then 256 + clusterOf id else coreOf id

/-- The entry that serves an access: of the unit's TLB, else of its die's (03 R64). -/
def tlbFind (s : State) (unit part : Nat) (mode : Mode) (grant : Grant) (kind off : Nat) : Option TlbEnt :=
  if unit < 384 then
    ((unitTlb s unit).find? (fun e => tlbHit e part mode grant kind off)).orElse fun _ =>
      ((tabGet s.l2tlb (dieOf unit)).getD []).find? (fun e => tlbHit e part mode grant kind off)
  else none

/-- Translation of an access on this device (03 Table 9, after the alignment check). unit is 384 for the units that hold no
TLB of their own; engine says that a copy engine asks. -/
def translate (s : State) (unit part : Nat) (engine : Bool) (mode : Mode) (grant : Grant) (kind off : Nat) : Except Cause Phys :=
  if 4 < kind || 2 ^ 48 ≤ off then .error .prot
  else if (kind == 4 && (grant == .store || grant == .wait)) || (kind != 4 && grant == .fetch) then .error .prot
  else if grant == .fetch && !fetchOpen (s.part part) off then .error .prot
  else
    let r : Except Cause Phys :=
      match tlbFind s unit part mode grant kind off with
      | some e => .ok ⟨kind, e.ppage * 2 ^ e.logSize + off % 2 ^ e.logSize, false⟩
      | none => combined s part mode grant kind off
    match r with
    | .error c => .error c
    | .ok p => if physOk s part engine p.kind p.off then .ok p else .error .prot

/-- The entry that a completed walk installs: as large as the smaller of the two stages' pages; pages of shadowed pairs are
never held, for the directory is consulted at every access (03 R64, 12 R265). -/
def walkEntry (s : State) (part : Nat) (mode : Mode) (kind off : Nat) : Option TlbEnt :=
  let p := s.part part
  match mode with
  | .h =>
    match stage2 s p.hroot kind off with
    | .error _ => none
    | .ok l => some ⟨part, true, kind, l.logSize, off / 2 ^ l.logSize, off / 2 ^ l.logSize, l.base / 2 ^ l.logSize, false, l.logSize,
        (if l.r then 1 else 0) ||| (if l.w then 2 else 0) ||| (if l.x then 4 else 0)⟩
  | _ =>
    match stage1 s p kind off with
    | .error _ => none
    | .ok l1 =>
      if l1.shd then none
      else
        match stage2 s p.s2root kind (leafAddr l1 off) with
        | .error _ => none
        | .ok l2 =>
          let z := min l1.logSize l2.logSize
          some ⟨part, false, kind, z, off / 2 ^ z, leafAddr l1 off / 2 ^ z, leafAddr l2 (leafAddr l1 off) / 2 ^ z, false, l1.logSize,
            (if l1.r && l2.r then 1 else 0) ||| (if l1.w && l2.w then 2 else 0) ||| (if l1.x && l2.x then 4 else 0) |||
            (if l1.user then 8 else 0)⟩

/-- Put an entry at the head of a TLB of n entries. -/
def tlbPut (n : Nat) (e : TlbEnt) (l : List TlbEnt) : List TlbEnt := (e :: l.filter (fun x => x != e)).take n

/-- A completed walk fills both TLB levels (03 R64). -/
def tlbFill (s : State) (unit part : Nat) (mode : Mode) (kind off : Nat) : State :=
  match walkEntry s part mode kind off with
  | none => s
  | some e =>
    let s1 := if unit < 256 then s.modCore unit fun c => { c with tlb := tlbPut 64 e c.tlb }
              else if unit < 384 then s.modCluster (unit - 256) fun c => { c with tlb := tlbPut 64 e c.tlb }
              else s
    if unit < 384 then
      { s1 with l2tlb := tabSet s1.l2tlb (dieOf unit) (tlbPut 16384 e ((tabGet s1.l2tlb (dieOf unit)).getD [])) }
    else s1

/-- After an access that translated: a miss has walked, and the walk fills the TLBs (03 R64). -/
def tlbTouch (s : State) (unit part : Nat) (mode : Mode) (grant : Grant) (kind off : Nat) : State :=
  match tlbFind s unit part mode grant kind off with
  | some _ => s
  | none => tlbFill s unit part mode kind off

/-- Whether an address lies on this device (03 R51). -/
def isLocal (s : State) (va : VAddr) : Bool := vaDev va == s.devNum.toNat

/-- Whether another device is reached: an up port leads to it, and its number fits the identifiers in use (15 R325). -/
def reachable (s : State) (dev : Nat) : Bool :=
  (s.featen.getLsbD 8 || decide (dev < 1024)) &&
  (List.range 18).any fun k => s.portUp.getLsbD k && Config.reaches k dev

/-- What an access to another device comes back with: PROT at the issuer when it is out of reach or its kind or offset is wrong
(03 R51, R60, 15 R325), else what that device answers, which this device cannot know (log 10). -/
def remoteFaultOf (s : State) (va : VAddr) : Option Cause :=
  if 4 < vaKind va || 2 ^ 48 ≤ vaOff va || !reachable s (vaDev va) then some .prot
  else
    let f := Config.remoteFault s.fresh va
    if f = Cause.pgf.code ∨ f = Cause.gpf.code ∨ f = Cause.prot.code then some (causeOf f) else none

end Sys2Proof.Machine
end

