-- ==== Sys2Proof/Machine/Operands.lean ====
section
/-! DEFINITION. Operands: every form of a register field (02 R25 to R33), the checks made before issue in the order of 02 R42
with the EVAL of each (02 R357), and the frame of an issue: closed windows are written, an ECC that waits is raised, a check
that fails traps, and else the instruction acts. -/
namespace Sys2Proof.Machine

/-- LitValue32 (02 R33). -/
def litValue32 (p : BitVec 25) : Word :=
  if p.getLsbD 24 then (p.extractLsb' 0 24).setWidth 32 <<< 8 else (p.extractLsb' 0 24).signExtend 32
/-- LitValue64 (02 R33). -/
def litValue64 (p : BitVec 25) : Dword :=
  if p.getLsbD 24 then (litValue32 p).setWidth 64 else (p.extractLsb' 0 24).signExtend 64
/-- The immediate of format I: 36 bits with a LIT, else 11 (02 R33). -/
def immOf (p : Pre) (i : BitVec 11) : Int :=
  match p.lit with
  | some l => (l ++ i).toInt
  | none => i.toInt
/-- The byte offset of format M (02 R33). -/
def offOf (p : Pre) : Int :=
  match p.lit with
  | some l => l.toInt
  | none => 0

/-- Index register xN (02 R31). -/
def Group.xreg (g : Group) (n : Nat) : Nat := (storeGet g.x n).toNat
/-- Address base register abN. -/
def Group.abreg (g : Group) (n : Nat) : VAddr := storeGet g.ab n
/-- Mask register kN. -/
def Group.kreg (g : Group) (n : Nat) : Dword := storeGet g.k n

/-- The allotment register that a v field names, direct or indirect (02 R26, R32). -/
def regNum (g : Group) (p : Pre) (o : Opnd) : Nat :=
  g.wb.toNat + o.fld.toNat +
  (match p.ix with
   | some x => if ixEnable x o.sel then g.xreg (ixSelect x o.sel) else 0
   | none => 0)

/-- Whether a field names v registers. -/
def opndIsV (o : Opnd) : Bool := o.fld.ult 96#7

/-- The number that tells the reads of one instruction apart. -/
def portOf : Sel → Nat
  | .d => 0
  | .a => 1
  | .b => 2

/-- The value of an operand in a lane, up to four registers, the lowest in the low bits (02 R26, R27, 07 R130). A 128-bit field that holds
115 reads LitValue64 with zeros above it: 02 R33 gives no constant of that width (log 38). -/
def srcOf (s : State) (id : GroupId) (g : Group) (p : Pre) (o : Opnd) (lane : Nat) : BitVec 128 :=
  if opndIsV o then
    let r := regNum g p o
    let v := fun k => readV s id g (r + k) lane (portOf o.sel)
    if o.wid = 1 then (v 0).setWidth 128
    else if o.wid = 2 then (v 1 ++ v 0).setWidth 128
    else v 3 ++ v 2 ++ v 1 ++ v 0
  else if o.fld.ult 112#7 then (readS s g (o.fld.toNat - 96) (portOf o.sel)).setWidth 128
  else if o.fld = 113#7 then BitVec.ofNat 128 lane
  else if o.fld = 114#7 then BitVec.ofNat 128 g.gid
  else if o.fld = 115#7 then
    (match p.lit with
     | some l => if o.wid = 1 then (litValue32 l).setWidth 128 else (litValue64 l).setWidth 128
     | none => 0)
  else 0

/-- Src32 (07 R130). -/
def src32 (s : State) (id : GroupId) (g : Group) (p : Pre) (o : Opnd) (lane : Nat) : Word := (srcOf s id g p o lane).setWidth 32
/-- Src64 (07 R130). -/
def src64 (s : State) (id : GroupId) (g : Group) (p : Pre) (o : Opnd) (lane : Nat) : Dword := (srcOf s id g p o lane).setWidth 64

/-- The scalar that a field 96 to 111 names, zero for z: what S[a − 96] reads. -/
def scalarOf (s : State) (g : Group) (f : BitVec 7) (port : Nat) : Dword :=
  if scalarOk f then readS s g (f.toNat - 96) port else 0

/-- Lanes of registers are written while windows are open (02 R37). -/
def dirtyCells (s : State) (id : GroupId) (g : Group) (cells : List (Nat × Nat)) : State :=
  if g.out.isEmpty then s else s.modGroup id fun g => { g with out := markDirty cells g.out }

/-- Dest(d, lane) = f lane for the lanes given (02 R26 to R28, 07 R130): v registers in each lane; a scalar takes the value of
the lowest active lane; z discards. -/
def writeDst (s : State) (id : GroupId) (g : Group) (p : Pre) (o : Opnd) (lanes : List Nat) (f : Nat → BitVec 128) : State :=
  if opndIsV o then
    let r := regNum g p o
    let s1 := (List.range o.wid).foldl (fun s k =>
      writeV s id g (r + k) (lanes.map fun l => (l, (f l).extractLsb' (32 * k) 32))) s
    let cells := (List.range o.wid).flatMap fun k => lanes.map fun l => (r + k, l)
    dirtyCells (healCells s1 (cells.map fun c => regCell id g c.1 c.2)) id g cells
  else if o.fld.ult 112#7 then
    match g.lowest with
    | none => s
    | some l =>
      if lanes.contains l then
        s.modGroup id fun g => g.setS (o.fld.toNat - 96)
          (if o.wid = 1 then ((f l).setWidth 32).setWidth 64 else (f l).setWidth 64)
      else s
  else s

/-- The scalars that an instruction names outside its operand list (the entries of each). -/
def instrScalars : Instr → List Nat
  | .call .. => [15]
  | .jmpr d a => (if scalarOk d then [d.toNat - 96] else []) ++ [a.toNat - 96]
  | .ret a => [a.toNat - 96]
  | .winb a _ | .abset _ a _ _ | .kacq _ a _ | .krel _ a _ | .tileTld _ a _ | .tileTst _ a _ | .accDrain _ a _ | .accCvt _ a _ =>
    if scalarOk a then [a.toNat - 96] else []
  | .publ d a b => [d.toNat - 96, a.toNat - 96, b.toNat - 96]
  | .xcp _ h => (List.range 8).map (h.toNat * 8 + ·)
  | .mbrd h | .mbrdTry h => (List.range 4).map (h.toNat * 4 + ·)
  | .jpost _ h _ => (List.range 4).map (h.toNat * 4 + ·)
  | .mjob _ a b => (if scalarOk a then [a.toNat - 96] else []) ++ (if scalarOk b then [b.toNat - 96] else [])
  | _ => []

/-- The registers an instruction reads or writes, numbered as 02 R37 numbers them. -/
def touched (g : Group) (p : Pre) (i : Instr) : List Nat :=
  (i.opnds.flatMap fun o =>
    if opndIsV o then (List.range o.wid).map (regNum g p o + ·)
    else if o.fld.ult 112#7 then [512 + (o.fld.toNat - 96)] else []) ++
  (instrScalars i).map (512 + ·)

/-- The CSR numbers that the manual assigns, for a vector core or a sequencer (13 R280, the CSR maps of every chapter). -/
def csrAssigned (seq : Bool) (n : Nat) : Bool :=
  (n ≤ 0x00C) || (0x010 ≤ n && n ≤ 0x03F) || (seq && 0x040 ≤ n && n ≤ 0x055) ||
  (0x100 ≤ n && n ≤ 0x108) || (0x10C ≤ n && n ≤ 0x10F) || (0x1A0 ≤ n && n ≤ 0x1A1) || (0x1B0 ≤ n && n ≤ 0x1B4) ||
  n == 0x1C0 || (0x1C8 ≤ n && n ≤ 0x1CB) || (!seq && 0x1D0 ≤ n && n ≤ 0x1D5) || (!seq && n == 0x1E0) ||
  (0x1E8 ≤ n && n ≤ 0x1ED) || (0x1F0 ≤ n && n ≤ 0x1F8) || (0x200 ≤ n && n ≤ 0x205) ||
  (0x400 ≤ n && n ≤ 0x408) || (0x40C ≤ n && n ≤ 0x40F) || (0x480 ≤ n && n ≤ 0x484) || (0x488 ≤ n && n ≤ 0x48B) ||
  (0x4A0 ≤ n && n ≤ 0x4A2) || n == 0x4C0 || (0x4D0 ≤ n && n ≤ 0x4D1) || n == 0x4D8 || (0x600 ≤ n && n ≤ 0x605)

/-- The CSR numbers within the reach of a mode (13 Table 1). -/
def csrReach (m : Mode) (n : Nat) : Bool :=
  match m with
  | .u => decide (n ≤ 0x0FF)
  | .s => decide (n ≤ 0x3FF)
  | .h => decide (n ≤ 0x7FF)

/-- The CSR number of an access. -/
def instrCsr : Instr → Option Nat
  | .csrr _ c => some c.toNat
  | .csrw _ c _ => some c.toNat
  | _ => none

/-- The instructions that trap PRIV in U mode (13 R288, 10 Table 20); HCALL traps in its own entry. -/
def instrPriv : Instr → Bool
  | .stop | .rte | .mbrd _ | .mbrdTry _ | .evsigSet .. => true
  | _ => false

/-- What a role may issue (10 Table 1, 07 R131). -/
def roleAllows (r : Role) (i : Instr) : Bool :=
  match i with
  | .fadd .. | .fsub .. | .fmul .. | .ffma .. | .fmin .. | .fmax .. | .fcmp .. | .fsgn .. | .frcp .. | .frsq .. | .fexp2 ..
  | .flog2 .. | .fsin .. | .fcos .. | .ftanh .. | .fcvt .. | .fcvts .. | .hadd2 .. | .hmul2 .. | .hfma2 .. | .dot4 ..
  | .fscl .. | .frnd .. | .fic .. => r != .copy
  | .rdce _ _ f | .scan _ _ f => r != .copy || f.ult 8#4
  | .lds .. | .sts .. | .spop .. | .spopOpen .. | .srel .. | .srelFree .. | .taga .. | .meet .. => r != .matrix
  | .xcp .. | .xcpd .. | .yieldc .. => r == .copy || r == .service
  | .mbrd _ | .mbrdTry _ => r != .service
  | .tileTld .. | .tileTst .. | .mma .. | .mjob .. | .mjobWait .. | .mjobCancel .. | .accZero .. | .accDrain .. | .accCvt ..
  | .accMove .. => r == .matrix
  | _ => true

/-- Direct fields whose registers reach beyond the view: the lowest such register (02 R30, R357). -/
def winFail (g : Group) (p : Pre) (i : Instr) : Option Nat :=
  (i.opnds.flatMap fun o =>
    if opndIsV o && !p.indirect o.sel then (List.range o.wid).map (regNum g p o + ·) |>.filter (fun r => decide (g.view ≤ r)) else []).min?

/-- Indirect fields whose effective number fails a check: the lowest such number (02 R32, R357). -/
def idxFail (g : Group) (p : Pre) (i : Instr) : Option Nat :=
  (i.opnds.flatMap fun o =>
    if opndIsV o && p.indirect o.sel then
      (if regNum g p o % o.wid ≠ 0 then [regNum g p o] else []) ++
      ((List.range o.wid).map (regNum g p o + ·) |>.filter (fun r => decide (g.view ≤ r)))
    else []).min?

/-- The lowest register in an open window that an instruction touches, while lookahead is checked (02 R37). -/
def lavFail (g : Group) (p : Pre) (i : Instr) : Option Nat :=
  if g.dbg.lavCheck then ((touched g p i).filter fun r => g.out.any (·.regs.contains r)).min? else none

/-- Whether a window base can be written: 0, or a multiple of 8 with 96 registers of the view above it (02 R30). -/
def windowOk (g : Group) (n : Int) : Bool :=
  decide (0 ≤ n) && decide (n % 8 = 0) && (n == 0 || decide (n + 96 ≤ g.view))

/-- The window base that WINB writes: the scalar, or zero, and the immediate (05 R100). -/
def winbBase (s : State) (g : Group) (a : BitVec 7) (i : BitVec 11) : Int := (scalarOf s g a 1).toInt + immOf g.pre i

/-- The value that CSRW writes: that of the lowest active lane, or of lane 0 when EM is empty (13 R281). -/
def csrwValue (s : State) (id : GroupId) (g : Group) (a : BitVec 7) : Dword := src64 s id g g.pre (srcOpnd .a a 2) (g.lowest.getD 0)

/-- The window base in a value for WB, where the view does not admit it (02 R30). -/
def wbFail (g : Group) (v : Dword) : Option Dword :=
  let n := (v.extractLsb' 3 6).toNat * 8
  if windowOk g n then none else some (BitVec.ofNat 64 n)

/-- The window base that an instruction would write and the view does not admit (02 R30): of WINB, or of a CSRW of WB. -/
def baseFail (s : State) (id : GroupId) (g : Group) : Instr → Option Dword
  | .winb a i => if windowOk g (winbBase s g a i) then none else some (BitVec.ofInt 64 (winbBase s g a i))
  | .csrw _ c a => if c = 0x004#11 then wbFail g (csrwValue s id g a) else none
  | _ => none

/-- PREF never traps but with ILL (03 R72). -/
def isPref : Instr → Bool
  | .prefL1 .. | .prefL2 .. => true
  | _ => false

/-- The checks made before issue, in the order of 02 R42, each with its EVAL (02 R357, 13 R280). Of a CSRW of WB that meets both causes of WIN,
a field beyond the view and a refused base, the field is recorded, for 02 R357 names neither first (log 55). -/
def checkIssue (s : State) (id : GroupId) (g : Group) (i : Instr) : Option (Cause × Dword) :=
  let p := g.pre
  let w := (wordOf i).setWidth 64
  if !i.legal g.gen p then some (.ill, w)
  else if g.mode == .u && instrPriv i then some (.priv, w)
  else if ((instrCsr i).map (fun n => !csrReach g.mode n)).getD false then some (.priv, w)
  else if ((instrCsr i).map (fun n => !csrAssigned (isSeq id) n)).getD false then some (.ill, w)
  else if !roleAllows g.role i then some (.role, w)
  else if isPref i then none
  else
    (((winFail g p i).map fun r => (Cause.win, BitVec.ofNat 64 r)).orElse fun _ =>
      ((baseFail s id g i).map fun v => (Cause.win, v)).orElse fun _ =>
        ((idxFail g p i).map fun r => (Cause.idx, BitVec.ofNat 64 r)).orElse fun _ =>
          (lavFail g p i).map fun r => (Cause.lav, BitVec.ofNat 64 r))

/-- The lanes in which an instruction reads a source field (07 R129, R130): the active ones, and in LD, ST, LDX, STX, WAITL and the atomics
those of them that are pending (13 R286); the lowest active one where the entry says so, which for CSRW with EM empty is lane 0 (05 R109,
09 R197, 10 R232, R233, 13 R281). While a lane is active SHFL and BCST read the whole of a (log 54). PREF never traps, so nothing that it
reads is reported (03 R72). -/
def readLanes (g : Group) (i : Instr) (sel : Sel) : List Nat :=
  match i, sel with
  | .prefL1 .., _ | .prefL2 .., _ => []
  | .shfl .., .a | .bcst .., .a => if g.active.isEmpty then [] else List.range g.width
  | .csrw .., _ => [g.lowest.getD 0]
  | .bcst .., _ | .srel .., _ | .srelFree .., _ | .jpost .., _ | .evsig .., _ | .evsigSet .., _ | .evsigRd .., _ | .taga .., _ | .tagf .., _
  | .meet .., _ | .ttrdy .., _ => g.lowest.toList
  | .sel _ _ _ k, .a => g.active.filter (bitOf (g.kreg k.toNat))
  | .sel _ _ _ k, _ => g.active.filter fun l => !bitOf (g.kreg k.toNat) l
  | .ld .., _ | .st .., _ | .ldx .., _ | .stx .., _ | .waitl .., _ | .atadd .., _ | .atsmin .., _ | .atsmax .., _ | .atnmin .., _
  | .atnmax .., _ | .atand .., _ | .ator .., _ | .atxor .., _ | .atxch .., _ | .atcas .., _ | .atfadd .., _ | .atbadd2 .., _ => g.pending
  | _, _ => g.active

/-- The lanes in which an instruction reads an uncorrectable word of a register file, with the place of the lowest one's (03 R55, log 54). -/
def eccSources (s : State) (id : GroupId) (g : Group) (i : Instr) : Option EccInfo :=
  if s.poison.isEmpty then none
  else
    let srcs := (i.opnds.filter fun o => o.src && opndIsV o).map fun o => (o, readLanes g i o.sel)
    let cells := fun lane => (srcs.filter fun e => e.2.contains lane).flatMap fun e =>
      (List.range e.1.wid).map fun k => regCell id g (regNum g g.pre e.1 + k) lane
    let bad := (List.range g.width).filterMap fun lane => ((cells lane).find? (cellBad s)).map fun c => (lane, c)
    match bad with
    | [] => none
    | (_, c) :: _ =>
      some ⟨maskOf (bad.map (·.1)), if c.1 then Config.poisonPlace s.fresh else BitVec.ofNat 48 ((cellUnit c).2 * 8)⟩

/-- The ECC trap of a load whose result has landed: EPC is the instruction that would issue next, EDONE is what DM is
(03 R55). -/
def eccTrap (s : State) (id : GroupId) (g : Group) (e : EccInfo) (rest : List EccInfo) : State :=
  takeTrap (s.setGroup id { g with eccNow := rest }) id .ecc (e.off.setWidth 64) e.lanes g.epc

/-- An instruction that has begun and that no trap may end: XCP or XCPD that waits for room (04 R91), and an atomic whose answers are awaited
(12 R270). -/
def midIssue (g : Group) : Bool :=
  match g.wait with
  | .room _ | .atomic _ => true
  | _ => false

/-- Issue an instruction of the current group: closed windows are written (02 R36), an ECC that waits is raised (03 R55), a
failed check traps (02 R42), and else the instruction acts by its body; an uncorrectable register word that it reads is to be raised after
it (03 R55). An instruction that stands in midIssue has passed its checks, and an ECC that comes meanwhile waits until it has completed. -/
def issue (i : Instr) (s0 : State) (body : State → GroupId → Group → State) : Host.Outcome State Fault Refusal :=
  match s0.group? s0.cur with
  | none => .fault .noIssuer
  | some _ =>
    let s := closeWindows s0 s0.cur
    match s.group? s0.cur with
    | none => .fault .noIssuer
    | some g =>
      match (if midIssue g then [] else g.eccNow) with
      | e :: rest => .next (eccTrap s s0.cur g e rest)
      | [] =>
        match (if midIssue g then none else checkIssue s s0.cur g i) with
        | some (c, v) => .next (raiseAll s s0.cur g c v)
        | none =>
          match (if midIssue g then none else eccSources s s0.cur g i) with
          | none => .next (body s s0.cur g)
          | some e =>
            let h : Group := { g with eccNow := [e] }
            .next (body (s.setGroup s0.cur h) s0.cur h)

/-- A per-lane instruction whose results need no flag: write f in every active lane and go on (07 R129). -/
def perLane (o : Opnd) (f : State → GroupId → Group → Nat → BitVec 128) (s : State) (id : GroupId) (g : Group) : State :=
  retire (writeDst s id g g.pre o g.active (f s id g)) id

/-- A mask writer: bit l is f l in each active lane, 0 in the others (07 R129). -/
def maskWriter (k : BitVec 7) (f : State → GroupId → Group → Nat → Bool) (s : State) (id : GroupId) (g : Group) : State :=
  retire (s.modGroup id fun x => x.setK k.toNat (maskOf (g.active.filter (f s id g)))) id

/-- One 32-bit value in every active lane (the status results of many entries). -/
def statusDst (s : State) (id : GroupId) (g : Group) (d : BitVec 7) (v : Word) : State :=
  writeDst s id g g.pre (dstOpnd d 1) g.active (fun _ => v.setWidth 128)

/-- Lookahead as the group decodes it (14 Table 8). -/
def effLa (g : Group) (l : BitVec 4) : Nat := if g.gen = 1 then 0 else if g.gen = 2 then l.toNat % 8 else l.toNat

/-- Issue a long-latency result: the instruction completes, its result lands when its window closes at the latest
(02 R35, R36). Results of z are discarded. A result that lands in the window of an earlier one on the same lane writes that lane there,
and either may remain (landWhere). -/
def issueLong (s : State) (id : GroupId) (g : Group) (o : Opnd) (l : BitVec 4) (lanes : List Nat) (f : Nat → BitVec 128)
    (ecc : Option EccInfo) : State :=
  let r := regNum g g.pre o
  let res : Outstanding :=
    if opndIsV o then
      { num := s.fresh, left := effLa g l, regs := (List.range o.wid).map (r + ·),
        vals := (List.range o.wid).flatMap (fun k => lanes.map fun lane => (r + k, lane, (f lane).extractLsb' (32 * k) 32)),
        svals := [], dirty := [], ecc := ecc }
    else if o.fld.ult 112#7 then
      { num := s.fresh, left := effLa g l, regs := [512 + (o.fld.toNat - 96)], vals := [],
        svals := (match g.lowest with
          | some lane => if lanes.contains lane then
              [(o.fld.toNat - 96, if o.wid = 1 then ((f lane).setWidth 32).setWidth 64 else (f lane).setWidth 64)] else []
          | none => []),
        dirty := [], ecc := ecc }
    else { num := s.fresh, left := effLa g l, regs := [], vals := [], svals := [], dirty := [], ecc := ecc }
  (retire s id).modGroup id fun g => { g with out := g.out ++ [res] }

end Sys2Proof.Machine
end

