-- ==== Sys2Proof/Machine/Flags.lean ====
section
/-! DEFINITION. Number formats, rounding and flags (06 R111 to R126): values are exact, a sign, a natural significand and a power of
two, so each result is rounded once from its exact value. Flags are bits NV 4, DZ 3, OF 2, UF 1, NX 0 (06 Table 6). -/
namespace Sys2Proof.Machine

/-- A floating-point format (06 Table 1): exponent bits, fraction bits, bias, and whether it has infinities. -/
structure Fmtf where
  eb : Nat
  fb : Nat
  bias : Nat
  hasInf : Bool
  deriving DecidableEq, Repr

def fp32 : Fmtf := ⟨8, 23, 127, true⟩
def fp16 : Fmtf := ⟨5, 10, 15, true⟩
def bf16 : Fmtf := ⟨8, 7, 127, true⟩
def e4m3 : Fmtf := ⟨4, 3, 7, false⟩
def e5m2 : Fmtf := ⟨5, 2, 15, true⟩

/-- The format of a code 1 to 5 (04 Table 3). -/
def fmtOfCode (c : Nat) : Fmtf :=
  match c with
  | 2 => fp16
  | 3 => bf16
  | 4 => e4m3
  | 5 => e5m2
  | _ => fp32

/-- A value: a NaN (signalling or quiet), an infinity, or ±m × 2^e. -/
inductive Fval
  | nan (signalling : Bool)
  | inf (neg : Bool)
  | fin (neg : Bool) (m : Nat) (e : Int)
  deriving DecidableEq, Repr

abbrev Flagset := BitVec 5
def fNV : Flagset := 16#5
def fDZ : Flagset := 8#5
def fOF : Flagset := 4#5
def fUF : Flagset := 2#5
def fNX : Flagset := 1#5

/-- Bits of a format. -/
def Fmtf.bits (f : Fmtf) : Nat := 1 + f.eb + f.fb
/-- 1 − bias. -/
def Fmtf.emin (f : Fmtf) : Int := 1 - (f.bias : Int)
/-- The canonical NaN (06 Table 2). -/
def Fmtf.canonNan (f : Fmtf) : Nat :=
  if f.hasInf then (2 ^ f.eb - 1) * 2 ^ f.fb + 2 ^ (f.fb - 1) else 2 ^ (f.eb + f.fb) - 1
/-- The encoding of the largest finite value (06 Table 1). -/
def Fmtf.maxBits (f : Fmtf) : Nat := if f.hasInf then (2 ^ f.eb - 1) * 2 ^ f.fb - 1 else 2 ^ (f.eb + f.fb) - 2
/-- The sign bit's weight. -/
def Fmtf.signBit (f : Fmtf) (neg : Bool) : Nat := if neg then 2 ^ (f.eb + f.fb) else 0
/-- The encoding of infinity. -/
def Fmtf.infBits (f : Fmtf) (neg : Bool) : Nat := f.signBit neg + (2 ^ f.eb - 1) * 2 ^ f.fb

/-- The value of an encoding (06 R111, R112). -/
def decodeF (f : Fmtf) (b : Nat) : Fval :=
  let neg := b / 2 ^ (f.eb + f.fb) % 2 == 1
  let e := b / 2 ^ f.fb % 2 ^ f.eb
  let frac := b % 2 ^ f.fb
  if f.hasInf && e == 2 ^ f.eb - 1 then
    (if frac = 0 then .inf neg
     else .nan (f.bits != 8 && frac / 2 ^ (f.fb - 1) == 0))
  else if !f.hasInf && e == 2 ^ f.eb - 1 && frac == 2 ^ f.fb - 1 then .nan false
  else if e = 0 then .fin neg frac (f.emin - f.fb)
  else .fin neg (2 ^ f.fb + frac) ((e : Int) - f.bias - f.fb)

/-- FTZ on an input: a subnormal reads as zero of its sign (06 R118). -/
def flushIn (f : Fmtf) (ftz : Bool) (v : Fval) : Fval :=
  match v with
  | .fin n m e => if ftz && decide (m < 2 ^ f.fb) && decide (e = f.emin - f.fb) then .fin n 0 e else v
  | _ => v

/-- The integer part of m × 2^e over 2^q, rounded by a code, and whether anything was lost (06 R114, Table 3). -/
def roundQ (m : Nat) (e q : Int) (rnd : Nat) (r : Nat) : Nat × Bool :=
  if q ≤ e then (m * 2 ^ (e - q).toNat, false)
  else
    let sh := (q - e).toNat
    let n := m / 2 ^ sh
    let rem := m % 2 ^ sh
    let up := match rnd with
      | 0 => decide (2 ^ sh < 2 * rem) || (decide (2 * rem = 2 ^ sh) && n % 2 == 1)
      | 2 => decide (65536 ≤ rem * 65536 / 2 ^ sh + r)
      | _ => false
    (if up then n + 1 else n, rem != 0)

/-- RoundFloat (06 R114) with the flags of 06 R117, R121: the encoding and the flags. ftz flushes a subnormal result (06 R118). -/
def roundF (f : Fmtf) (rnd : Nat) (nsat : Bool) (r : Nat) (ftz : Bool) (v : Fval) : Nat × Flagset :=
  match v with
  | .nan sg => (f.canonNan, if sg then fNV else 0)
  | .inf neg =>
    if f.hasInf then (f.infBits neg, 0)
    else if nsat then (f.canonNan, 0) else (f.signBit neg + f.maxBits, 0)
  | .fin neg m e =>
    if m = 0 then (f.signBit neg, 0)
    else
      let lg : Int := (Nat.log2 m : Int) + e
      let q : Int := (if lg < f.emin then f.emin else lg) - f.fb
      let (n, lost) := roundQ m e q rnd r
      let top : Int := (Nat.log2 n : Int) + q
      let maxE : Int := ((f.maxBits / 2 ^ f.fb : Nat) : Int) - f.bias
      let maxM : Nat := 2 ^ f.fb + f.maxBits % 2 ^ f.fb
      let tooBig := n != 0 && (decide (maxE < top) ||
        (decide (top = maxE) && decide (maxM * 2 ^ (maxE - f.fb - (if q < maxE - f.fb then q else maxE - f.fb)).toNat <
          n * 2 ^ (q - (if q < maxE - f.fb then q else maxE - f.fb)).toNat)))
      if tooBig then
        (if rnd = 1 then f.signBit neg + f.maxBits
         else if f.hasInf then f.infBits neg
         else if nsat then f.canonNan else f.signBit neg + f.maxBits, fOF ||| fNX)
      else
        let nx : Flagset := if lost then fNX else 0
        let tiny := decide (lg < f.emin) && lost &&
          decide ((roundQ m e (lg - f.fb) rnd r).1 < 2 ^ (f.emin - lg + f.fb).toNat)
        let fl := if tiny then nx ||| fUF else nx
        if n = 0 then (f.signBit neg, fl)
        else if top < f.emin then (if ftz then (f.signBit neg, fl ||| fUF ||| fNX) else (f.signBit neg + n, fl))
        else
          let mant := if f.fb ≤ Nat.log2 n then n / 2 ^ (Nat.log2 n - f.fb) else n * 2 ^ (f.fb - Nat.log2 n)
          (f.signBit neg + (top + f.bias).toNat * 2 ^ f.fb + (mant - 2 ^ f.fb), fl)

/-- The exact signed integer of a finite value at a common exponent. -/
def scaled (neg : Bool) (m : Nat) (e e0 : Int) : Int :=
  let x : Int := (m * 2 ^ (e - e0).toNat : Nat)
  if neg then -x else x

/-- A value from an integer and an exponent; zero has the sign given. -/
def ofScaled (x : Int) (e : Int) (zneg : Bool) : Fval :=
  if x = 0 then .fin zneg 0 0 else .fin (decide (x < 0)) x.natAbs e

/-- An exact sum with its NV (07 R147): inf − inf is NaN; an exact zero of addends of opposite sign is +0, of two −0 is −0. -/
def addV (a b : Fval) : Fval × Flagset :=
  match a, b with
  | .nan s, .nan t => (.nan false, if s || t then fNV else 0)
  | .nan s, _ => (.nan false, if s then fNV else 0)
  | _, .nan t => (.nan false, if t then fNV else 0)
  | .inf s, .inf t => if s = t then (.inf s, 0) else (.nan false, fNV)
  | .inf s, _ => (.inf s, 0)
  | _, .inf t => (.inf t, 0)
  | .fin s m e, .fin t n d =>
    let e0 := if e < d then e else d
    (ofScaled (scaled s m e e0 + scaled t n d e0) e0 (s && t), 0)

/-- An exact product with its NV (07 R147). -/
def mulV (a b : Fval) : Fval × Flagset :=
  match a, b with
  | .nan s, .nan t => (.nan false, if s || t then fNV else 0)
  | .nan s, _ => (.nan false, if s then fNV else 0)
  | _, .nan t => (.nan false, if t then fNV else 0)
  | .inf s, .inf t => (.inf (s != t), 0)
  | .inf s, .fin t n _ => if n = 0 then (.nan false, fNV) else (.inf (s != t), 0)
  | .fin s m _, .inf t => if m = 0 then (.nan false, fNV) else (.inf (s != t), 0)
  | .fin s m e, .fin t n d => (.fin (s != t) (m * n) (e + d), 0)

/-- Negation. -/
def negV : Fval → Fval
  | .nan s => .nan s
  | .inf s => .inf (!s)
  | .fin s m e => .fin (!s) m e

/-- fusedMultiplyAdd: the exact product and the addend; 0 × inf raises NV even beside a NaN addend (07 R147). -/
def fmaV (a b c : Fval) : Fval × Flagset :=
  let (p, fp) := mulV a b
  match p, c with
  | .nan _, .nan t => (.nan false, fp ||| (if t then fNV else 0))
  | .nan _, _ => (.nan false, fp)
  | _, _ => let (r, fr) := addV p c; (r, fp ||| fr)

/-- The order of two values that are not NaN: less, equal. −0 equals +0. -/
def ltV (a b : Fval) : Bool :=
  match a, b with
  | .inf s, .inf t => s && !t
  | .inf s, _ => s
  | _, .inf t => !t
  | .fin s m e, .fin t n d =>
    let e0 := if e < d then e else d
    decide (scaled s m e e0 < scaled t n d e0)
  | _, _ => false

def isNanV : Fval → Bool
  | .nan _ => true
  | _ => false
def isSnanV : Fval → Bool
  | .nan s => s
  | _ => false
def isNegV : Fval → Bool
  | .nan _ => false
  | .inf s => s
  | .fin s _ _ => s

/-- A finite or infinite value back into its format, unrounded: the format holds it. -/
def encodeF (f : Fmtf) (v : Fval) : Nat := (roundF f 0 false 0 false v).1

/-- The minimum (true) or maximum of 07 R148 in a format: .NUM when num; −0 orders below +0; flushed results as 06 R118. -/
def minMax (f : Fmtf) (isMin num : Bool) (ftz : Bool) (a b : Nat) : Nat × Flagset :=
  let x := flushIn f ftz (decodeF f a)
  let y := flushIn f ftz (decodeF f b)
  let fl : Flagset := if isSnanV x || isSnanV y then fNV else 0
  if isNanV x && isNanV y then (f.canonNan, fl)
  else if isNanV x then (if num then encodeF f y else f.canonNan, fl)
  else if isNanV y then (if num then encodeF f x else f.canonNan, fl)
  else
    let xLess := ltV x y || (!ltV y x && isNegV x && !isNegV y)
    (encodeF f (if xLess == isMin then x else y), fl)

/-- RotateLeft(w, i mod 32)[31:16]: the random value of lane i (06 R115). -/
def srDraw (w : Word) (i : Nat) : Nat := ((w.rotateLeft (i % 32)).extractLsb' 16 16).toNat

/-- GeneratorStep (06 R115). -/
def genStep (g : Word) : Word :=
  let h := g >>> 1
  if g.getLsbD 0 then h ^^^ 0x80200003#32 else h

/-- Floating point to an integer of n bits (06 R122): the value and the flags. -/
def toInt (n : Nat) (rnd r : Nat) (v : Fval) : Int × Flagset :=
  match v with
  | .nan _ => (0, fNV)
  | .inf neg => (if neg then -(2 ^ (n - 1) : Int) else 2 ^ (n - 1) - 1, fNV)
  | .fin neg m e =>
    let (k, lost) := if 64 < e then (if m = 0 then 0 else 2 ^ 64, false) else roundQ m e 0 rnd r
    let x : Int := if neg then -(k : Int) else k
    if x < -(2 ^ (n - 1) : Int) then (-(2 ^ (n - 1) : Int), fNV)
    else if (2 ^ (n - 1) : Int) ≤ x then (2 ^ (n - 1) - 1, fNV)
    else (x, if lost then fNX else 0)

/-- The bits of an integer in n bits. -/
def intBits (n : Nat) (x : Int) : Nat := (x % (2 ^ n : Int)).toNat

/-- Convert (06 R121, R122): one element from a source format code to a destination format code, 1 to 7. -/
def convertE (src dst rnd : Nat) (nsat : Bool) (r : Nat) (ftz : Bool) (x : Nat) : Nat × Flagset :=
  if src = 6 ∨ src = 7 then
    let i := sextInt (if src = 6 then 8 else 32) x
    if dst = 6 then
      (if i < -128 then (intBits 8 (-128), fNV) else if 127 < i then (127, fNV) else (intBits 8 i, 0))
    else if dst = 7 then (x, 0)
    else roundF (fmtOfCode dst) rnd nsat r ftz (.fin (decide (i < 0)) i.natAbs 0)
  else
    let v := flushIn (fmtOfCode src) ftz (decodeF (fmtOfCode src) x)
    if dst = 6 ∨ dst = 7 then
      let n := if dst = 6 then 8 else 32
      let (i, fl) := toInt n rnd r v
      (intBits n i, fl)
    else roundF (fmtOfCode dst) rnd nsat r ftz v

/-- Bytes of an element of a format code (04 Table 3). -/
def codeBytes (c : Nat) : Nat :=
  match c with
  | 1 | 7 => 4
  | 2 | 3 => 2
  | _ => 1

/-- FTZ of a group (06 Table 5). -/
def ftzOf (g : Group) : Bool := g.fpctl.getLsbD 8

/-- The flags enabled to trap (06 Table 5, in the bit order of Table 6). -/
def fpEnables (g : Group) : Flagset := g.fpctl.extractLsb' 0 5

/-- The vector pipe's generator that a group draws from: its own pipe's; a sequencer draws from pipe 0 of core 2c (06 R115,
07 R131). -/
def genCell (id : GroupId) : Nat × Bool := if isSeq id then (2 * clusterOf id, false) else (coreOf id, slotOf id % 2 == 1)
/-- The current value of that generator. -/
def genOf (s : State) (id : GroupId) : Word :=
  let (c, p1) := genCell id
  if p1 then (s.core c).gen1 else (s.core c).gen0
/-- Advance that generator. -/
def genAdvance (s : State) (id : GroupId) : State :=
  let (c, p1) := genCell id
  s.modCore c fun x => if p1 then { x with gen1 := genStep x.gen1 } else { x with gen0 := genStep x.gen0 }

/-- The union of the flags of the lanes. -/
def unionFlags (l : List Flagset) : Flagset := l.foldl (· ||| ·) 0

/-- A floating-point instruction of the vector pipes (06 R118): the flags of every active lane are computed first; if an enabled one
is among them the instruction traps FPX with no effect on a register or FPSTAT, else they are ORed into FPSTAT and fin writes
the results. With sr the generator has advanced once and lane i draws from its new value (06 R115). -/
def fpIssue (sr : Bool) (f : State → GroupId → Group → Word → Nat → BitVec 128 × Flagset)
    (fin : State → GroupId → Group → (Nat → BitVec 128) → State) (s : State) (id : GroupId) (g : Group) : State :=
  let s1 := if sr && !g.active.isEmpty then genAdvance s id else s
  let w := genOf s1 id
  let r := f s id g w
  let fl := unionFlags (g.active.map fun l => (r l).2)
  if fl &&& fpEnables g ≠ 0 then raiseAll s1 id g .fpx (fl.setWidth 64)
  else fin (s1.modGroup id fun x => { x with fpstat := x.fpstat ||| fl }) id g (fun l => (r l).1)

/-- The usual end of a floating-point instruction: Dest(d, lane) = result. -/
def fpWrite (o : Opnd) (s : State) (id : GroupId) (g : Group) (f : Nat → BitVec 128) : State :=
  retire (writeDst s id g g.pre o g.active f) id

/-- A result of n bits with its flags. -/
def fpRes (x : Nat × Flagset) : BitVec 128 × Flagset := (BitVec.ofNat 128 x.1, x.2)

end Sys2Proof.Machine
end

