-- ==== Sys2Proof/Machine/Approx.lean ====
section
/-! DEFINITION. The long-latency floating-point functions of 07 R151. FRCP and FRSQ return one of the two FP32 values that enclose the
exact result, a free choice; the others return a free value wherever it lies within the bound of 07 Table 13, which is
checked against the function computed in fixed point of 160 fraction bits (log 7). -/
namespace Sys2Proof.Machine

/-- Fraction bits of the fixed point. -/
def fixBits : Nat := 160
/-- 1 in fixed point. -/
def fixOne : Int := 2 ^ 160
/-- π in fixed point. -/
def fixPi : Int := 4591442807048218921384805199743311128454155024418
/-- ln 2 in fixed point. -/
def fixLn2 : Int := 1013035739299659071135698605846798551586536899366

/-- A product in fixed point. -/
def fixMul (x y : Int) : Int := x * y / fixOne

/-- Σ x^k / k! over k from n on, the first term being t: the exponential series; sq is the factor from a term to the next, which
step also divides by the numbers that the index passes. -/
def series (x : Int) (next : Nat → Nat) : Nat → Nat → Int → Int
  | 0, _, _ => 0
  | fuel + 1, k, t => t + series x next fuel (k + 1) (fixMul t x / (next k : Nat))

/-- e^x for x from 0 to 1. -/
def fixExp (x : Int) : Int := series x (fun k => k + 1) 50 0 fixOne
/-- sin x for |x| up to π. -/
def fixSin (x : Int) : Int := series (-(fixMul x x)) (fun k => (2 * k + 2) * (2 * k + 3)) 50 0 x
/-- cos x for |x| up to π. -/
def fixCos (x : Int) : Int := series (-(fixMul x x)) (fun k => (2 * k + 1) * (2 * k + 2)) 50 0 fixOne

/-- Σ z^(2k+1) / (2k+1), the atanh series; t is the power of z. -/
def fixAtanh (z2 : Int) : Nat → Nat → Int → Int
  | 0, _, _ => 0
  | fuel + 1, k, t => t / ((2 * k + 1 : Nat) : Int) + fixAtanh z2 fuel (k + 1) (fixMul t z2)

/-- ln m for m from 1 to 2: 2 atanh((m − 1) / (m + 1)). -/
def fixLn (m : Int) : Int :=
  let z := (m - fixOne) * fixOne / (m + fixOne)
  2 * fixAtanh (fixMul z z) 60 0 z

/-- A finite value in fixed point, rounded down. -/
def toFix (neg : Bool) (m : Nat) (e : Int) : Int :=
  let k := e + 160
  let a : Int := if 0 ≤ k then (m : Int) * 2 ^ k.toNat else (m : Int) / 2 ^ (-k).toNat
  if neg then -a else a

/-- A fixed-point number times a power of two, as a value. -/
def fixVal (x : Int) (e : Int) : Fval := .fin (decide (x < 0)) x.natAbs (e - 160)

/-- 2^x for a finite x below 128 and at or above −149. -/
def exp2Val (neg : Bool) (m : Nat) (e : Int) : Fval :=
  let x := toFix neg m e
  let n := x / fixOne
  fixVal (fixExp (fixMul (x - n * fixOne) fixLn2)) n

/-- log₂ x for x > 0. -/
def log2Val (m : Nat) (e : Int) : Fval :=
  let k := Nat.log2 m
  let mant := toFix false m (-(k : Int))
  fixVal ((e + k) * fixOne + fixLn mant * fixOne / fixLn2) 0

/-- x less the nearest multiple of 2π, in fixed point. -/
def reduceTurn (x : Int) : Int := x - (x + fixPi) / (2 * fixPi) * (2 * fixPi)

/-- tanh x for |x| < 9: (1 − q) / (1 + q) with q = e^(−2|x|). -/
def tanhVal (neg : Bool) (m : Nat) (e : Int) : Fval :=
  let y := 2 * toFix false m e
  let w := y * fixOne / fixLn2
  let n := -(-w / fixOne)
  -- e^(−y) = 2^(−n) × e^((n − w) ln 2)
  let q := fixExp (fixMul (n * fixOne - w) fixLn2) / 2 ^ n.toNat
  let t := (fixOne - q) * fixOne / (fixOne + q)
  fixVal (if neg then -t else t) 0

/-- The absolute value. -/
def absV : Fval → Fval
  | .fin _ m e => .fin false m e
  | .inf _ => .inf false
  | v => v

/-- A value brought into [−1, 1]. -/
def clampV (v : Fval) : Fval := if ltV (.fin false 1 0) (absV v) then .fin (isNegV v) 1 0 else v

/-- Whether two values are at most u × 2^e apart, up to a part in 2^60. -/
def withinV (c a : Fval) (u : Nat) (e : Int) : Bool :=
  !ltV (.fin false (u * 2 ^ 60 + 1) (e - 60)) (absV (addV c (negV a)).1)

/-- The exponent of an ulp at a value (07 R151). -/
def ulpExp : Fval → Int
  | .fin _ m e => (if (Nat.log2 m : Int) + e < -126 then -126 else (Nat.log2 m : Int) + e) - 23
  | _ => 0

/-- The result of a function: the free value of the operand where it meets the bound, else the rounded value. -/
def boundedBits (fn : Nat) (x : Word) (a : Fval) (ok : Fval → Bool) : Word :=
  let c := Config.approx fn x
  match decodeF fp32 c.toNat with
  | .fin n m e => if ok (.fin n m e) then c else BitVec.ofNat 32 (roundF fp32 0 false 0 false a).1
  | _ => BitVec.ofNat 32 (roundF fp32 0 false 0 false a).1

/-- The flags of a finite result that is not listed as exact, and FTZ on it (07 R151, 06 R118). -/
def inexactRes (ftz : Bool) (b : Word) : Word × Flagset :=
  if b &&& 0x7F800000#32 = 0 then (if ftz then b &&& 0x80000000#32 else b, fUF ||| fNX) else (b, fNX)

/-- The quotient 2^k / m as a value whose last bit is set when the division leaves a remainder: it rounds as the exact quotient. -/
def stickyDiv (m k : Nat) : Nat := 2 * (2 ^ k / m) + (if 2 ^ k % m = 0 then 0 else 1)

/-- The integer square root, by its bits from the highest. -/
def isqrt (y : Nat) : Nat → Nat → Nat
  | 0, r => r
  | b + 1, r => if (r + 2 ^ b) * (r + 2 ^ b) ≤ y then isqrt y b (r + 2 ^ b) else isqrt y b r

/-- One of the two FP32 values that enclose an exact value (07 Table 13). Where the exact value is itself an FP32 value that the table does not
list as exact, as FRCP of 2^127 and of its negative, it is returned, with UF and NX; of 2^-128 and its negative, whose reciprocal lies beyond the
largest value, the infinity sets OF and NX and the largest value NX alone (07 R151, log 7). -/
def enclose (sqrt ftz : Bool) (x : Word) (v : Fval) : Word × Flagset :=
  let (b, fl) := roundF fp32 1 false 0 false v
  let lo := BitVec.ofNat 32 b
  if fl &&& fNX = 0 then inexactRes ftz lo
  else
    let r := if Config.roundChoice sqrt x then lo + 1 else lo
    if r &&& 0x7FFFFFFF#32 = 0x7F800000#32 then (r, fOF ||| fNX) else inexactRes ftz r

/-- A power of two: its exponent, if the significand has one bit. -/
def powExp (m : Nat) (e : Int) : Option Int := if m = 2 ^ Nat.log2 m then some ((Nat.log2 m : Int) + e) else none

def posInf : Word := 0x7F800000#32
def negInf : Word := 0xFF800000#32
def nanW : Word := 0x7FC00000#32
def oneW : Word := 0x3F800000#32
/-- The sign bit of a word, as a sign. -/
def signedW (neg : Bool) (w : Word) : Word := if neg then w ||| 0x80000000#32 else w
/-- An exact result, rounded without loss. -/
def exactW (v : Fval) : Word := BitVec.ofNat 32 (encodeF fp32 v)

/-- FRCP (07 Table 13). -/
def rcpF (ftz : Bool) (x : Word) (v : Fval) : Word × Flagset :=
  match v with
  | .nan s => (nanW, if s then fNV else 0)
  | .inf n => (signedW n 0, 0)
  | .fin n m e =>
    if m = 0 then (signedW n posInf, fDZ)
    else if (Nat.log2 m : Int) + e < -128 then (signedW n posInf, fOF ||| fNX)
    else
      match powExp m e with
      | some k =>
        if -126 ≤ -k ∧ -k ≤ 127 then (exactW (.fin n 1 (-k)), 0) else enclose false ftz x (.fin n 1 (-k))
      | none => enclose false ftz x (.fin n (stickyDiv m 200) (-201 - e))

/-- FRSQ (07 Table 13). -/
def rsqF (ftz : Bool) (x : Word) (v : Fval) : Word × Flagset :=
  match v with
  | .nan s => (nanW, if s then fNV else 0)
  | .inf n => if n then (nanW, fNV) else (0, 0)
  | .fin n m e =>
    if m = 0 then (signedW n posInf, fDZ)
    else if n then (nanW, fNV)
    else
      let (m, e) := if e % 2 = 0 then (m, e) else (2 * m, e - 1)
      let r := isqrt (2 ^ 240 / m) 121 0
      let exact := r * r * m = 2 ^ 240
      if exact then (exactW (.fin false r (-120 - e / 2)), 0)
      else enclose true ftz x (.fin false (2 * r + 1) (-121 - e / 2))

/-- FEXP2 (07 Table 13). -/
def exp2F (ftz : Bool) (x : Word) (v : Fval) : Word × Flagset :=
  match v with
  | .nan s => (nanW, if s then fNV else 0)
  | .inf n => (if n then 0 else posInf, 0)
  | .fin n m e =>
    if !n && !ltV v (.fin false 1 7) then (posInf, fOF ||| fNX)
    else if ltV v (.fin true 149 0) then (0, fUF ||| fNX)
    else if toFix n m e % fixOne = 0 ∧ -160 ≤ e then
      let k := toFix n m e / fixOne
      let b := exactW (.fin false 1 k)
      if ftz && decide (k < -126) then (0, fUF ||| fNX) else (b, 0)
    else
      let a := exp2Val n m e
      inexactRes ftz (boundedBits 0 x a fun c => withinV c a 2 (ulpExp a))

/-- FLOG2 (07 Table 13). -/
def log2F (ftz : Bool) (x : Word) (v : Fval) : Word × Flagset :=
  match v with
  | .nan s => (nanW, if s then fNV else 0)
  | .inf n => if n then (nanW, fNV) else (posInf, 0)
  | .fin n m e =>
    if m = 0 then (negInf, fDZ)
    else if n then (nanW, fNV)
    else
      match powExp m e with
      | some k => (exactW (ofScaled k 0 false), 0)
      | none =>
        let a := log2Val m e
        inexactRes ftz (boundedBits 1 x a fun c =>
          if !ltV v (.fin false 1 (-1)) && ltV v (.fin false 2 0) then withinV c a 1 (-22) else withinV c a 2 (ulpExp a))

/-- sin x or cos x for a finite x. -/
def trigVal (cosine neg : Bool) (m : Nat) (e : Int) : Fval :=
  let r := reduceTurn (toFix neg m e)
  clampV (fixVal (if cosine then fixCos r else fixSin r) 0)

/-- FSIN and FCOS (07 Table 13). -/
def trigF (cosine ftz : Bool) (x : Word) (v : Fval) : Word × Flagset :=
  match v with
  | .nan s => (nanW, if s then fNV else 0)
  | .inf _ => (nanW, fNV)
  | .fin n m e =>
    if m = 0 then (if cosine then oneW else signedW n 0, 0)
    else
      let a := trigVal cosine n m e
      inexactRes ftz (boundedBits (if cosine then 3 else 2) x a fun c =>
        if ltV (.fin false 1 20) (.fin false m e) then !ltV (.fin false 1 0) (absV c) else withinV c a 1 (-21))

/-- FTANH (07 Table 13). -/
def tanhF (ftz : Bool) (x : Word) (v : Fval) : Word × Flagset :=
  match v with
  | .nan s => (nanW, if s then fNV else 0)
  | .inf n => (signedW n oneW, 0)
  | .fin n m e =>
    if m = 0 then (signedW n 0, 0)
    else if !ltV (.fin false m e) (.fin false 9 0) then (signedW n oneW, fNX)
    else
      let a := tanhVal n m e
      inexactRes ftz (boundedBits 4 x a fun c => withinV c a 2 (ulpExp a) || withinV c a 1 (-24))

/-- A long-latency function: the flags count at issue, the result lands when the window closes (07 R151). -/
def longFloat (f : Bool → Word → Fval → Word × Flagset) (d a : BitVec 7) (la : BitVec 4) (s : State) (id : GroupId) (g : Group) :
    State :=
  fpIssue false (fun s id g _ l =>
      let x := src32 s id g g.pre (srcOpnd .a a 1) l
      let r := f (ftzOf g) x (flushIn fp32 (ftzOf g) (decodeF fp32 x.toNat))
      (r.1.setWidth 128, r.2))
    (fun s id g r => issueLong s id g (dstOpnd d 1) la g.active r none) s id g

/-- FRCP (07 R151). -/
def execFrcp (d a : BitVec 7) (l : BitVec 4) (s : State) : Host.Outcome State Fault Refusal :=
  issue (.frcp d a l) s (longFloat rcpF d a l)

/-- FRSQ (07 R151). -/
def execFrsq (d a : BitVec 7) (l : BitVec 4) (s : State) : Host.Outcome State Fault Refusal :=
  issue (.frsq d a l) s (longFloat rsqF d a l)

/-- FEXP2 (07 R151). -/
def execFexp2 (d a : BitVec 7) (l : BitVec 4) (s : State) : Host.Outcome State Fault Refusal :=
  issue (.fexp2 d a l) s (longFloat exp2F d a l)

/-- FLOG2 (07 R151). -/
def execFlog2 (d a : BitVec 7) (l : BitVec 4) (s : State) : Host.Outcome State Fault Refusal :=
  issue (.flog2 d a l) s (longFloat log2F d a l)

/-- FSIN (07 R151). -/
def execFsin (d a : BitVec 7) (l : BitVec 4) (s : State) : Host.Outcome State Fault Refusal :=
  issue (.fsin d a l) s (longFloat (trigF false) d a l)

/-- FCOS (07 R151). -/
def execFcos (d a : BitVec 7) (l : BitVec 4) (s : State) : Host.Outcome State Fault Refusal :=
  issue (.fcos d a l) s (longFloat (trigF true) d a l)

/-- FTANH (07 R151). -/
def execFtanh (d a : BitVec 7) (l : BitVec 4) (s : State) : Host.Outcome State Fault Refusal :=
  issue (.ftanh d a l) s (longFloat tanhF d a l)

end Sys2Proof.Machine
end

