-- ==== Sys2Proof/Machine/Memory.lean ====
section
/-! DEFINITION. Loads and stores: LD, ST, PREF (03 R70 to R72), LDS, STS (05 R101 to R103), LDX, STX and WAITL (12 R267, R272, R359). -/
namespace Sys2Proof.Machine

/-- The bytes of a format-M access (03 Table 14). -/
def szBytes (s : BitVec 3) : Nat := if s.ult 2#3 then 1 else if s.ult 4#3 then 2 else if s = 4#3 then 4 else if s = 5#3 then 8 else 16

/-- The bytes of a format-S access (12 R267). -/
def strongBytes (s : BitVec 2) : Nat := if s = 0#2 then 4 else if s = 1#2 then 8 else 16

/-- Extend (03 Table 14): the value that a load of a size delivers. -/
def extend (s : BitVec 3) (l : List Byte) : BitVec 128 :=
  let v := leNat l
  if s = 1#3 then ((BitVec.ofNat 8 v).signExtend 32).setWidth 128
  else if s = 3#3 then ((BitVec.ofNat 16 v).signExtend 32).setWidth 128
  else BitVec.ofNat 128 v

/-- The address of a lane (03 R71, 12 R267): the base, the lane value of a zero-extended, and the byte offset, modulo 2^64. -/
def laneVa (s : State) (id : GroupId) (g : Group) (n : BitVec 3) (a : BitVec 7) (off : Int) (lane : Nat) : VAddr :=
  vaAdd (g.abreg n.toNat) (((src32 s id g g.pre (srcOpnd .a a 1) lane).toNat : Int) + off)

/-- The lanes of a list that fail a test. -/
def lanesNot (l : List (Nat × VAddr)) (p : VAddr → Bool) : List (Nat × VAddr) := l.filter fun e => !p e.2

/-- The address is a multiple of the access. -/
def aligned (n : Nat) (va : VAddr) : Bool := va.toNat % n == 0

/-- R51: kind 0 to 4 and offset bits [63:48] zero. -/
def wellPlaced (va : VAddr) : Bool := decide (vaKind va ≤ 4) && decide (vaOff va < 2 ^ 48)

/-- A trap of the listed lanes: the cause and the packed address of the lowest, TLM the lanes (03 R66, 13 R284). -/
def laneTrap (s : State) (id : GroupId) (g : Group) (cause : Cause) (fails : List (Nat × VAddr)) : State :=
  match fails.head? with
  | none => s
  | some e => raiseTrap { s with fresh := s.fresh + 8 } id g cause (packVa e.2) (maskOf (fails.map (·.1)))

/-- The fault that another device reports as uncorrectable data, with the offset it names, which this device cannot know (log 10). -/
def remotePoison (s : State) (va : VAddr) : Option (BitVec 48) :=
  if Config.remoteFault s.fresh va = Cause.ecc.code then
    some (BitVec.ofNat 48 (leNat ((List.range 6).map fun i => Config.remoteByte s.fresh va (1000 + i))))
  else none

/-- Read one lane: the bytes, and the uncorrectable sector or word that it meets. -/
def readLane (s : State) (id : GroupId) (g : Group) (grant : Grant) (va : VAddr) (n : Nat) :
    Except Cause (List Byte × Option (BitVec 48)) :=
  if isLocal s va then
    match translate s (unitOf id) g.part false g.mode grant (vaKind va) (vaOff va) with
    | .error c => .error c
    | .ok p => .ok (readMem s p.kind p.off n, (poisonIn s p.kind p.off n).map (BitVec.ofNat 48))
  else if vaKind va = 4 ∧ grant = .wait then .error .prot
  else
    match remoteFaultOf s va with
    | some c => .error c
    | none => .ok ((List.range n).map (Config.remoteByte s.fresh va), remotePoison s va)

/-- Translate one lane of a store; the physical place is absent when the bytes go to another device. -/
def storeLane (s : State) (id : GroupId) (g : Group) (va : VAddr) : Except Cause (Option Phys) :=
  if isLocal s va then
    match translate s (unitOf id) g.part false g.mode .store (vaKind va) (vaOff va) with
    | .error c => .error c
    | .ok p => .ok (some p)
  else if vaKind va = 4 then .error .prot
  else match remoteFaultOf s va with
    | some c => .error c
    | none => .ok none

/-- What a read of the pool at a virtual address leaves in the strongbox while the link is down (15 R327, R331). -/
def linkTouch (s : State) (id : GroupId) (g : Group) (grant : Grant) (va : VAddr) : State :=
  if isLocal s va && vaKind va == 3 && !s.cxlUp then
    (match translate s (unitOf id) g.part false g.mode grant 3 (vaOff va) with
     | .ok p => linkError s p.kind p.off
     | .error _ => s)
  else s

/-- The TLBs and the traffic that a lane's access leaves behind: a completed walk fills the TLBs (03 R64), a remote access travels. -/
def touchLane (s : State) (id : GroupId) (g : Group) (grant : Grant) (va : VAddr) (remote : Sent) : State :=
  if isLocal s va then tlbTouch (linkTouch s id g grant va) (unitOf id) g.part g.mode grant (vaKind va) (vaOff va)
  else { s with sent := s.sent ++ [remote] }

/-- The lanes of a list for which a result is an error, and the others with their results. -/
def splitLanes {α : Type} (l : List (Nat × VAddr)) (f : Nat × VAddr → Except Cause α) :
    List (Nat × VAddr × Cause) × List (Nat × VAddr × α) :=
  l.foldr (fun e acc => match f e with
    | .error c => ((e.1, e.2, c) :: acc.1, acc.2)
    | .ok x => (acc.1, (e.1, e.2, x) :: acc.2)) ([], [])

/-- The trap of lanes that failed with causes of their own: that of the lowest (03 R66). -/
def failTrap (s : State) (id : GroupId) (g : Group) (fails : List (Nat × VAddr × Cause)) : State :=
  match fails.head? with
  | none => s
  | some e => laneTrap s id g e.2.2 (fails.map fun x => (x.1, x.2.1))

/-- Lanes become done in the working mask (13 R286). -/
def markDone (s : State) (id : GroupId) (lanes : List Nat) : State :=
  s.modGroup id fun x => { x with dm := x.dm ||| maskOf lanes }

/-- What the lanes of a load report as uncorrectable (03 R55). -/
def eccOf (l : List (Nat × Option (BitVec 48))) : Option EccInfo :=
  match l.filter (fun e => e.2.isSome) with
  | [] => none
  | (k, o) :: r => some ⟨maskOf (k :: r.map (·.1)), o.getD 0⟩

/-- LD (03 R71). -/
def load (d a : BitVec 7) (n sz : BitVec 3) (la : BitVec 4) (s : State) (id : GroupId) (g : Group) : State :=
  let k := szBytes sz
  let o := dstOpnd d (szWid sz)
  let vas := g.pending.map fun l => (l, laneVa s id g n a (offOf g.pre) l)
  match lanesNot vas (aligned k) with
  | e :: r => laneTrap s id g .aln (e :: r)
  | [] =>
    let (fails, oks) := splitLanes vas fun e => readLane s id g .load e.2 k
    let s1 := oks.foldl (fun s e => touchLane s id g .load e.2.1 (.read e.2.1 k)) s
    let ecc := eccOf (oks.map fun e => (e.1, e.2.2.2))
    let val := fun l => match oks.find? (fun e => e.1 == l) with
      | some e => if e.2.2.2.isSome then 0 else extend sz e.2.2.1
      | none => 0
    let done := oks.map (·.1)
    if fails.isEmpty then issueLong s1 id g o la done val ecc
    else
      let s2 := landAll s1 id
      let s3 := writeDst s2 id g g.pre o done val
      let s4 := (markDone s3 id done).modGroup id fun x => { x with eccNow := x.eccNow ++ ecc.toList }
      failTrap s4 id g fails

/-- LD (03 R71). -/
def execLd (d a : BitVec 7) (n : BitVec 3) (sz : BitVec 3) (h : BitVec 1) (l : BitVec 4) (s : State) :
    Host.Outcome State Fault Refusal :=
  issue (.ld d a n sz h l) s (load d a n sz l)

/-- Write lanes in ascending order, so that the highest-numbered lane's byte remains (03 R71). Each lane is a write of its own: lanes of one
ST that together write a poisoned sector whole leave it poisoned, which 03 R54 does not settle (log 55). -/
def storeLanes (s : State) (n : Nat) (l : List (Nat × VAddr × Option Phys)) (data : Nat → BitVec 128) : State :=
  l.foldl (fun s e =>
    let b := leBytes n (data e.1).toNat
    match e.2.2 with
    | some p => writeMem s p.kind p.off b
    | none => { s with sent := s.sent ++ [.write e.2.1 b] }) s

/-- TLB fills of a store's local lanes. -/
def touchStores (s : State) (id : GroupId) (g : Group) (vas : List (Nat × VAddr)) : State :=
  vas.foldl (fun s e => if isLocal s e.2 then tlbTouch s (unitOf id) g.part g.mode .store (vaKind e.2) (vaOff e.2) else s) s

/-- ST (03 R71). -/
def store (d a : BitVec 7) (n sz : BitVec 3) (s : State) (id : GroupId) (g : Group) : State :=
  let k := szBytes sz
  let vas := g.pending.map fun l => (l, laneVa s id g n a (offOf g.pre) l)
  match lanesNot vas (aligned k) with
  | e :: r => laneTrap s id g .aln (e :: r)
  | [] =>
    let (fails, oks) := splitLanes vas fun e => storeLane s id g e.2
    let data := fun l => srcOf s id g g.pre (srcOpnd .d d (szWid sz)) l
    let s1 := storeLanes (touchStores s id g (oks.map fun e => (e.1, e.2.1))) k oks data
    if fails.isEmpty then retire s1 id
    else failTrap (markDone s1 id (oks.map (·.1))) id g fails

/-- ST (03 R71). -/
def execSt (d a : BitVec 7) (n : BitVec 3) (sz : BitVec 3) (h : BitVec 1) (s : State) : Host.Outcome State Fault Refusal :=
  issue (.st d a n sz h) s (store d a n sz)

/-- PREF.L1 (03 R72): no effect on any value that a program can read. -/
def execPrefL1 (a : BitVec 7) (n : BitVec 3) (h : BitVec 1) (s : State) : Host.Outcome State Fault Refusal :=
  issue (.prefL1 a n h) s fun s id _ => retire s id

/-- PREF.L2 (03 R72): no effect on any value that a program can read. -/
def execPrefL2 (a : BitVec 7) (n : BitVec 3) (h : BitVec 1) (s : State) : Host.Outcome State Fault Refusal :=
  issue (.prefL2 a n h) s fun s id _ => retire s id

/-- The team offset of a lane's scratchpad access, aligned down (05 R102). -/
def scratchVa (s : State) (id : GroupId) (g : Group) (n : BitVec 3) (a : BitVec 7) (k lane : Nat) : Nat :=
  let o := (((g.abreg n.toNat).extractLsb' 0 32).toNat + (src32 s id g g.pre (srcOpnd .a a 1) lane).toNat : Int) + offOf g.pre
  let u := (o % (2 ^ 32 : Int)).toNat
  u - u % k

/-- The uncorrectable word that a scratchpad read meets, as a kind-1 offset (05 R102). -/
def scratchPoison (s : State) (t : Team) (core o n : Nat) : Option (BitVec 48) :=
  let (c, p, gap) := scratchLocate t core o
  if gap then none else (poisonIn s 1 (scratchOff c p) n).map (BitVec.ofNat 48)

/-- LDS (05 R102). -/
def loadScratch (d a : BitVec 7) (n sz : BitVec 3) (la : BitVec 4) (s : State) (id : GroupId) (g : Group) : State :=
  match s.team? g.team with
  | none => retire s id
  | some t =>
    let k := szBytes sz
    let c := coreOf id
    let vas := g.active.map fun l => (l, scratchVa s id g n a k l)
    let gap := vas.any fun e => scratchGap t c e.2 k
    let ecc := eccOf (vas.map fun e => (e.1, scratchPoison s t c e.2 k))
    let val := fun l => match vas.find? (fun e => e.1 == l) with
      | some e => if (scratchPoison s t c e.2 k).isSome then 0 else extend sz (scratchRead s t c e.2 k)
      | none => 0
    setSpov (issueLong s id g (dstOpnd d (szWid sz)) la g.active val ecc) id gap

/-- LDS (05 R102). -/
def execLds (d a : BitVec 7) (n : BitVec 3) (sz : BitVec 3) (h : BitVec 1) (l : BitVec 4) (s : State) :
    Host.Outcome State Fault Refusal :=
  issue (.lds d a n sz h l) s (loadScratch d a n sz l)

/-- STS (05 R102). -/
def storeScratch (d a : BitVec 7) (n sz : BitVec 3) (s : State) (id : GroupId) (g : Group) : State :=
  match s.team? g.team with
  | none => retire s id
  | some t =>
    let k := szBytes sz
    let c := coreOf id
    let vas := g.active.map fun l => (l, scratchVa s id g n a k l)
    let gap := vas.any fun e => scratchGap t c e.2 k
    let s1 := vas.foldl (fun s' e =>
      scratchWrite s' t c e.2 (leBytes k (srcOf s id g g.pre (srcOpnd .d d (szWid sz)) e.1).toNat)) s
    setSpov (retire s1 id) id gap

/-- STS (05 R102). -/
def execSts (d a : BitVec 7) (n : BitVec 3) (sz : BitVec 3) (h : BitVec 1) (s : State) : Host.Outcome State Fault Refusal :=
  issue (.sts d a n sz h) s (storeScratch d a n sz)

/-- The addresses of a strong access or an atomic (12 R267, R270): those of R51 first, then alignment; each of the two checks traps
before any translation. -/
def strongLanes (s : State) (id : GroupId) (g : Group) (n : BitVec 3) (a : BitVec 7) : List (Nat × VAddr) :=
  g.pending.map fun l => (l, laneVa s id g n a 0 l)

/-- The trap that stops a strong access or an atomic before translation, if one does. -/
def strongCheck (s : State) (id : GroupId) (g : Group) (k : Nat) (vas : List (Nat × VAddr)) : Option State :=
  match lanesNot vas wellPlaced with
  | e :: r => some (laneTrap s id g .prot (e :: r))
  | [] =>
    match lanesNot vas (aligned k) with
    | e :: r => some (laneTrap s id g .aln (e :: r))
    | [] => none

/-- The ECC trap of lanes of a strong read (12 R359): no lane counts as performed. -/
def strongEcc (s : State) (id : GroupId) (g : Group) (l : List (Nat × Option (BitVec 48))) : Option State :=
  (eccOf l).map fun e => raiseTrap { s with fresh := s.fresh + 8 } id g .ecc (e.off.setWidth 64) e.lanes

/-- Read every pending lane as a strong access (12 R267, R272): a trap, or the bytes of each lane. -/
def strongRead (s : State) (id : GroupId) (g : Group) (grant : Grant) (k : Nat) (vas : List (Nat × VAddr)) :
    Except State (State × List (Nat × List Byte)) :=
  match strongCheck s id g k vas with
  | some t => .error t
  | none =>
    let (fails, oks) := splitLanes vas fun e => readLane s id g grant e.2 k
    if !fails.isEmpty then .error (failTrap s id g fails)
    else match strongEcc (vas.foldl (fun s e => linkTouch s id g grant e.2) s) id g (oks.map fun e => (e.1, e.2.2.2)) with
      | some t => .error t
      | none =>
        .ok (vas.foldl (fun s e => touchLane s id g grant e.2 (.read e.2 k)) s, oks.map fun e => (e.1, e.2.2.1))

/-- The value of a lane among those read. -/
def laneBytes (l : List (Nat × List Byte)) (lane : Nat) : BitVec 128 :=
  match l.find? (fun e => e.1 == lane) with
  | some e => BitVec.ofNat 128 (leNat e.2)
  | none => 0

/-- LDX (12 R267). -/
def execLdx (d a : BitVec 7) (o : BitVec 5) (sz : BitVec 2) (n : BitVec 3) (s : State) : Host.Outcome State Fault Refusal :=
  issue (.ldx d a o sz n) s fun s id g =>
    match strongRead s id g .load (strongBytes sz) (strongLanes s id g n a) with
    | .error t => t
    | .ok (s1, l) => retire (writeDst s1 id g g.pre (dstOpnd d (strongWid sz)) (l.map (·.1)) (laneBytes l)) id

/-- STX (12 R267): every lane is translated before any is written. -/
def execStx (d a : BitVec 7) (o : BitVec 5) (sz : BitVec 2) (n : BitVec 3) (s : State) : Host.Outcome State Fault Refusal :=
  issue (.stx d a o sz n) s fun s id g =>
    let k := strongBytes sz
    let vas := strongLanes s id g n a
    match strongCheck s id g k vas with
    | some t => t
    | none =>
      let (fails, oks) := splitLanes vas fun e => storeLane s id g e.2
      if !fails.isEmpty then failTrap s id g fails
      else retire (storeLanes (touchStores s id g vas) k oks
        (fun l => srcOf s id g g.pre (srcOpnd .d d (strongWid sz)) l)) id

/-- The monitored line of an address: its kind and line number in the place that the read reached; a line elsewhere has no number of
this device. -/
def lineOf (s : State) (id : GroupId) (g : Group) (va : VAddr) : Nat × Nat :=
  if isLocal s va then
    match translate s (unitOf id) g.part false g.mode .wait (vaKind va) (vaOff va) with
    | .ok p => (normKind p.kind, p.off / 64)
    | .error _ => (9, 0)
  else (9, 0)

/-- When WTO ends the sleep (12 Table 13). -/
def wtoEnd (s : State) (id : GroupId) (g : Group) : Option Nat :=
  if g.wto = 0 then none else some (groupClk s id + 64 * g.wto.toNat)

/-- Whether the sleep of a WAITL is over (12 R272). -/
def lineOver (s : State) (id : GroupId) (woken : Bool) (limit latest : Option Nat) : Bool :=
  woken || (match limit with | some c => decide (c ≤ groupClk s id) | none => false) ||
    (match latest with | some t => decide (t ≤ s.time) | none => false)

/-- When the sleep of a WAITL ends at the latest: 4 µs for a lane in kind 2, kind 3 or on another device (12 R272). -/
def farEnd (s : State) (vas : List VAddr) : Option Nat :=
  if vas.any fun va => !isLocal s va || vaKind va == 2 || vaKind va == 3 then some (s.time + 4000) else none

/-- WAITL (12 R272). -/
def execWaitl (d a : BitVec 7) (o : BitVec 5) (sz : BitVec 1) (n : BitVec 3) (s : State) : Host.Outcome State Fault Refusal :=
  issue (.waitl d a o sz n) s fun s id g =>
    let k := if sz = 0#1 then 4 else 8
    let w := codeWid (sz == 1#1)
    let vas := strongLanes s id g n a
    let asleep : Bool := match g.wait with | .line _ woken limit latest => !lineOver s id woken limit latest | _ => false
    let second : Bool := match g.wait with | .line .. => true | _ => false
    if asleep then s
    else match strongRead s id g .wait k vas with
      | .error t => t
      | .ok (s1, l) =>
        let differs := l.any fun e => laneBytes l e.1 != (srcOf s id g g.pre (bothOpnd d w) e.1) &&& BitVec.ofNat 128 (2 ^ (8 * k) - 1)
        if second || differs then retire (writeDst s1 id g g.pre (dstOpnd d w) (l.map (·.1)) (laneBytes l)) id
        else waitIn s1 id (.line (vas.map fun e => lineOf s id g e.2) false (wtoEnd s id g) (farEnd s (vas.map (·.2))))

end Sys2Proof.Machine
end

