-- ==== Sys2Proof/Machine/Atomic.lean ====
section
/-! DEFINITION. Atomics and the tellers that serve them (12 R269 to R271). -/
namespace Sys2Proof.Machine

/-- The value that an atomic leaves (12 Table 11): m the old value, v the operand, c the compare value, on 64 or 32 bits. -/
def atomicNew (op : AtOp) (wide : Bool) (m v c : Dword) : Dword :=
  let m32 : Word := m.setWidth 32
  let v32 : Word := v.setWidth 32
  match op with
  | .add => if wide then m + v else (m32 + v32).setWidth 64
  | .smin => if wide then (if m.slt v then m else v) else (if m32.slt v32 then m32 else v32).setWidth 64
  | .smax => if wide then (if m.slt v then v else m) else (if m32.slt v32 then v32 else m32).setWidth 64
  | .nmin => if wide then (if m.ult v then m else v) else (if m32.ult v32 then m32 else v32).setWidth 64
  | .nmax => if wide then (if m.ult v then v else m) else (if m32.ult v32 then v32 else m32).setWidth 64
  | .and => if wide then m &&& v else (m32 &&& v32).setWidth 64
  | .or => if wide then m ||| v else (m32 ||| v32).setWidth 64
  | .xor => if wide then m ^^^ v else (m32 ^^^ v32).setWidth 64
  | .xch => if wide then v else v32.setWidth 64
  | .cas => if wide then (if m = c then v else m) else (if m32 = c.setWidth 32 then v32 else m32).setWidth 64
  | .fadd =>
    BitVec.ofNat 64 (roundF fp32 0 false 0 false (addV (decodeF fp32 m32.toNat) (decodeF fp32 v32.toNat)).1).1
  | .badd2 =>
    let e := fun (j : Nat) =>
      (roundF bf16 0 false 0 false
        (addV (decodeF bf16 (m32.toNat / 2 ^ (16 * j) % 2 ^ 16)) (decodeF bf16 (v32.toNat / 2 ^ (16 * j) % 2 ^ 16))).1).1
    BitVec.ofNat 64 (e 0 + e 1 * 2 ^ 16)

/-- Home (12 R269): the cluster whose teller serves an address. -/
def homeOf (kind off : Nat) : Nat :=
  let b : BitVec 48 := BitVec.ofNat 48 off
  (b.extractLsb' 6 7 ^^^ b.extractLsb' 13 7 ^^^ b.extractLsb' 20 7 ^^^ b.extractLsb' 27 7 ^^^ b.extractLsb' 34 7 ^^^
    b.extractLsb' 41 7 ^^^ BitVec.ofNat 7 kind).toNat

/-- The bytes of an atomic. -/
def atomicBytes (wide : Bool) : Nat := if wide then 8 else 4

/-- A teller's answer (12 R271): the old value, or the reason why the target cannot hold atomics. -/
def atomicRefused (s : State) (r : TellerReq) : Option Cause :=
  if r.shadowed then some .prot
  else if r.kind = 1 then
    (match regionOf r.phys with
     | .pinned _ _ => if (poisonIn s r.kind r.phys (atomicBytes r.wide)).isSome then some .ecc else none
     | _ => some .prot)
  else if (poisonIn s r.kind r.phys (atomicBytes r.wide)).isSome then some .ecc
  else none

/-- A teller performs one request indivisibly: the state after it, and the old value or the refusal (12 R269, R271). -/
def serveAtomic (s : State) (r : TellerReq) : State × Except Cause Dword :=
  match atomicRefused s r with
  | some c => (linkError s r.kind r.phys, .error c)
  | none =>
    let n := atomicBytes r.wide
    let m := BitVec.ofNat 64 (leNat (readMem s r.kind r.phys n))
    (writeMem s r.kind r.phys (leBytes n (atomicNew r.op r.wide m r.val r.cmp).toNat), .ok m)

/-- The answer of a lane as the group keeps it: performed with the old value; or failed, with the trap's cause in bits 7 to 0 and
ATCAUSE in bits 15 to 8, bit 16 saying that ATCAUSE is written. -/
def answerOf (r : Except Cause Dword) : Bool × Dword :=
  match r with
  | .ok m => (true, m)
  | .error c => (false, Cause.atmf.code.setWidth 64 ||| (c.code.setWidth 64 <<< 8) ||| 0x10000#64)

/-- A lane's answer for a failure found in translation: the cause alone. -/
def transAnswer (c : Cause) : Bool × Dword := (false, c.code.setWidth 64)

/-- Keep an answer in the requesting lane's return slot (12 R269). -/
def giveAnswer (s : State) (id : GroupId) (lane : Nat) (a : Bool × Dword) : State :=
  s.modGroup id fun g => match g.wait with
    | .atomic l => { g with wait := .atomic (l ++ [(lane, a.1, a.2)]) }
    | _ => g

/-- A lane's request reaches its teller: served at once when nothing is queued before it, else queued (log 17). -/
def sendAtomic (s : State) (id : GroupId) (lane : Nat) (r : TellerReq) : State :=
  let h := homeOf r.kind r.phys
  if (s.cluster h).teller.isEmpty then
    let (s1, a) := serveAtomic s r
    giveAnswer s1 id lane (answerOf a)
  else s.modCluster h fun c => { c with teller := c.teller ++ [r] }

/-- One pending lane of an atomic: translated in the state s0, in which every lane is before any is sent, with the grant of a writing access,
refused or sent to its teller. The on-chip windows that only LD and ST may not reach (03 R52) translate for it, and its teller refuses them
(12 R271). A request to another device travels there and its answer is that device's (12 R270, R60), a fresh one for each lane, but where no
port reaches it the access faults here (15 R325). -/
def startLane (s0 s : State) (id : GroupId) (g : Group) (op : AtOp) (wide : Bool) (lane : Nat) (va : VAddr) (v c : Dword) : State :=
  if isLocal s va then
    match translate s0 (unitOf id) g.part true g.mode .store (vaKind va) (vaOff va) with
    | .error e => giveAnswer s id lane (transAnswer e)
    | .ok p =>
      sendAtomic (tlbTouch s (unitOf id) g.part g.mode .store (vaKind va) (vaOff va)) id lane
        ⟨.lane id lane, op, wide, p.kind, p.off, p.shd, g.part, v, c, s.qepoch⟩
  else if !reachable s (vaDev va) then giveAnswer s id lane (transAnswer .prot)
  else
    let f := if vaKind va = 4 then some Cause.prot else remoteFaultOf s va
    match f with
    | some e => giveAnswer s id lane (false, e.code.setWidth 64 ||| 0x10000#64)
    | none =>
      let m := BitVec.ofNat 64 (leNat ((List.range (atomicBytes wide)).map (Config.remoteByte s.fresh va)))
      giveAnswer { s with sent := s.sent ++ [.atomic va op wide v c], fresh := s.fresh + 1 } id lane
        (match remotePoison s va with
         | some _ => (false, Cause.ecc.code.setWidth 64 ||| 0x10000#64)
         | none => (true, m))

/-- Every pending lane is answered: results are written, done lanes counted, and the lowest failed lane traps (12 R270). -/
def finishAtomic (s : State) (id : GroupId) (g : Group) (o : Opnd) (vas : List (Nat × VAddr)) (answers : List (Nat × Bool × Dword)) :
    State :=
  let got := fun l => answers.find? (fun e => e.1 == l)
  let done := vas.filterMap fun e => match got e.1 with | some (l, true, _) => some l | _ => none
  let fails := vas.filterMap fun e => match got e.1 with | some (_, false, v) => some (e, v) | _ => none
  let s1 := writeDst s id g g.pre o done fun l => match got l with | some (_, _, v) => v.setWidth 128 | none => 0
  match fails with
  | [] => retire s1 id
  | (e, v) :: _ =>
    let s2 := (markDone s1 id done).modGroup id fun x =>
      if v.getLsbD 16 then { x with atcause := v.extractLsb' 8 8 } else x
    laneTrap s2 id g (causeOf (v.extractLsb' 0 8)) (e :: (fails.drop 1).map (·.1))

/-- The shared entry of the atomics (12 R270): checks, requests in ascending lane order, and the end once all are answered. -/
def atomicBody (op : AtOp) (d a b : BitVec 7) (n : BitVec 3) (wide : Bool) (s : State) (id : GroupId) (g : Group) : State :=
  let w := codeWid wide
  let vas := strongLanes s id g n a
  match g.wait with
  | .atomic l => if l.length = vas.length then finishAtomic s id g (dstOpnd d w) vas l else s
  | _ =>
    match strongCheck s id g (atomicBytes wide) vas with
    | some t => t
    | none =>
      let s1 := vas.foldl (fun s' e => startLane s s' id g op wide e.1 e.2
        (src64 s id g g.pre (srcOpnd .b b w) e.1) (src64 s id g g.pre (bothOpnd d w) e.1)) (waitIn s id (.atomic []))
      match (s1.group? id).map Group.wait with
      | some (.atomic l) => if l.length = vas.length then finishAtomic s1 id g (dstOpnd d w) vas l else s1
      | _ => s1

/-- ATADD (12 Table 11). -/
def execAtadd (d a b : BitVec 7) (n : BitVec 3) (w : BitVec 1) (s : State) : Host.Outcome State Fault Refusal :=
  issue (.atadd d a b n w) s (atomicBody .add d a b n (w == 1#1))

/-- ATSMIN (12 Table 11). -/
def execAtsmin (d a b : BitVec 7) (n : BitVec 3) (w : BitVec 1) (s : State) : Host.Outcome State Fault Refusal :=
  issue (.atsmin d a b n w) s (atomicBody .smin d a b n (w == 1#1))

/-- ATSMAX (12 Table 11). -/
def execAtsmax (d a b : BitVec 7) (n : BitVec 3) (w : BitVec 1) (s : State) : Host.Outcome State Fault Refusal :=
  issue (.atsmax d a b n w) s (atomicBody .smax d a b n (w == 1#1))

/-- ATNMIN (12 Table 11). -/
def execAtnmin (d a b : BitVec 7) (n : BitVec 3) (w : BitVec 1) (s : State) : Host.Outcome State Fault Refusal :=
  issue (.atnmin d a b n w) s (atomicBody .nmin d a b n (w == 1#1))

/-- ATNMAX (12 Table 11). -/
def execAtnmax (d a b : BitVec 7) (n : BitVec 3) (w : BitVec 1) (s : State) : Host.Outcome State Fault Refusal :=
  issue (.atnmax d a b n w) s (atomicBody .nmax d a b n (w == 1#1))

/-- ATAND (12 Table 11). -/
def execAtand (d a b : BitVec 7) (n : BitVec 3) (w : BitVec 1) (s : State) : Host.Outcome State Fault Refusal :=
  issue (.atand d a b n w) s (atomicBody .and d a b n (w == 1#1))

/-- ATOR (12 Table 11). -/
def execAtor (d a b : BitVec 7) (n : BitVec 3) (w : BitVec 1) (s : State) : Host.Outcome State Fault Refusal :=
  issue (.ator d a b n w) s (atomicBody .or d a b n (w == 1#1))

/-- ATXOR (12 Table 11). -/
def execAtxor (d a b : BitVec 7) (n : BitVec 3) (w : BitVec 1) (s : State) : Host.Outcome State Fault Refusal :=
  issue (.atxor d a b n w) s (atomicBody .xor d a b n (w == 1#1))

/-- ATXCH (12 Table 11). -/
def execAtxch (d a b : BitVec 7) (n : BitVec 3) (w : BitVec 1) (s : State) : Host.Outcome State Fault Refusal :=
  issue (.atxch d a b n w) s (atomicBody .xch d a b n (w == 1#1))

/-- ATCAS (12 Table 11): the compare value is d. -/
def execAtcas (d a b : BitVec 7) (n : BitVec 3) (w : BitVec 1) (s : State) : Host.Outcome State Fault Refusal :=
  issue (.atcas d a b n w) s (atomicBody .cas d a b n (w == 1#1))

/-- ATFADD (12 Table 11). -/
def execAtfadd (d a b : BitVec 7) (n : BitVec 3) (s : State) : Host.Outcome State Fault Refusal :=
  issue (.atfadd d a b n) s (atomicBody .fadd d a b n false)

/-- ATBADD2 (12 Table 11). -/
def execAtbadd2 (d a b : BitVec 7) (n : BitVec 3) (s : State) : Host.Outcome State Fault Refusal :=
  issue (.atbadd2 d a b n) s (atomicBody .badd2 d a b n false)

/-- The answer of a teller leaves for the one who asked (12 R269). -/
def deliverAnswer (s : State) (r : TellerReq) (a : Except Cause Dword) : State :=
  match r.asker with
  | .lane g l => giveAnswer s g l (answerOf a)
  | .host =>
    { s with sent := s.sent ++ [match a with
      | .ok m => .hostReply (leBytes (atomicBytes r.wide) m.toNat)
      | .error _ => .hostPoison] }
  | .peer d =>
    { s with sent := s.sent ++ [match a with
      | .ok m => .reply d (leBytes (atomicBytes r.wide) m.toNat)
      | .error c => .refusal d c.code] }

/-- TELLER_SERVE (12 R269): the oldest request of a cluster's teller is performed and answered; an empty queue leaves nothing
to do. -/
def execTellerServe (cluster : Nat) (s : State) : Host.Outcome State Fault Refusal :=
  match (s.cluster cluster).teller with
  | [] => .next s
  | r :: rest =>
    let (s1, a) := serveAtomic (s.modCluster cluster fun c => { c with teller := rest }) r
    .next (deliverAnswer s1 r a)

end Sys2Proof.Machine
end

