-- ==== Sys2Proof/Machine/Sync.lean ====
section
/-! DEFINITION. Order between parties: keys (12 R261 to R263), shadow pairs and their publishing (12 R264 to R266), FENCE (12 R274), and
barriers (12 R275 to R278). -/
namespace Sys2Proof.Machine

/-- A key that nothing has bound since partition start. -/
def Key.unbound : Key := ⟨false, 0, 0, 0, 0⟩

/-- A key of the device. -/
def State.key (s : State) (k : Nat) : Key := (tabGet s.keys k).getD Key.unbound

/-- Change a key. -/
def State.modKey (s : State) (k : Nat) (f : Key → Key) : State := { s with keys := tabSet s.keys k (f (s.key k)) }

/-- A CSR-operation row acts for the group that accesses the CSR; an access that the group's mode cannot make reaches no
register (13 R280). -/
def csrUnit (n : Nat) (f : State → GroupId → Group → State) (s : State) : Host.Outcome State Fault Refusal :=
  match s.group? s.cur with
  | none => .next s
  | some g => .next (if csrReach g.mode n && csrAssigned (isSeq s.cur) n then f s s.cur g else s)

/-- The binding of the selected key (12 R261): a KIND beyond 1 and a key beyond the range discard the write. -/
def bindKey (v : Dword) (s : State) (_ : GroupId) (g : Group) : State :=
  let p := s.part g.part
  let kind : BitVec 3 := v.extractLsb' 48 3
  if kind.toNat > 1 || decide (p.kN.toNat ≤ g.ksel.toNat) then s
  else s.modKey (p.kLo.toNat + g.ksel.toNat) fun k =>
    { k with v := v.getLsbD 63, kind := kind, base := (v.extractLsb' 6 42 ++ 0#6), lines := g.klen }

/-- KBASE_WRITE (12 R261). -/
def execKbaseWrite (v : BitVec 64) (s : State) : Host.Outcome State Fault Refusal := csrUnit 0x1C9 (bindKey v) s

/-- The key that KACQ and KREL name, if the partition has it and it is bound (12 R263). -/
def keyNamed (s : State) (g : Group) (k : Int) : Option Nat :=
  let p := s.part g.part
  if 0 ≤ k ∧ k < p.kN.toNat then
    (if (s.key (p.kLo.toNat + k.toNat)).v then some (p.kLo.toNat + k.toNat) else none)
  else none

/-- KACQ and KREL (12 R263): the generation after the action is read. -/
def keyAction (rel : Bool) (d a : BitVec 7) (i : BitVec 11) (s : State) (id : GroupId) (g : Group) : State :=
  let k := (scalarOf s g a 1).toInt + immOf g.pre i
  match keyNamed s g k with
  | none => raiseAll s id g .prot (BitVec.ofInt 64 k)
  | some n =>
    let s1 := if rel then s.modKey n fun x => { x with gen := x.gen + 1 } else s
    retire (statusDst s1 id g d ((s1.key n).gen.setWidth 32)) id

/-- KACQ (12 R263): every write is performed when it is made in this model (log 3), so the acquire finds them all. -/
def execKacq (d a : BitVec 7) (i : BitVec 11) (s : State) : Host.Outcome State Fault Refusal :=
  issue (.kacq d a i) s (keyAction false d a i)

/-- KREL (12 R263). -/
def execKrel (d a : BitVec 7) (i : BitVec 11) (s : State) : Host.Outcome State Fault Refusal :=
  issue (.krel d a i) s (keyAction true d a i)

/-- The binary logarithm of a page of a size code (12 Table 8, 03 Table 12). -/
def sizeLog (z : BitVec 2) : Nat := if z = 0#2 then 16 else if z = 1#2 then 21 else 30

/-- SHDCTL (12 Table 8): add or remove a pair; STATUS 0 OK, 1 FULL, 2 BUSY, 3 BAD. -/
def shadowControl (op : BitVec 2) (v : Dword) (s : State) (_ : GroupId) (g : Group) : State :=
  let z : BitVec 2 := v.extractLsb' 60 2
  let lower := (v.extractLsb' 16 32).toNat * 2 ^ 16
  let kind := (v.extractLsb' 57 3).toNat
  let status := fun (n : BitVec 3) (s : State) => s.modPart g.part fun p => { p with shdStatus := n }
  if (op != 1#2 && op != 2#2) || z == 3#2 || lower % 2 ^ (sizeLog z + 1) != 0 then status 3 s
  else
    match findPair s g.part kind (sizeLog z) lower, op == 1#2 with
    | some _, true => status 2 s
    | none, false => status 2 s
    | none, true =>
      if 4096 ≤ s.pairs.length then status 1 s
      else status 0 { s with pairs := s.pairs ++ [⟨g.part, kind, sizeLog z, lower, false⟩] }
    | some q, false => status 0 { s with pairs := s.pairs.filter (· != q) }

/-- SHDCTL_ADD (12 R264). -/
def execShdctlAdd (v : BitVec 64) (s : State) : Host.Outcome State Fault Refusal := csrUnit 0x1CB (shadowControl 1#2 v) s

/-- SHDCTL_REMOVE (12 R264). -/
def execShdctlRemove (v : BitVec 64) (s : State) : Host.Outcome State Fault Refusal := csrUnit 0x1CB (shadowControl 2#2 v) s

/-- FENCE fn 0 (12 R274): this model performs every access when it is made, so the order it asks for always holds (log 3). -/
def execFence (o : BitVec 5) (s : State) : Host.Outcome State Fault Refusal :=
  issue (.fence o) s fun s id _ => retire s id

/-- The pair that holds an address, as FENCE.PUBB looks for it (12 R274). -/
def pubbPair (s : State) (id : GroupId) (g : Group) (va : VAddr) : Except Cause Pair :=
  if !isLocal s va then .error .prot
  else match translate s (unitOf id) g.part false g.mode .store (vaKind va) (vaOff va) with
    | .error c => .error c
    | .ok p =>
      if !p.shd then .error .prot
      else match stage1 s (s.part g.part) (vaKind va) (vaOff va) with
        | .error c => .error c
        | .ok l => match findPair s g.part (vaKind va) l.logSize l.base with
          | some q => .ok q
          | none => .error .prot

/-- Every sleeping WAITL may wake when pairs are inverted: R273 allows a wake without a change. -/
def wakeSleepers (s : State) : State :=
  { s with groups := s.groups.map fun e => match e.2.wait with
      | .line l false u t => (e.1, { e.2 with wait := .line l true u t })
      | _ => e }

/-- FENCE.PUBB (12 R266, R274): every lane is checked before any pair changes; each distinct pair is inverted once. -/
def execFencePubb (a : BitVec 7) (o : BitVec 5) (n : BitVec 3) (s : State) : Host.Outcome State Fault Refusal :=
  issue (.fencePubb a o n) s fun s id g =>
    let vas := g.active.map fun l => (l, laneVa s id g n a 0 l)
    let (fails, oks) := splitLanes vas fun e => pubbPair s id g e.2
    if !fails.isEmpty then failTrap (s.modGroup id fun x => { x with dm := 0 }) id g fails
    else
      let named := oks.map fun e => e.2.2
      let s1 := { s with pairs := s.pairs.map fun q => if named.contains q then { q with front := !q.front } else q }
      retire (if named.isEmpty then s1 else wakeSleepers s1) id

/-- Whether a team's launch makes a group a member of a barrier: 0 to 15 team, 16 to 23 cluster, 24 to 27 grid (12 R275). -/
def memberOf (t : Team) (g : Group) (i : Nat) : Bool :=
  if i < 16 then (storeGet t.tbar i).getLsbD g.gid
  else if i < 24 then t.cbar.getLsbD (i - 16)
  else t.gbar.getLsbD (i - 24)

/-- Where a barrier belongs: a team, a cluster, or a partition (12 R275). -/
def barScope (team : Nat) (t : Team) (i : Nat) : Nat := if i < 16 then team else if i < 24 then t.core / 2 else t.part

/-- A group is a member of the barrier i of a scope. -/
def isMember (s : State) (g : Group) (i scope : Nat) : Bool :=
  match s.team? g.team with
  | some t => memberOf t g i && barScope g.team t i == scope
  | none => false

/-- The groups of a saved team that stay members (12 R275). -/
def imageMember (im : Image) (g : Group) (i scope : Nat) : Bool :=
  im.live && decide (16 ≤ i) && memberOf im.team g i && barScope 0 im.team i == scope

/-- The ARR flags of all members. -/
def memberArr (s : State) (i scope : Nat) : List Bool :=
  (s.groups.filter (fun e => isMember s e.2 i scope)).map (fun e => e.2.arr.getLsbD i) ++
  s.images.flatMap fun im => (im.groups.filter (fun e => imageMember im e.2 i scope)).map fun e => e.2.arr.getLsbD i

/-- PH of a barrier (12 R277). -/
def phaseOf (s : State) (i scope : Nat) : Word :=
  if i < 16 then (match s.team? scope with | some t => storeGet t.ph i | none => 0)
  else if i < 24 then storeGet (s.cluster scope).ph (i - 16)
  else storeGet (s.part scope).ph (i - 24)

/-- Add one to PH. -/
def phaseNext (s : State) (i scope : Nat) : State :=
  let v := phaseOf s i scope + 1
  if i < 16 then s.modTeam scope fun t => { t with ph := storeSet t.ph i v }
  else if i < 24 then s.modCluster scope fun c => { c with ph := storeSet c.ph (i - 16) v }
  else s.modPart scope fun p => { p with ph := storeSet p.ph (i - 24) v }

/-- Bit i of a group's barrier flags. -/
def barBit (i : Nat) : BitVec 28 := 1#28 <<< i

/-- A member as the phase passes (12 R277). -/
def passFlags (g : Group) (i : Nat) : Group := { g with arr := g.arr &&& ~~~(barBit i), pass := g.pass ||| barBit i }

/-- Whether a team barrier's counter lets the phase pass (12 R277). -/
def bytesDone (s : State) (i scope : Nat) : Bool :=
  if i < 16 then (match s.team? scope with | some t => storeGet t.pb i == 0 | none => false) else true

/-- Evaluate a barrier: the phase passes when every member has arrived, and for a team barrier PB is zero (12 R277). -/
def barrierEval (s : State) (i scope : Nat) : State :=
  let m := memberArr s i scope
  if !m.isEmpty && m.all id && bytesDone s i scope then
    phaseNext
      { s with
        groups := s.groups.map fun e => if isMember s e.2 i scope then (e.1, passFlags e.2 i) else e,
        images := s.images.map fun im =>
          { im with groups := im.groups.map fun e => if imageMember im e.2 i scope then (e.1, passFlags e.2 i) else e } }
      i scope
  else s

/-- Add to the pending-byte counter of a team barrier, modulo 2^48, and evaluate the barrier (12 R276, R277). -/
def addBytes (s : State) (team n : Nat) (v : BitVec 48) : State :=
  barrierEval (s.modTeam team fun t => { t with pb := storeSet t.pb n (storeGet t.pb n + v) }) n team

/-- Lower the pending bytes of a team barrier in a saved image: its phase passes there when every member has arrived and the bytes are zero
(04 R93, 12 R277). -/
def imageBytesDone (im : Image) (n : Nat) (v : BitVec 48) : Image :=
  let t := { im.team with pb := storeSet im.team.pb n (storeGet im.team.pb n - v) }
  let mem := fun (e : Nat × Group) => memberOf t e.2 n
  if (im.groups.any mem) && (im.groups.filter mem).all (fun e => e.2.arr.getLsbD n) && storeGet t.pb n == 0 then
    { im with team := { t with ph := storeSet t.ph n (storeGet t.ph n + 1) },
              groups := im.groups.map fun e => if mem e then (e.1, passFlags e.2 n) else e }
  else { im with team := t }

/-- A write of PBADD (12 Table 14). -/
def pendingAdd (v : Dword) (s : State) (_ : GroupId) (g : Group) : State :=
  addBytes s g.team (v.extractLsb' 48 4).toNat (v.extractLsb' 0 48)

/-- PBADD (12 R276). -/
def execPbadd (v : BitVec 64) (s : State) : Host.Outcome State Fault Refusal := csrUnit 0x00C (pendingAdd v) s

/-- The number of a barrier's flags from its level and number (12 R278). -/
def barIndex (v : BitVec 2) (n : BitVec 4) : Nat := if v = 0#2 then n.toNat else if v = 1#2 then 16 + n.toNat else 24 + n.toNat

/-- The count that a LIT before BAR asserts (12 R278). -/
def barCount (p : Pre) : Nat := match p.lit with | some l => l.toNat | none => 0

/-- The end of a BAR whose phase has passed: PASS is consumed and PH read. -/
def barDone (s : State) (id : GroupId) (g : Group) (d : BitVec 7) (i scope : Nat) : State :=
  retire (statusDst (s.modGroup id fun x => { x with pass := x.pass &&& ~~~(barBit i) }) id g d (phaseOf s i scope)) id

/-- BAR (12 R278): its check is made once, and one that waits consumes PASS whoever has joined or left meanwhile. -/
def barrier (d : BitVec 7) (v : BitVec 2) (n : BitVec 4) (s : State) (id : GroupId) (g : Group) : State :=
  let i := barIndex v n
  match s.team? g.team with
  | none => retire s id
  | some t =>
    let scope := barScope g.team t i
    let members := (memberArr s i scope).length
    let p := barCount g.pre
    let non := !memberOf t g i
    if g.wait != .barrier i && (non || (p != 0 && p != members)) then
      raiseAll s id g .barm (BitVec.ofNat 64 ((if non then 2 ^ 63 else 0) + members * 2 ^ 32 + p))
    else if g.pass.getLsbD i then barDone s id g d i scope
    else
      let s1 := if g.arr.getLsbD i then s else barrierEval (s.modGroup id fun x => { x with arr := x.arr ||| barBit i }) i scope
      match s1.group? id with
      | some g1 => if g1.pass.getLsbD i then barDone s1 id g1 d i scope else waitIn s1 id (.barrier i)
      | none => s1

/-- BAR (12 R278). -/
def execBar (d : BitVec 7) (v : BitVec 2) (n : BitVec 4) (s : State) : Host.Outcome State Fault Refusal :=
  issue (.bar d v n) s (barrier d v n)

/-- WAITL_WAKE (12 R272): the sleep of a group's WAITL ends. -/
def execWaitlWake (n : Nat) (s : State) : Host.Outcome State Fault Refusal :=
  .next (s.modGroup n fun g => match g.wait with
    | .line l false u t => { g with wait := .line l true u t }
    | _ => g)

end Sys2Proof.Machine
end

