-- ==== Sys2Proof/Machine/Units.lean ====
section
/-! DEFINITION. What units do for a partition: accesses to memory in the mode of 03 R358, and the event table with the actions of events
that reach zero (10 R220, R221, R224 to R228). -/
namespace Sys2Proof.Machine

/-- A byte range cut where its offset passes a multiple of 64 KiB, the smallest page: each piece with its place in the range. -/
def pagePieces : Nat → VAddr → Nat → Nat → List (VAddr × Nat × Nat)
  | 0, _, _, _ => []
  | _, _, _, 0 => []
  | fuel + 1, va, at_, n =>
    let k := min n (65536 - vaOff va % 65536)
    (va, at_, k) :: pagePieces fuel (vaAdd va k) (at_ + k) (n - k)

/-- The pieces of a range. -/
def piecesOf (va : VAddr) (n : Nat) : List (VAddr × Nat × Nat) := pagePieces (n / 65536 + 2) va 0 n

/-- The bytes of a physical range, uncorrectable ones as zero, and the first of these (04 R89). -/
def readClean (s : State) (kind off n : Nat) : List Byte × Option Nat :=
  if s.poison.isEmpty && kind != 3 then (readMem s kind off n, none)
  else
    ((List.range n).map fun i => if poisonedAt s kind (off + i) then 0 else memByte s kind (off + i),
     (List.range n).find? fun i => poisonedAt s kind (off + i))

/-- Read one piece for a unit: its bytes, and the place in it of the first uncorrectable byte. -/
def readPiece (s : State) (part : Nat) (engine : Bool) (mode : Mode) (va : VAddr) (n : Nat) :
    Except Cause (List Byte × Option Nat) :=
  if isLocal s va then
    match translate s 384 part engine mode .load (vaKind va) (vaOff va) with
    | .error c => .error c
    | .ok p => .ok (readClean s p.kind p.off n)
  else match remoteFaultOf s va with
    | some c => .error c
    | none =>
      if Config.remoteFault s.fresh va = Cause.ecc.code then .ok (List.replicate n 0, some 0)
      else .ok ((List.range n).map (Config.remoteByte s.fresh va), none)

/-- Read bytes for a unit (03 R358): the bytes and the address of the first uncorrectable one, or the cause and the address of the
first byte that fails a check. -/
def unitRead (s : State) (part : Nat) (engine : Bool) (mode : Mode) (va : VAddr) (n : Nat) :
    Except (Cause × VAddr) (List Byte × Option VAddr) :=
  (piecesOf va n).foldl (fun acc e =>
    match acc with
    | .error x => .error x
    | .ok (l, bad) =>
      match readPiece s part engine mode e.1 e.2.2 with
      | .error c => .error (c, e.1)
      | .ok (b, p) => .ok (l ++ b, bad.orElse fun _ => p.map fun (i : Nat) => vaAdd e.1 i)) (.ok ([], none))

/-- Write one piece for a unit. -/
def writePiece (s : State) (part : Nat) (engine : Bool) (mode : Mode) (va : VAddr) (l : List Byte) : Except Cause State :=
  if isLocal s va then
    match translate s 384 part engine mode .store (vaKind va) (vaOff va) with
    | .error c => .error c
    | .ok p => .ok (writeMem s p.kind p.off l)
  else if vaKind va = 4 then .error .prot
  else match remoteFaultOf s va with
    | some c => .error c
    | none => .ok { s with sent := s.sent ++ [.write va l] }

/-- Write bytes for a unit, piece by piece, up to the first byte that fails a check. -/
def unitWrite (s : State) (part : Nat) (engine : Bool) (mode : Mode) (va : VAddr) (l : List Byte) : State × Option (Cause × VAddr) :=
  (piecesOf va l.length).foldl (fun acc e =>
    match acc.2 with
    | some _ => acc
    | none =>
      match writePiece acc.1 part engine mode e.1 ((l.drop e.2.1).take e.2.2) with
      | .ok s' => (s', none)
      | .error c => (acc.1, some (c, e.1))) (s, none)

/-- Whether an address lies in this device's pool while the link to it is down, so that every access to it is an uncorrectable error
(15 R327). -/
def linkDown (s : State) (va : VAddr) : Bool := isLocal s va && vaKind va == 3 && !s.cxlUp

/-- What a unit's read leaves in the strongbox while the link is down (15 R327, R331). -/
def linkNote (s : State) (part : Nat) (engine : Bool) (mode : Mode) (va : VAddr) : State :=
  if linkDown s va then
    (match translate s 384 part engine mode .load 3 (vaOff va) with
     | .ok p => linkError s p.kind p.off
     | .error _ => s)
  else s

/-- A read of a table, record or word of kind 0 on this device, in S mode of a partition (03 R358). One that meets uncorrectable data
fails as one that fails a check does (log 55). -/
def tableRead (s : State) (part off n : Nat) : Option (List Byte) :=
  match unitRead s part false .s (mkVa s.devNum.toNat 0 off) n with
  | .ok (l, none) => some l
  | _ => none

/-- A write of kind 0 on this device in S mode; none where it fails a check. -/
def tableWrite (s : State) (part off : Nat) (l : List Byte) : Option State :=
  match unitWrite s part false .s (mkVa s.devNum.toNat 0 off) l with
  | (s', none) => some s'
  | (_, some _) => none

/-- The fields of an event handle (10 R224). -/
def handleDev (h : Word) : Nat := (h.extractLsb' 19 13).toNat
def handleIdx (h : Word) : Nat := (h.extractLsb' 3 16).toNat
def handleCls (h : Word) : Nat := (h.extractLsb' 0 3).toNat
/-- The handle of an event of this device. -/
def handleOf (s : State) (idx cls : Nat) : Word := BitVec.ofNat 32 (s.devNum.toNat * 2 ^ 19 + idx * 8 + cls)

/-- The named events of a partition (10 R227). -/
def evtNamed (p : Partition) (i : Nat) : Bool :=
  decide (p.evLo.toNat ≤ i ∧ i < p.evLo.toNat + (p.evN.toNat - p.evDpn.toNat))
/-- The dispatcher's pool of a partition (10 R227). -/
def evtPool (p : Partition) (i : Nat) : Bool :=
  decide (p.evLo.toNat + (p.evN.toNat - p.evDpn.toNat) ≤ i ∧ i < p.evLo.toNat + p.evN.toNat)

/-- Whether a partition is live (13 R306). -/
def State.isLive (s : State) (p : Nat) : Bool := s.live.getLsbD p

/-- The partition to which an index belongs (10 R227). -/
def evtPart (s : State) (i : Nat) : Option Nat :=
  (List.range 64).find? fun p => s.isLive p && (evtNamed (s.part p) i || evtPool (s.part p) i)

/-- Add to a 16-bit count that saturates. -/
def satInc (v : BitVec 16) : BitVec 16 := if v = 0xFFFF#16 then v else v + 1

/-- The record bound to a named event (10 R227): none while LBCFG.EN is clear, and where the entry cannot be read the second part is true. -/
def boundRecord (s : State) (part i : Nat) : Option (List Byte) × Bool :=
  let p := s.part part
  if !p.lbEn then (none, false)
  else match tableRead s part (p.lbBase.toNat + 32 * (i - p.evLo.toNat)) 32 with
    | some l => (some l, false)
    | none => (none, true)

/-- Count a binding that failed (10 R227). -/
def countBind (s : State) (part : Nat) : State := s.modPart part fun p => { p with bindf := satInc p.bindf }

/-- The class of an index of a partition and the state after its table has been read: 0 COUNT, 1 LAUNCH, 2 JOB, 3 DEP; a free pool
entry and an index outside the range have none. -/
def evtClass (s : State) (part i : Nat) : State × Option Nat :=
  let p := s.part part
  if evtNamed p i then
    match boundRecord s part i with
    | (some l, _) => (s, some (if leField l 0 2 = 0 then 0 else 1))
    | (none, failed) => (if failed then countBind s part else s, some 0)
  else if evtPool p i then
    (s, if p.jobs.any (fun j => j.depEvt == i) then some 3
        else if p.jobs.any (fun j => j.doneEvt == i) then some 2 else none)
  else (s, none)

/-- The job card of an index: its 32 bytes, if JCCFG is enabled, the index lies in the table and the entry can be read (10 R218). -/
def readCard (s : State) (part i : Nat) : Option (List Byte) :=
  let p := s.part part
  if p.jcEn && decide (i < 2 ^ p.jcLog.toNat) && i != 0xFFFF then tableRead s part (p.jcBase.toNat + 32 * i) 32 else none

/-- A job card is VALID (10 Table 11). -/
def cardValid (l : List Byte) : Bool := byteAt l 1 % 2 == 1

/-- A record with its FLAGS as 10 Table 18 gives them: UMODE from the card, and the bit of who posts it. -/
def recordFlags (l : List Byte) (card : List Byte) (bit : Nat) : BitVec 256 :=
  BitVec.ofNat 256 (leNat (l.take 2 ++ leBytes 2 (byteAt card 1 / 2 % 2 + bit) ++ (l.drop 4).take 28))

/-- A job becomes ready: it joins the queue of its partition (10 R220, R229). -/
def readyJob (s : State) (part i : Nat) : State :=
  s.modPart part fun p =>
    { p with
      jobs := p.jobs.map fun j => if j.depEvt == i && j.phase == 0 then { j with phase := 1 } else j,
      ready := p.ready ++ (p.jobs.filter (fun j => j.depEvt == i && j.phase == 0)).map fun j =>
        ⟨j.record, j.target, some (j.stream, j.seq, j.r, j.c, j.kk)⟩ }

/-- Lower a counter by n: a counter that would go below zero stays at zero and is counted in UNDF; the last part says whether the event
reaches zero (10 R224). -/
def lowerCounter (s : State) (part i n : Nat) : State × Bool :=
  let c := (storeGet s.events i).toNat
  let s1 := { s with events := storeSet s.events i (BitVec.ofNat 31 (c - n)) }
  (if c < n then s1.modPart part fun p => { p with undf := satInc p.undf } else s1, decide (0 < c ∧ c ≤ n))

/-- Jobs in the order in which they follow each other when they become ready together (10 R229): by stream, in the order of the streams'
RUNOPS, and then as their stream gives them. -/
def streamOrder (p : Partition) (js : List TileJob) : List TileJob :=
  js.filter (fun j => p.streams.all fun x => x.id != j.stream) ++ p.streams.flatMap fun x => js.filter fun j => j.stream == x.id

/-- A dependence is satisfied for every job that waits on it; a dependence count that reaches zero makes its job ready (10 R220, R224). -/
def satisfy (s : State) (part : Nat) (dep : Dep) (stream : Option Nat) : State :=
  ((streamOrder (s.part part) ((s.part part).jobs.filter fun j => j.deps.contains dep && (stream.map (· == j.stream)).getD true)).map
      fun j => (j.depEvt, (j.deps.filter (· == dep)).length)).foldl (fun s e =>
    let s1 := s.modPart part fun p =>
      { p with jobs := p.jobs.map fun j => if j.depEvt == e.1 then { j with deps := j.deps.filter (· != dep) } else j }
    let (s2, zero) := lowerCounter s1 part e.1 e.2
    if zero then readyJob s2 part e.1 else s2) s

/-- The action of a named event that reaches zero (10 R224, R227): waiting dependences are satisfied, and a LAUNCH event posts its
record. -/
def zeroNamed (s : State) (part i : Nat) : State :=
  let s1 := (satisfy s part (.event i) none).modPart part fun p =>
    { p with streams := p.streams.map fun x =>
        { x with waits := x.waits.filter (· != i), ops := x.ops.map fun o => { o with evs := o.evs.filter (· != i) } } }
  match boundRecord s1 part i with
  | (none, failed) => if failed then countBind s1 part else s1
  | (some l, _) =>
    let n := leField l 0 2
    if n = 0 then s1
    else match readCard s1 part n with
      | some card =>
        if cardValid card then
          s1.modPart part fun p => { p with ready := p.ready ++ [⟨recordFlags l card 2, byteAt card 0, none⟩] }
        else countBind s1 part
      | none => countBind s1 part

/-- Decrement a named event of a partition (10 R224). -/
def lowerNamed (s : State) (part i n : Nat) : State :=
  if n = 0 then s
  else
    let (s1, zero) := lowerCounter s part i n
    if zero then zeroNamed s1 part i else s1

/-- An operator of a stream is complete: FENCE dependences are satisfied, and the event that it signals is decremented (10 R221). -/
def finishOp (s : State) (part id : Nat) (o : OpRec) : State :=
  let s1 := s.modPart part fun p =>
    { p with streams := p.streams.map fun x =>
        if x.id == id then { x with ops := x.ops.map fun q => if q.seq == o.seq then { q with complete := true } else q } else x }
  let s2 := satisfy s1 part (.op o.seq) (some id)
  match o.sig with
  | some e => lowerNamed s2 part e 1
  | none => s2

/-- The SIG of a stream that can take effect: its earlier operators are all complete, and the events of earlier WAITs have reached zero
(10 Table 7). -/
def sigDue (x : Stream) : Option OpRec :=
  x.ops.find? fun o => o.after && !o.complete && o.evs.isEmpty && x.ops.all fun q => q.complete || decide (o.seq ≤ q.seq)

/-- SIGs that can take effect do so, one after another, in the order of their streams. -/
def runSigs (s : State) (part : Nat) : Nat → State
  | 0 => s
  | fuel + 1 =>
    match (s.part part).streams.findSome? fun x => (sigDue x).map fun o => (x.id, o) with
    | none => s
    | some (id, o) => runSigs (finishOp s part id o) part fuel

/-- Every SIG of a partition that can take effect does so; each does so once. -/
def settleSigs (s : State) (part : Nat) : State :=
  runSigs s part ((s.part part).streams.flatMap fun x => x.ops.filter fun o => o.after && !o.complete).length

/-- A job completes: its entries are freed, its dependents' counts are lowered, and its operator may complete (10 R221), after which SIGs may
follow. -/
def completeJob (s : State) (part : Nat) (j : TileJob) : State :=
  let s1 := s.modPart part fun p =>
    { p with
      jobs := p.jobs.filter (· != j), poolUsed := p.poolUsed.filter (fun i => i != j.depEvt && i != j.doneEvt),
      streams := p.streams.map fun x =>
        if x.id == j.stream then { x with ops := x.ops.map fun o => if o.seq == j.seq then { o with left := o.left - 1 } else o } else x }
  let s2 := satisfy s1 part (.job j.seq j.r j.c j.kk) (some j.stream)
  let s2 := { s2 with events := storeSet (storeSet s2.events j.depEvt 0) j.doneEvt 0 }
  match (s2.part part).streams.find? (fun x => x.id == j.stream) with
  | none => s2
  | some st =>
    match st.ops.find? (fun o => o.seq == j.seq) with
    | some o => if o.left == 0 && !o.complete then settleSigs (finishOp s2 part j.stream o) part else s2
    | none => s2

/-- The action of an event that reaches zero, by the place of its index (10 R224). -/
def reachZero (s : State) (part i : Nat) : State :=
  if evtNamed (s.part part) i then settleSigs (zeroNamed s part i) part
  else match (s.part part).jobs.find? (fun j => j.depEvt == i || j.doneEvt == i) with
    | some j => if j.doneEvt == i then completeJob s part j else readyJob s part i
    | none => s

/-- Decrement an event by n (10 R224, R225). -/
def decrement (s : State) (part i n : Nat) : State :=
  if n = 0 then s
  else
    let (s1, zero) := lowerCounter s part i n
    if zero then reachZero s1 part i else s1

/-- Set an event's counter (10 R224, R232). -/
def setCounter (s : State) (part i : Nat) (n : BitVec 31) : State :=
  let c := storeGet s.events i
  let s1 := { s with events := storeSet s.events i n }
  if c ≠ 0 ∧ n = 0 then reachZero s1 part i else s1

/-- The local partition in which a request of a partition of another device runs, while it is live (15 R326, 13 R306). -/
def boundPart (s : State) (dev part : Nat) : Option Nat :=
  if !s.pbEn then none
  else
    let off := s.pbBase.toNat + 64 * dev + part
    if hbmSize s ≤ off ∨ poisonedAt s 0 off then none
    else
      let b := memByte s 0 off
      if b.getLsbD 7 && s.isLive (b.extractLsb' 0 6).toNat then some (b.extractLsb' 0 6).toNat else none

/-- Count a refused decrement (10 R228). -/
def countRej (s : State) (part : Nat) : State := s.modPart part fun p => { p with rej := satInc p.rej }

/-- A decrement by one that a unit of this device makes for a partition (10 R228): checked against the partition's named range, or
sent to the device that the handle names. -/
def unitSignal (s : State) (part : Nat) (h : Word) : State :=
  if 4 ≤ handleCls h then countRej s part
  else if handleDev h ≠ s.devNum.toNat then
    (if reachable s (handleDev h) then { s with sent := s.sent ++ [.signal (handleDev h) h false 1] } else s)
  else if !evtNamed (s.part part) (handleIdx h) then countRej s part
  else match evtClass s part (handleIdx h) with
    | (s1, some c) => if c = handleCls h then decrement s1 part (handleIdx h) 1 else countRej s1 part
    | (s1, none) => countRej s1 part

end Sys2Proof.Machine
end

