-- ==== Sys2Proof/Machine/Ring.lean ====
section
/-! DEFINITION. Stage rings: their transitions (05 R106, R107), the refusals of a matrix job's rings (08 R183), and SPOP, SPOP.OPEN, SREL and
SREL.FREE (05 R109). -/
namespace Sys2Proof.Machine

/-- A team, resident or saved, as completions find it (04 R93). -/
inductive TeamRef
  | live (key : Nat)
  | saved (image : Nat)
  deriving DecidableEq, Repr

/-- The team behind a reference. -/
def refTeam (s : State) : TeamRef → Option Team
  | .live k => s.team? k
  | .saved i => (s.images[i]?).map (·.team)

/-- Change the team behind a reference. -/
def modRef (s : State) (r : TeamRef) (f : Team → Team) : State :=
  match r with
  | .live k => s.modTeam k f
  | .saved i => { s with images := s.images.modify i fun im => { im with team := f im.team } }

/-- The team with a number on a core; a paired team has its number on both cores (10 R208). -/
def teamOn (s : State) (core num : Nat) : Option Nat :=
  match s.team? (core * 32 + num) with
  | some _ => some (core * 32 + num)
  | none =>
    if core % 2 = 1 then
      (match s.team? ((core - 1) * 32 + num) with
       | some t => if t.paired then some ((core - 1) * 32 + num) else none
       | none => none)
    else none

/-- The reference to a team by its uid, wherever it is (04 R93). -/
def refOfTeam (s : State) (u : Nat) : Option TeamRef :=
  match s.teams.find? fun e => e.2.uid == u with
  | some e => some (.live e.1)
  | none => (s.images.findIdx? fun im => im.live && im.team.uid == u).map .saved

/-- The team bound to a copy queue of a core, by its uid (04 R76, R84): the one that was bound, wherever it is now, and where there is none any
more, the one with the number on the core (log 36). -/
def boundUid (s : State) (core : Nat) (x : CopyQueue) : Option Nat :=
  (x.bound.filter fun u => (refOfTeam s u).isSome).orElse fun _ => ((teamOn s core x.team.toNat).bind s.team?).map (·.uid)

/-- A resident group by its uid. -/
def groupOfUid (s : State) (u : Nat) : Option GroupId := (s.groups.find? fun e => e.2.uid == u).map (·.1)

/-- The team of a group by its uid: where the group is resident or saved. -/
def refOfUid (s : State) (u : Nat) : Option TeamRef :=
  match s.groups.find? fun e => e.2.uid == u with
  | some e => some (.live e.2.team)
  | none => (s.images.findIdx? fun im => im.live && im.groups.any (fun e => e.2.uid == u)).map .saved

/-- Change a group by its uid, wherever it is (04 R93). -/
def modUid (s : State) (u : Nat) (f : Group → Group) : State :=
  { s with
    groups := s.groups.map fun e => if e.2.uid == u then (e.1, f e.2) else e,
    images := s.images.map fun im => { im with groups := im.groups.map fun e => if e.2.uid == u then (e.1, f e.2) else e } }

/-- Lower the pending bytes of a team barrier, in the team or in its saved image, and evaluate the barrier there (04 R79, R93, 09 R198,
12 R277). -/
def refBytes (s : State) (r : TeamRef) (n : Nat) (v : BitVec 48) : State :=
  match r with
  | .live k => addBytes s k n (0 - v)
  | .saved i => { s with images := s.images.modify i fun im => imageBytesDone im n v }

/-- The place of a saved scratchpad byte in its image: half × 2^19 + offset in the allocation. -/
def imageAt (t : Team) (o : Nat) : Nat × Bool :=
  let (c, p, gap) := scratchLocate { t with sbase := 0 } t.core o
  ((c - t.core) * 2 ^ 19 + p, gap)

/-- Scratchpad bytes of a team, resident or saved (04 R76). -/
def refRead (s : State) (r : TeamRef) (o n : Nat) : List Byte :=
  match r with
  | .live k =>
    (match s.team? k with
     | some t => scratchRead s t t.core o n
     | none => List.replicate n 0)
  | .saved i =>
    (match s.images[i]? with
     | some im => (List.range n).map fun j =>
         let (a, gap) := imageAt im.team ((o + j) % 2 ^ 32)
         if gap then 0 else storeGet im.scratch a
     | none => List.replicate n 0)

/-- Write scratchpad bytes of a team, resident or saved (04 R76). -/
def refWrite (s : State) (r : TeamRef) (o : Nat) (l : List Byte) : State :=
  match r with
  | .live k =>
    (match s.team? k with
     | some t => scratchWrite s t t.core o l
     | none => s)
  | .saved i =>
    { s with images := s.images.modify i fun im =>
        { im with scratch := l.zipIdx.foldl (fun m e =>
            let (a, gap) := imageAt im.team ((o + e.2) % 2 ^ 32)
            if gap then m else storeSet m a e.1) im.scratch } }

/-- Whether a range of a team's scratchpad meets its gap (04 R76). -/
def refGap (s : State) (r : TeamRef) (o n : Nat) : Bool :=
  match refTeam s r with
  | some t => scratchGap t t.core o n
  | none => false

/-- Where the scratchpad word of a team's offset lies in kind 1 (03 Table 2), for the report of an uncorrectable one. -/
def refWordOff (s : State) (r : TeamRef) (o : Nat) : BitVec 48 :=
  match refTeam s r with
  | some t =>
    let (c, p, _) := scratchLocate t t.core (o % 2 ^ 32)
    BitVec.ofNat 48 (scratchOff c p / 8 * 8)
  | none => 0

/-- The first uncorrectable byte of a scratchpad range, with the bytes of uncorrectable words as zero (04 R89). -/
def refClean (s : State) (r : TeamRef) (o n : Nat) : List Byte × Option Nat :=
  match r with
  | .live k =>
    (match s.team? k with
     | some t =>
       if s.poison.isEmpty then (scratchRead s t t.core o n, none)
       else
         let bad := fun j =>
           let (c, p, gap) := scratchLocate t t.core ((o + j) % 2 ^ 32)
           !gap && poisonedAt s 1 (scratchOff c p)
         ((scratchRead s t t.core o n).zipIdx.map (fun e => if bad e.2 then 0 else e.1), (List.range n).find? bad)
     | none => (List.replicate n 0, none))
  | .saved _ => (refRead s r o n, none)

/-- Scratchpad bytes that an instruction of a group reads for a lane (05 R96): an uncorrectable word reads as zero and gives the group an ECC
(03 R55, log 54), and the gap sets SPOV. -/
def scratchOperand (s : State) (id : GroupId) (g : Group) (l o n : Nat) : State × List Byte :=
  let ref : TeamRef := .live g.team
  let (b, bad) := refClean s ref o n
  let s1 := match bad with
    | some i => s.modGroup id fun x => { x with eccNow := x.eccNow ++ [⟨1#64 <<< l, refWordOff s ref (o + i)⟩] }
    | none => s
  (setSpov s1 id (refGap s ref o n), b)

/-- A team's ring; one that is not declared has EN clear. -/
def ringOf (t : Team) (r : Nat) : Ring := (tabGet t.rings r).getD ⟨false, 0, 0, 0, 0, 0, 0, 0, true, false⟩
/-- Write a team's ring. -/
def setRing (t : Team) (r : Nat) (x : Ring) : Team := { t with rings := tabSet t.rings r x }
/-- The number of slots N. -/
def ringN (x : Ring) : Nat := x.nm1.toNat + 1
/-- The bytes of a slot. -/
def slotB (x : Ring) : Nat := 64 * (x.sz.toNat + 1)
/-- ST[i]: 0 FREE, 1 OPEN, 2 FULL, 3 TAKEN (05 R105). -/
def slotSt (x : Ring) (i : Nat) : Nat := (x.st.extractLsb' (2 * i) 2).toNat
/-- Set ST[i]. -/
def setSlot (x : Ring) (i v : Nat) : Ring :=
  { x with st := (x.st &&& ~~~(3#32 <<< (2 * i))) ||| (BitVec.ofNat 32 v <<< (2 * i)) }
/-- The slot word of slot i with phase p (05 R106). -/
def slotWord (x : Ring) (i : Nat) (p : Bool) : Word :=
  BitVec.ofNat 32 ((if p then 2 ^ 31 else 0) + i * 2 ^ 24 + (x.base.toNat + i * slotB x))

/-- The ring sources of a job card: the rings of ASRC, BSRC and, in a sparse job, MSRC (08 Table 9). -/
def cardRings (card : BitVec 512) : List Nat :=
  let src := fun (k : Nat) => (card.extractLsb' (8 * k) 8)
  ([47, 48] ++ (if card.extractLsb' 0 8 = 2#8 then [49] else [])).filterMap fun k =>
    if (src k).getLsbD 7 then some ((src k).extractLsb' 0 4).toNat else none
/-- EMIT of a job card (08 Table 9). -/
def cardEmit (card : BitVec 512) : Bool := (card.extractLsb' 408 8).getLsbD 7

/-- A running job of a team, named by its uid, that takes from a ring. -/
def jobTakes (uid ring : Nat) (emit : Bool) : Command → Bool
  | .job j => j.running && j.teamUid == uid && (cardRings j.card).contains ring && (!emit || cardEmit j.card)
  | _ => false

/-- The commands of the matrix engine that works for a team: of its cluster, or of its image, where a running job is still the running
job (08 R186). -/
def refQueue (s : State) : TeamRef → List Command
  | .live k => (match s.team? k with | some t => (s.cluster (t.core / 2)).queue | none => [])
  | .saved i => (((s.images[i]?).bind (·.matrix)).map (·.queue)).getD []

/-- Whether the ring feeds a running matrix job with EMIT set (08 R183). -/
def emitRing (s : State) (r : TeamRef) (ring : Nat) : Bool :=
  match refTeam s r with
  | some t => (refQueue s r).any (jobTakes t.uid ring true)
  | none => false

/-- The next iteration of a source to stage: A, B, metadata. -/
def stagedOf (j : Job) (src : Nat) : Nat := match src with | 0 => j.staged.1 | 1 => j.staged.2.1 | _ => j.staged.2.2

/-- The step of the next iteration has started: the job runs, is not ending, and its ring sources are staged (08 R183; a step starts as soon
as they are, log 36). -/
def jobStarted (j : Job) : Bool :=
  j.running && j.ending.isNone && [0, 1, 2].all fun k =>
    !(j.card.extractLsb' (8 * (47 + k)) 8).getLsbD 7 || (k == 2 && j.card.extractLsb' 0 8 != 2#8) || decide (j.next < stagedOf j k)

/-- A job begins to end with a status, unless it is ending already; a step that has started completes (08 R184). The engine of a saved team
stands still (08 R186). -/
def endJob (st : BitVec 4) (still : Bool) : Command → Command
  | .job j => .job (if j.ending.isNone then { j with ending := some st, inStep := jobStarted j && !still } else j)
  | c => c

/-- BADC of a configured ring is set, which ends a running job that takes from it (05 R105, 08 R184). -/
def setBadc (s : State) (r : TeamRef) (ring : Nat) : State :=
  let s1 := modRef s r fun t => if (ringOf t ring).en then setRing t ring { ringOf t ring with badc := true } else t
  match refTeam s r with
  | none => s1
  | some t =>
    let ends := fun (still : Bool) (c : Cluster) =>
      { c with queue := c.queue.map fun q => if jobTakes t.uid ring false q then endJob 4 still q else q }
    match r with
    | .live _ => s1.modCluster (t.core / 2) (ends false)
    | .saved i => { s1 with images := s1.images.modify i fun im => { im with matrix := im.matrix.map (ends true) } }

/-- A commit of slot i (05 Table 8): the state after it, and 0 or the status 2. -/
def commitSlot (s : State) (r : TeamRef) (ring i : Nat) (copy walker : Bool) : State × Nat :=
  match refTeam s r with
  | none => (s, 2)
  | some t =>
    let x := ringOf t ring
    if emitRing s r ring && !walker then (setBadc s r ring, 2)
    else if slotSt x i ≤ 1 then
      (modRef s r fun t => setRing t ring { setSlot x i 2 with ph := x.ph ^^^ (1#16 <<< i) }, 0)
    else (if copy then setBadc s r ring else s, 2)

/-- The commit that a copy delivers: of the slot that holds its first destination byte (04 R79, 05 Table 8). -/
def commitCopy (s : State) (r : TeamRef) (ring off : Nat) (walker : Bool) : State :=
  match refTeam s r with
  | none => s
  | some t =>
    let x := ringOf t ring
    let a := allocPow (t.ssize.toNat * 4096)
    let u := off % (if t.paired then 2 * a else a)
    if !x.en then s
    else if u < x.base.toNat ∨ x.base.toNat + ringN x * slotB x ≤ u then setBadc s r ring
    else (commitSlot s r ring ((u - x.base.toNat) / slotB x) true walker).1

/-- SREL.FREE of slot i (05 Table 8). -/
def freeSlot (s : State) (r : TeamRef) (ring i : Nat) : State × Nat :=
  match refTeam s r with
  | none => (s, 2)
  | some t =>
    let x := ringOf t ring
    if slotSt x i = 3 then (modRef s r fun t => setRing t ring (setSlot x i 0), 0) else (s, 2)

/-- SPOP where the head slot is FULL: the slot word and the ring after it (05 Table 8). -/
def takeHead (x : Ring) : Option (Word × Ring) :=
  let i := x.ch.toNat
  if slotSt x i = 2 then
    let n := (i + 1) % ringN x
    some (slotWord x i (x.ph.getLsbD i), { setSlot x i 3 with ch := BitVec.ofNat 4 n, cph := if n = 0 then !x.cph else x.cph })
  else none

/-- SPOP.OPEN where the next slot is FREE (05 Table 8). -/
def openNext (x : Ring) : Option (Word × Ring) :=
  let i := x.pt.toNat
  if slotSt x i = 0 then
    some (slotWord x i (!x.ph.getLsbD i), { setSlot x i 1 with pt := BitVec.ofNat 4 ((i + 1) % ringN x) })
  else none

/-- The groups of a team that wait on a side of a ring, in order. -/
def ringWaiters (s : State) (t : Team) (ring : Nat) (isOpen : Bool) : List GroupId :=
  (t.ringWait.filter fun e => e.2.1 == ring && e.2.2 == isOpen &&
    ((s.group? e.1).map (fun g => g.wait == .ring ring isOpen)).getD false).map (·.1)

/-- SPOP and SPOP.OPEN (05 R107, R109): groups are served in the order in which they began to wait. -/
def ringTake (isOpen : Bool) (d r : BitVec 7) (s : State) (id : GroupId) (g : Group) : State :=
  if g.em = 0 then retire s id
  else
    match s.team? g.team with
    | none => retire s id
    | some t =>
      let x := ringOf t r.toNat
      if !x.en then retire (statusDst s id g d 0xFFFFFFFF#32) id
      else
        let mine := g.wait == .ring r.toNat isOpen
        let waiters := ringWaiters s t r.toNat isOpen
        let ahead := if mine then waiters.takeWhile (· != id) else waiters
        match (if ahead.isEmpty then (if isOpen then openNext x else takeHead x) else none) with
        | some (w, x') =>
          let s1 := s.modTeam g.team fun t =>
            { setRing t r.toNat x' with ringWait := t.ringWait.filter (fun e => e.1 != id) }
          retire (statusDst s1 id g d w) id
        | none =>
          if mine then s
          else
            waitIn (s.modTeam g.team fun t =>
              { t with ringWait := t.ringWait.filter (fun e => e.1 != id) ++ [(id, r.toNat, isOpen)] }) id (.ring r.toNat isOpen)

/-- SPOP (05 R109). -/
def execSpop (d r : BitVec 7) (s : State) : Host.Outcome State Fault Refusal := issue (.spop d r) s (ringTake false d r)

/-- SPOP.OPEN (05 R109). -/
def execSpopOpen (d r : BitVec 7) (s : State) : Host.Outcome State Fault Refusal := issue (.spopOpen d r) s (ringTake true d r)

/-- SREL and SREL.FREE (05 R109). -/
def ringRelease (free : Bool) (d r b : BitVec 7) (s : State) (id : GroupId) (g : Group) : State :=
  match g.lowest, s.team? g.team with
  | some l, some t =>
    let x := ringOf t r.toNat
    let i := ((src32 s id g g.pre (srcOpnd .b b 1) l).extractLsb' 24 4).toNat
    let (s1, st) :=
      if !x.en then (s, 1)
      else if x.nm1.toNat < i then (s, 3)
      else if free then freeSlot s (.live g.team) r.toNat i
      else commitSlot s (.live g.team) r.toNat i false false
    retire (statusDst s1 id g d (BitVec.ofNat 32 st)) id
  | _, _ => retire s id

/-- SREL (05 R109). -/
def execSrel (d r b : BitVec 7) (s : State) : Host.Outcome State Fault Refusal := issue (.srel d r b) s (ringRelease false d r b)

/-- SREL.FREE (05 R109). -/
def execSrelFree (d r b : BitVec 7) (s : State) : Host.Outcome State Fault Refusal :=
  issue (.srelFree d r b) s (ringRelease true d r b)

end Sys2Proof.Machine
end

