-- ==== Sys2Proof/Machine/Collective.lean ====
section
/-! DEFINITION. Collectives and meeting routers (09): tags and their rounds, TAGA, TAGF and MEET, wire compression (06 R125, R126), tile table
firings and TTRDY, landing slots and the spill ring. -/
namespace Sys2Proof.Machine

/-- RouterOf (09 R187). -/
def routerOf (p t : Nat) : Nat :=
  let x : BitVec 20 := BitVec.ofNat 20 t
  (x.extractLsb' 0 6 ^^^ x.extractLsb' 6 6 ^^^ x.extractLsb' 12 6 ^^^ (x.extractLsb' 18 2).setWidth 6 ^^^ BitVec.ofNat 6 p).toNat

/-- The pairs of operator and format of Table 2 (09 R189). -/
def opFmtOk (op fmt : Nat) : Bool :=
  if op ≤ 2 then decide (fmt = 1 ∨ fmt = 2 ∨ fmt = 3 ∨ fmt = 7) else if op ≤ 4 then fmt == 0 else false

/-- A field of a tag descriptor. -/
def tagU (d : BitVec 256) (off n : Nat) : Nat := d.toNat / 2 ^ (8 * off) % 2 ^ (8 * n)

/-- A malformed descriptor (09 R189). -/
def tagBad (d : BitVec 256) : Bool :=
  let op := tagU d 0 1
  let n := tagU d 2 1
  !opFmtOk op (tagU d 1 1) || tagU d 3 1 != 0 || tagU d 14 2 != 0 || tagU d 20 12 != 0 ||
  (if op = 4 then n != 1 else decide (n < 2 ∨ 64 < n)) || tagU d 4 1 % 64 != 0

/-- The offset of a tag's entry (09 R188). -/
def tagEntry (p : Partition) (t : Nat) : Nat := p.mtagBase.toNat + 64 * t

/-- The lowest free tag from t on, below a limit, of the router asked for. -/
def freeTag (p : Partition) (part limit : Nat) (router : Option Nat) : Nat → Nat → Option Nat
  | 0, _ => none
  | fuel + 1, t =>
    if limit ≤ t then none
    else if (tabGet p.tags t).isNone && (router.map (· == routerOf part t)).getD true then some t
    else freeTag p part limit router fuel (t + 1)

/-- The state bytes that a router keeps behind a descriptor (09 R188, log 13). -/
def tagStateBytes (s : State) : List Byte := (List.range 32).map (Config.tagStateByte s.fresh)

/-- Change a tag of a partition. -/
def modTag (s : State) (part t : Nat) (f : Tag → Tag) : State :=
  s.modPart part fun p =>
    { p with tags := match tabGet p.tags t with
        | some x => tabSet p.tags t (f x)
        | none => p.tags }

/-- TAGA (09 R197): the status and the state after it. -/
def allocTag (s : State) (g : Group) (desc : BitVec 256) (q : Option Nat) : State × Word :=
  let p := s.part g.part
  if !p.mtagEn then (s, 0x80000003)
  else if tagBad desc then (s, 0x80000002)
  else
    match freeTag p g.part (2 ^ p.mtagLog.toNat) (q.bind fun r => if r ≤ 63 then some r else none)
        (min (2 ^ p.mtagLog.toNat) (64 * (p.tags.length + 1))) 0 with
    | none => (s, 0x80000001)
    | some t =>
      match tableWrite s g.part (tagEntry p t) (leBytes 32 desc.toNat ++ tagStateBytes s) with
      | none => (s, 0x80000004)
      | some s1 =>
        (s1.modPart g.part fun p =>
          { p with tags := tabSet p.tags t ⟨.idle, desc, 0, 0, none, 0, 0, g.mode, [], false⟩ }, BitVec.ofNat 32 t)

/-- TAGA (09 R197). -/
def execTaga (d a b : BitVec 7) (s : State) : Host.Outcome State Fault Refusal :=
  issue (.taga d a b) s fun s id g =>
    match g.lowest with
    | none => retire s id
    | some l =>
      if !(s.part g.part).mtagEn then retire (statusDst s id g d 0x80000003#32) id
      else
        let (s0, b0) := scratchOperand s id g l ((src32 s id g g.pre (srcOpnd .a a 1) l).toNat / 32 * 32) 32
        let q := if b = 112#7 then none else some (src32 s id g g.pre (srcOpnd .b b 1) l).toNat
        let (s1, st) := allocTag s0 g (BitVec.ofNat 256 (leNat b0)) q
        retire (statusDst s1 id g d st) id

/-- TAGF reaches its tag (09 Table 3). -/
def freeing (x : Tag) : Tag :=
  match x.st with
  | .fwd => { x with freeReq := true }
  | _ => { x with st := .freeing, chunks := [], freeReq := false }

/-- A tag that a TAGF has reached goes to FREE without any group, so that a TAGF that is issued again, or another one, returns 1 at once
(09 R197, log 13). -/
def tagLeaves (x : Tag) : Bool := x.st == .freeing || x.freeReq

/-- TAGF (09 R197). -/
def execTagf (d a : BitVec 7) (s : State) : Host.Outcome State Fault Refusal :=
  issue (.tagf d a) s fun s id g =>
    match g.lowest, g.wait with
    | none, _ => retire s id
    | some _, .tagf _ true => retire (statusDst s id g d 0#32) id
    | some _, .tagf _ false => s
    | some l, _ =>
      let t := (src32 s id g g.pre (srcOpnd .a a 1) l).toNat
      if 2 ^ 20 ≤ t ∨ ((tabGet (s.part g.part).tags t).map tagLeaves).getD true then retire (statusDst s id g d 1#32) id
      else waitIn (modTag s g.part t freeing) id (.tagf t false)

/-- MEETs of a core that await their first answer (09 R198). -/
def meetsOf (s : State) (core : Nat) : Nat :=
  (s.net.filter fun c => c.sender.core == core && !s.answered.contains c.xid).length +
  (s.answers.filter fun a => a.sender.core == core && a.first).length

/-- MEET (09 R198). -/
def execMeet (d a b : BitVec 7) (s : State) : Host.Outcome State Fault Refusal :=
  issue (.meet d a b) s fun s id g =>
    match g.lowest, s.team? g.team with
    | some l, some t =>
      let w := src64 s id g g.pre (srcOpnd .b b 2) l
      let kind := (w.extractLsb' 30 2).toNat
      if w.extractLsb' 48 3 ≠ 0#3 ∨ 2 ≤ kind then retire (statusDst s id g d 1#32) id
      else if 32 ≤ meetsOf s (coreOf id) then waitIn s id .meetLimit
      else
        let (s0, data) := scratchOperand s id g l ((src32 s id g g.pre (srcOpnd .a a 1) l).toNat / 64 * 64) 4096
        let c : Contr :=
          { part := g.part, tag := (w.extractLsb' 0 20).toNat, cidx := (w.extractLsb' 20 6).toNat, seq := w.extractLsb' 32 16,
            xid := s.nextXid,
            sender := ⟨g.uid, t.uid, coreOf id, w.extractLsb' 51 13, if kind = 1 then some (w.extractLsb' 26 4).toNat else none⟩,
            data := data }
        retire (statusDst { s0 with net := s.net ++ [c], nextXid := s.nextXid + 1 } id g d 0#32) id
    | _, _ => retire s id

/-- A router counter of a partition goes up (09 R196): 0 ACCEPT, 1 DUP, 2 FULL, 3 EARLY, 4 ORPH, 5 FWD, 6 NOTAG. -/
def countRouter (s : State) (part t n : Nat) : State :=
  let k := routerOf part t * 8 + n
  s.modPart part fun p => { p with mrcnt := storeSet p.mrcnt k (storeGet p.mrcnt k + 1) }

/-- The vat blocks in use at a router (09 R190). -/
def blocksUsed (s : State) (m : Nat) : Nat :=
  ((s.parts.flatMap fun e => (e.2.tags.filter fun x => routerOf e.1 x.1 == m).map fun x => x.2.chunks.length)).foldl (· + ·) 0

/-- The blocks of a vat (09 R190). -/
def vatSize (s : State) : Nat := if s.devVatx = 0#2 then 512 else if s.devVatx = 1#2 then 768 else 1024

/-- An answer to a contribution, with the counter of Table 3 (09 R192). -/
def answerTo (s : State) (c : Contr) (status : BitVec 8) (n : Nat) : State :=
  countRouter { s with answers := s.answers ++ [⟨c.sender, c.tag, c.cidx, c.seq, status, 0, true⟩], answered := s.answered ++ [c.xid] }
    c.part c.tag n

/-- Whether PRES holds bits 0 to NCON − 1 (09 Table 3). -/
def presFull (x : Tag) : Bool := x.pres == fullMask (tagU x.desc 2 1)

/-- A contribution at its router (09 R191, R192, R194). -/
def takeContr (s : State) (c : Contr) : State :=
  match tabGet (s.part c.part).tags c.tag with
  | none => answerTo s c 7 6
  | some x =>
    let lag := (x.cur - c.seq).toNat
    match x.st with
    | .freeing => answerTo s c 7 6
    | .pois => answerTo s c 4 6
    | st =>
      if tagU x.desc 2 1 ≤ c.cidx then answerTo s c 8 6
      else if (1 ≤ lag ∧ lag ≤ 32767) ∨ (lag = 0 ∧ x.pres.getLsbD c.cidx) then answerTo s c 5 1
      else if lag ≠ 0 then answerTo s c 3 3
      else if st = .fwd ∨ vatSize s ≤ blocksUsed s (routerOf c.part c.tag) then answerTo s c 2 2
      else
        answerTo (modTag s c.part c.tag fun x =>
          let y := { x with st := .fill, pres := x.pres ||| (1#64 <<< c.cidx), chunks := x.chunks ++ [(c.cidx, c.data)],
                            first := if st = .idle then some (c.sender, c.cidx, c.seq) else x.first,
                            started := if st = .idle then s.time else x.started,
                            tout := if st = .idle then (s.part c.part).mrtout.toNat else x.tout }
          if presFull y then { y with st := .fwd } else y) c 1 0

/-- CONTRIBUTION (09 R192): the n-th contribution in the network arrives; one whose transfer has been answered gets no answer. -/
def execContribution (n : Nat) (s : State) : Host.Outcome State Fault Refusal :=
  match s.net[n]? with
  | none => .next s
  | some c =>
    let s1 := { s with net := s.net.eraseIdx n, lastContr := some c }
    .next (if s.answered.contains c.xid then countRouter s1 c.part c.tag 1 else takeContr s1 c)

/-- Combine two elements of n bytes (09 R193). -/
def combineElem (op fmt x y : Nat) : Nat :=
  let f := fmtOfCode fmt
  if op = 3 then x ||| y
  else if fmt = 7 then
    (if op = 0 then (x + y) % 2 ^ 32
     else if (sextInt 32 x < sextInt 32 y) == (op == 2) then x else y)
  else if op = 0 then (roundF f 0 false 0 false (addV (decodeF f x) (decodeF f y)).1).1
  else (minMax f (op == 2) true false x y).1

/-- Combine two chunks element by element (09 R193). -/
def combineChunk (op fmt : Nat) (x y : List Byte) : List Byte :=
  let z := if op = 3 then 4 else codeBytes fmt
  (List.range (4096 / z)).flatMap fun e => leBytes z (combineElem op fmt (leField x (e * z) z) (leField y (e * z) z))

/-- The result of a round, in ascending CIDX (09 R193). -/
def roundResult (x : Tag) : List Byte :=
  let op := tagU x.desc 0 1
  let parts := (List.range (tagU x.desc 2 1)).map fun i => ((x.chunks.find? fun e => e.1 == i).map (·.2)).getD (List.replicate 4096 0)
  match parts with
  | [] => []
  | c :: r => if op = 4 then c else r.foldl (combineChunk op (tagU x.desc 1 1)) c

/-- A tag ends its round; a TAGF that waits is then applied (09 Table 3). -/
def endRound (x : Tag) (st : TagSt) : Tag :=
  let y := { x with st := st, chunks := [] }
  if x.freeReq then freeing { y with freeReq := false } else y

/-- A later answer to FIRST of a round (09 R198). -/
def answerFirst (s : State) (t : Nat) (x : Tag) (status : BitVec 8) (pres : Dword) : State :=
  match x.first with
  | some (sd, cidx, seq) => { s with answers := s.answers ++ [⟨sd, t, cidx, seq, status, pres, false⟩] }
  | none => s

/-- The result of a round written to DST with the router's table access (09 R193); none where either fails. -/
def writeResult (s : State) (part t : Nat) (x : Tag) : Option State :=
  match unitWrite s part false x.mode (BitVec.ofNat 80 (tagU x.desc 4 10)) (roundResult x) with
  | (s1, none) => tableWrite s1 part (tagEntry (s.part part) t + 32) (tagStateBytes s)
  | (_, some _) => none

/-- ROUND_RESULT_WRITTEN (09 R193, Table 3). -/
def execRoundResultWritten (part tag : Nat) (s : State) : Host.Outcome State Fault Refusal :=
  match tabGet (s.part part).tags tag with
  | none => .next s
  | some x =>
    if x.st ≠ .fwd then .next s
    else match writeResult { s with fresh := s.fresh + 1 } part tag x with
      | some s1 =>
        let evh := tagU x.desc 16 4
        let s2 := if evh = 0xFFFFFFFF then s1 else unitSignal s1 part (BitVec.ofNat 32 evh)
        .next (countRouter (modTag s2 part tag fun y => endRound { y with cur := y.cur + 1, pres := 0 } .idle) part tag 5)
      | none => .next (answerFirst (modTag { s with fresh := s.fresh + 1 } part tag fun y => endRound y .pois) tag x 9 0)

/-- A round whose timer has expired ends as an orphan (09 R194, Table 3). -/
def orphanEnds (s : State) (part tag : Nat) : State :=
  match tabGet (s.part part).tags tag with
  | none => s
  | some x =>
    if x.st = .fill ∧ x.started + x.tout * 1000 ≤ s.time then
      countRouter (answerFirst (modTag s part tag fun y => endRound y .pois) tag x 6 x.pres) part tag 4
    else s

/-- ORPHAN_TIMEOUT (09 R194). -/
def execOrphanTimeout (part tag : Nat) (s : State) : Host.Outcome State Fault Refusal := .next (orphanEnds s part tag)

/-- A status record (09 Table 9). -/
def statusRecord (a : Answer) : List Byte :=
  leBytes 1 a.status.toNat ++ leBytes 1 0 ++ leBytes 2 a.seq.toNat ++ leBytes 4 (a.tag % 2 ^ 20 + a.cidx % 64 * 2 ^ 20) ++
  leBytes 8 a.pres.toNat

/-- MEET_ANSWER (09 R198): the n-th answer reaches its team; a team that has ended takes none. -/
def execMeetAnswer (n : Nat) (s : State) : Host.Outcome State Fault Refusal :=
  match s.answers[n]? with
  | none => .next s
  | some a =>
    let s1 := { s with answers := s.answers.eraseIdx n }
    match refOfTeam s1 a.sender.team with
    | none => .next s1
    | some r =>
      let o := a.sender.soff.toNat * 64
      let s2 := refWrite s1 r o (statusRecord a)
      let s3 := if refGap s1 r o 16 then modUid s2 a.sender.group fun g => { g with spov := true } else s2
      .next (match a.sender.barn with
        | some b => if a.first then refBytes s3 r b 4096 else s3
        | none => s3)

/-- TAG_FREEING_COMPLETE (09 Table 3): a tag with no contribution in the network becomes FREE, and its TAGFs go on. -/
def execTagFreeingComplete (part tag : Nat) (s : State) : Host.Outcome State Fault Refusal :=
  match tabGet (s.part part).tags tag with
  | none => .next s
  | some x =>
    if x.st = .freeing ∧ !(s.net.any fun c => c.part == part && c.tag == tag) then
      let s1 := s.modPart part fun p => { p with tags := tabDel p.tags tag }
      .next { s1 with groups := s1.groups.map fun e =>
        if e.2.part == part && e.2.wait == .tagf tag false then (e.1, { e.2 with wait := .tagf tag true }) else e }
    else .next s

/-- MTAGT (09 R188): a LOGT outside 4 to 20 discards the write, and so does a change while tags are allocated. -/
def mtagtWriteTo (v : Dword) (s : State) (_ : GroupId) (g : Group) : State :=
  let log : BitVec 5 := v.extractLsb' 58 5
  let base : BitVec 48 := v.extractLsb' 6 42 ++ 0#6
  let p := s.part g.part
  if log.toNat < 4 ∨ 20 < log.toNat ∨ (!p.tags.isEmpty ∧ (p.mtagLog ≠ log ∨ p.mtagBase ≠ base)) then s
  else s.modPart g.part fun p => { p with mtagEn := v.getLsbD 63, mtagLog := log, mtagBase := base }

/-- MTAGT_WRITE (09 R188). -/
def execMtagtWrite (v : BitVec 64) (s : State) : Host.Outcome State Fault Refusal := csrUnit 0x1F0 (mtagtWriteTo v) s

/-- The binary logarithm of a finite nonzero value, floored. -/
def log2V : Fval → Int
  | .fin _ m e => (Nat.log2 m : Int) + e
  | _ => 0

/-- A block of 128 FP32 elements on the wire (06 R125). -/
def encodeBlock (l : List Byte) : List Byte :=
  let xs := (List.range 128).map fun i => leField l (4 * i) 4
  let vs := xs.map (decodeF fp32)
  if vs.any fun v => match v with | .fin .. => false | _ => true then leBytes 4 0xFFFFFFFF ++ l.take 512
  else
    let nz := vs.filter fun v => match v with | .fin _ m _ => m != 0 | _ => false
    match nz with
    | [] => List.replicate 260 0
    | x :: r =>
      let e := r.foldl (fun a v => if a < log2V v then log2V v else a) (log2V x)
      let sc : Int := if e - 14 < -149 then -149 else e - 14
      let q := fun (v : Fval) => match v with
        | .fin neg m k => let n := min (roundQ m k sc 0 0).1 32767; intBits 16 (if neg then -(n : Int) else n)
        | _ => 0
      leBytes 4 (encodeF fp32 (.fin false 1 sc)) ++ vs.flatMap fun v => leBytes 2 (q v)

/-- The scale of a block: none for a malformed scale word; a zero word scales by zero (06 R126). -/
def blockScale (w : Nat) : Option Fval :=
  if w = 0 then some (.fin false 0 0)
  else match decodeF fp32 w with
    | .fin false m e =>
      let k := Nat.log2 m
      if m ≠ 0 ∧ m = 2 ^ k ∧ (k : Int) + e ≤ 113 then some (.fin false 1 (k + e)) else none
    | _ => none

/-- Decode one block at the head of a chunk (06 R126): its 512 bytes, whether it is malformed, and what follows it. -/
def decodeBlock (l : List Byte) : List Byte × Bool × List Byte :=
  let w := leField l 0 4
  if w = 0xFFFFFFFF then ((l.drop 4).take 512, false, l.drop 516)
  else match blockScale w with
    | none => (List.replicate 512 0, true, l.drop 260)
    | some sc =>
      ((List.range 128).flatMap fun i =>
        let q := sextInt 16 (leField l (4 + 2 * i) 2)
        leBytes 4 (if q = 0 ∨ w = 0 then 0 else encodeF fp32 (mulV (.fin (decide (q < 0)) q.natAbs 0) sc).1), false, l.drop 260)

/-- Decode the eight blocks of a compressed chunk: the bytes, and the malformed blocks. -/
def decodeChunk : Nat → Nat → List Byte → List Byte × List Nat
  | 0, _, _ => ([], [])
  | fuel + 1, j, l =>
    let (b, bad, r) := decodeBlock l
    let (rest, more) := decodeChunk fuel (j + 1) r
    (b ++ rest, (if bad then [j] else []) ++ more)

/-- A chunk on the wire when CMP is set (06 R125). -/
def encodeChunk (l : List Byte) : List Byte := (List.range 8).flatMap fun j => encodeBlock ((l.drop (512 * j)).take 512)

/-- A field of a tile table entry. -/
def ttU (r : BitVec 512) (off n : Nat) : Nat := r.toNat / 2 ^ (8 * off) % 2 ^ (8 * n)

/-- A malformed tile table entry (09 R200, R203). -/
def ttBad (e : BitVec 512) : Bool :=
  let n := ttU e 3 1
  let chunks := ttU e 4 2
  let peer := fun k => ttU e (40 + 2 * k) 2
  !opFmtOk (ttU e 0 1) (ttU e 1 1) || decide (2 ≤ ttU e 2 1) || (ttU e 2 1 == 1 && !(ttU e 0 1 == 0 && ttU e 1 1 == 1)) ||
  n == 0 || decide (12 < n) || chunks == 0 || decide (256 < chunks) || decide (4096 ≤ ttU e 6 2) || ttU e 8 1 % 64 != 0 ||
  ttU e 18 1 % 64 != 0 || (List.range 12).any fun k => decide (8192 ≤ peer k) || (decide (n ≤ k) && peer k != 0)

/-- The pairs of a firing: chunks times peers (09 R201). -/
def ttPairs (e : BitVec 512) : Nat := ttU e 4 2 * ttU e 3 1

/-- RESUME as it names a pair (09 Table 12). -/
def pairField (e : BitVec 512) (n : Nat) : Nat := n / ttU e 3 1 * 16 + n % ttU e 3 1

/-- The offset of a tile table entry (09 R200). -/
def ttEntry (p : Partition) (i : Nat) : Nat := p.ttBase.toNat + 64 * i

/-- The collective unit writes fields of an entry; a write that fails a check leaves them (log 22). -/
def ttWrite (s : State) (part i off : Nat) (l : List Byte) : State := (tableWrite s part (ttEntry (s.part part) i + off) l).getD s

/-- Change the firing of an entry. -/
def modFiring (s : State) (part i : Nat) (f : Firing → Firing) : State :=
  s.modPart part fun p => { p with firings := p.firings.map fun x => if x.entry == i then f x else x }

/-- Start a firing, or continue a halted one from RESUME (09 R203). -/
def startFiring (s : State) (part i : Nat) (mode : Mode) (e : BitVec 512) : State :=
  let go := ttU e 38 1 == 2
  let r := ttU e 6 2
  let next := if go then r / 16 * ttU e 3 1 + r % 16 else 0
  let s1 := ttWrite (if go then s else ttWrite s part i 6 (leBytes 2 0)) part i 38 (leBytes 1 1 ++ leBytes 1 0)
  s1.modPart part fun p => { p with firings := p.firings.filter (fun x => x.entry != i) ++ [⟨i, e, mode, next, false, 0, false⟩] }

/-- The ECC of a unit's read for a group, in S mode of its partition: its lanes, and the sector of the first uncorrectable byte (03 R55). -/
def unitEcc (s : State) (part : Nat) (lanes : Dword) (va : VAddr) : EccInfo :=
  ⟨lanes, match translate s 384 part false .s .load (vaKind va) (vaOff va) with
    | .ok p => BitVec.ofNat 48 (p.off / 32 * 32)
    | .error _ => 0⟩

/-- TTRDY (09 R203): LD's checks; an entry with an uncorrectable sector reads as zero, which is malformed, and the group traps ECC at its next
issue, as after a load (03 R55, log 22). -/
def execTtrdy (d a : BitVec 7) (s : State) : Host.Outcome State Fault Refusal :=
  issue (.ttrdy d a) s fun s id g =>
    match g.lowest with
    | none => retire s id
    | some l =>
      let p := s.part g.part
      let i := (src32 s id g g.pre (srcOpnd .a a 1) l).toNat
      if !p.ttEn || decide (2 ^ p.ttLog.toNat ≤ i) then retire (statusDst s id g d 2#32) id
      else match unitRead s g.part false .s (mkVa s.devNum.toNat 0 (ttEntry p i)) 64 with
        | .error (c, va) => raiseWhole s id g c (packVa va)
        | .ok (b, bad) =>
          let e := if bad.isSome then 0 else BitVec.ofNat 512 (leNat b)
          let s := s.modGroup id fun x => { x with eccNow := x.eccNow ++ (bad.map (unitEcc s g.part (maskOf [l]))).toList }
          if ttU e 38 1 = 1 then retire (statusDst s id g d 1#32) id
          else if ttBad e then retire (statusDst s id g d 3#32) id
          else retire (statusDst (startFiring s g.part i g.mode e) id g d 0#32) id

/-- A firing halts at its next pair; every earlier pair has landed (09 R202). -/
def haltFiring (s : State) (part : Nat) (f : Firing) (cause : Cause) : State :=
  modFiring (ttWrite (ttWrite s part f.entry 6 (leBytes 2 (pairField f.desc f.next))) part f.entry 38
    (leBytes 1 2 ++ leBytes 1 cause.code.toNat)) part f.entry fun x => { x with flying := false, halted := true }

/-- RDST of an entry as an address of a peer (09 R200, R201). -/
def peerAddr (dev : Nat) (e : BitVec 512) : VAddr := BitVec.ofNat 13 dev ++ BitVec.ofNat 67 (ttU e 18 10)

/-- REVT of an entry as a handle of a peer's event (09 Table 12). -/
def peerEvent (dev : Nat) (e : BitVec 512) : Word := BitVec.ofNat 13 dev ++ BitVec.ofNat 19 (ttU e 28 4)

/-- Read and send the next pair (09 R201): the chunk with its uncorrectable blocks as zeros, or the fault that halts the firing. -/
def sendPair (s : State) (part : Nat) (f : Firing) : State :=
  let e := f.desc
  let n := f.next
  let c := n / ttU e 3 1
  let dev := ttU e (40 + 2 * (n % ttU e 3 1)) 2
  let src := vaAdd (BitVec.ofNat 80 (ttU e 8 10)) (4096 * c)
  let s := linkNote s part false f.mode src
  let s0 := { s with fresh := s.fresh + 1 }
  let blocks := (List.range 8).map fun (j : Nat) => unitRead s part false f.mode (vaAdd src (512 * j)) 512
  match blocks.find? (fun b => match b with | .error _ => true | .ok _ => false) with
  | some (.error (k, _)) => haltFiring s0 part f k
  | _ =>
    if !reachable s dev then haltFiring s0 part f .prot
    else
      let data := blocks.flatMap fun b => match b with | .ok (l, _) => l | .error _ => []
      let bad := (List.range 8).filter fun j => match blocks[j]? with | some (.ok (_, some _)) => true | _ => false
      let cmp := ttU e 2 1 == 1
      let round := leNat ((tableRead s part (ttEntry (s.part part) f.entry + 36) 2).getD [])
      { modFiring s0 part f.entry fun x => { x with flying := true } with
        sent := s.sent ++ [.chunk dev s.devNum.toNat part f.entry c round (ttU e 0 1) (ttU e 1 1) cmp (peerAddr dev e) (peerEvent dev e) bad
          (if cmp then encodeChunk data else data)] }

/-- Every pair has landed: ROUND, STATE, then LEVT (09 R201). -/
def endFiring (s : State) (part : Nat) (f : Firing) : State :=
  let round := leNat ((tableRead s part (ttEntry (s.part part) f.entry + 36) 2).getD [])
  let s1 := ttWrite (ttWrite s part f.entry 36 (leBytes 2 (round + 1))) part f.entry 38 (leBytes 1 0)
  let s2 := s1.modPart part fun p => { p with firings := p.firings.filter (fun x => x.entry != f.entry) }
  let levt := ttU f.desc 32 4
  if levt = 0xFFFFFFFF then s2 else unitSignal s2 part (BitVec.ofNat 32 levt)

/-- TILE_CHUNK_SEND (09 R201): the next pair, once the pair before it has landed and, where it was refused, 1 µs after that (09 R205, log 22);
a firing without a pair to send has ended. -/
def execTileChunkSend (part entry : Nat) (s : State) : Host.Outcome State Fault Refusal :=
  match (s.part part).firings.find? (fun f => f.entry == entry) with
  | none => .next s
  | some f =>
    if f.halted || f.flying then .next s
    else if ttPairs f.desc ≤ f.next then .next (endFiring s part f)
    else .next (if f.due ≤ s.time then sendPair s part f else s)

/-- FIRING_PAIR_LANDED (09 R201, R202, R205): the pair on its way is answered by its peer, which another device decides (log 10). -/
def execFiringPairLanded (part entry : Nat) (s : State) : Host.Outcome State Fault Refusal :=
  match (s.part part).firings.find? (fun f => f.entry == entry) with
  | none => .next s
  | some f =>
    if !f.flying then .next s
    else
      let s1 := { s with fresh := s.fresh + 1 }
      let ans := Config.pairAnswer s.fresh
      if ans = 1 then .next (modFiring s1 part entry fun x => { x with flying := false, due := s.time + 1000 })
      else if ans = 2 then .next (haltFiring s1 part f .prot)
      else if ttPairs f.desc ≤ f.next + 1 then .next (endFiring s1 part f)
      else .next (modFiring s1 part entry fun x => { x with flying := false, next := f.next + 1 })

/-- A refused arrival is counted and its sender answered (09 R205). -/
def refuseArrival (s : State) (q : Nat) (a : Arrival) (again : Bool) : State :=
  let s1 := { s.modPart q fun p => { p with landRef := satInc p.landRef } with
              sent := s.sent ++ [.refusal a.sdev Cause.prot.code] }
  if again then { s1 with arrivalsHeld := s1.arrivalsHeld ++ [(a, s.time + 1000)] } else s1

/-- The lowest-numbered free landing slot (09 R205): of 2^LOGN, for a LOGN above 12 too (log 43). -/
def freeSlotOf (p : Partition) : Option Nat := (List.range (2 ^ p.landLog.toNat)).find? fun i => !p.landUsed.contains i

/-- Write into the landing area: it must reach a pinned unit that the partition holds (09 R205). -/
def landWrite (s : State) (part off : Nat) (l : List Byte) : Option State :=
  let pinnedAt := fun (o : Nat) => match translate s 384 part false .s .store 1 o with
    | .ok p => p.kind == 1 && (match regionOf p.off with | .pinned .. => true | _ => false)
    | .error _ => false
  if (piecesOf (mkVa s.devNum.toNat 1 off) l.length).all fun e => pinnedAt (vaOff e.1) then
    match unitWrite s part false .s (mkVa s.devNum.toNat 1 off) l with
    | (s1, none) => some s1
    | (_, some _) => none
  else none

/-- The offset of a landing slot's header (09 R204). -/
def slotHead (p : Partition) (i : Nat) : Nat := p.landBase.toNat + 4096 * 2 ^ p.landLog.toNat + 64 * i

/-- A chunk and its header go into a slot (09 R204, R205): both or, where one of the writes is not made, neither (log 22). -/
def fillSlot (s : State) (part i : Nat) (data head : List Byte) : Option State :=
  let p := s.part part
  match (landWrite s part (p.landBase.toNat + 4096 * i) data).bind fun s1 => landWrite s1 part (slotHead p i) head with
  | some s1 => some (s1.modPart part fun p => { p with landUsed := p.landUsed ++ [i] })
  | none => none

/-- A failed landing write (09 R205). -/
def landFault (s : State) (part : Nat) : State := s.modPart part fun p => { p with landEn := false, badl := true }
/-- A failed spill write or refetch read (09 R205). -/
def spillFault (s : State) (part : Nat) : State := s.modPart part fun p => { p with splEn := false, bads := true }

/-- REVT of an arrival names this device's event (09 R201). -/
def arrivalSignal (s : State) (part : Nat) (h : Word) : State :=
  unitSignal s part ((h &&& 0x7FFFF#32) ||| (BitVec.ofNat 32 s.devNum.toNat <<< 19))

/-- The chunk of an arrival as it is placed, and the blocks that BADMAP marks (09 R204, R205). -/
def arrivalData (a : Arrival) : List Byte × List Nat :=
  if a.cmp then let (l, bad) := decodeChunk 8 0 a.data; (l, a.poisoned ++ bad) else ((a.data ++ List.replicate 4096 0).take 4096, a.poisoned)

/-- The header of an arrival (09 Table 15). -/
def arrivalHead (a : Arrival) (bad : List Nat) (arr : Nat) : List Byte :=
  leBytes 2 a.sdev ++ leBytes 1 (1 + (if a.ovf then 2 else 0) + (if bad.isEmpty then 0 else 4)) ++
  leBytes 1 ((maskOf bad).toNat % 256) ++ leBytes 4 a.tile.toNat ++ leBytes 2 a.chunk.toNat ++ leBytes 2 a.round.toNat ++
  leBytes 1 a.op.toNat ++ leBytes 1 a.fmt.toNat ++ leBytes 2 0 ++ leBytes 8 arr ++ List.replicate 40 0

/-- An arrival goes to the spill ring of a partition (09 R205). -/
def spillArrival (s : State) (q : Nat) (a : Arrival) (data head : List Byte) : State :=
  let p := s.part q
  if !p.splEn || decide (2 ^ p.splLog.toNat ≤ p.spilled.length) then refuseArrival s q a true
  else match unitWrite s q false .s (mkVa s.devNum.toNat 3 (p.splBase.toNat + 4160 * p.splNext)) (data ++ head) with
    | (s1, none) =>
      s1.modPart q fun p =>
        { p with spilled := p.spilled ++ [(p.splNext, a.revt)], splNext := (p.splNext + 1) % 2 ^ p.splLog.toNat, arrivals := p.arrivals + 1 }
    | (_, some _) => refuseArrival (spillFault s q) q a true

/-- Place an arrival in a partition (09 R201, R205). -/
def placeIn (s : State) (q : Nat) (a : Arrival) : State :=
  let p := s.part q
  let (data, bad) := arrivalData a
  if a.op = 4#8 && !a.ovf then
    (match unitWrite s q false .s (vaAdd ((BitVec.ofNat 13 s.devNum.toNat) ++ a.rdst.extractLsb' 0 67) (4096 * a.chunk.toNat)) data with
     | (s1, none) => arrivalSignal s1 q a.revt
     | (s1, some (c, _)) => { s1 with sent := s1.sent ++ [.refusal a.sdev c.code] })
  else if !p.landEn then refuseArrival s q a false
  else
    let head := arrivalHead a bad p.arrivals
    match (if a.ovf || !p.spilled.isEmpty then none else freeSlotOf p) with
    | some i =>
      (match fillSlot s q i data head with
       | some s1 => arrivalSignal (s1.modPart q fun p => { p with arrivals := p.arrivals + 1 }) q a.revt
       | none => refuseArrival (landFault s q) q a false)
    | none => spillArrival s q a data head

/-- Place an arrival in the local partition that the monitor has bound to its sender; without one it is refused (15 R326). -/
def placeArrival (s : State) (a : Arrival) : State :=
  match boundPart s a.sdev a.part with
  | none => { s with sent := s.sent ++ [.refusal a.sdev Cause.prot.code] }
  | some q => placeIn s q a

/-- LANDING_ARRIVAL (09 R205). -/
def execLandingArrival (a : Arrival) (s : State) : Host.Outcome State Fault Refusal := .next (placeArrival s a)

/-- ARRIVAL_RETRY (09 R205): the n-th refused arrival comes again, 1 µs after its refusal at the earliest. -/
def execArrivalRetry (n : Nat) (s : State) : Host.Outcome State Fault Refusal :=
  match s.arrivalsHeld[n]? with
  | none => .next s
  | some (a, t) =>
    if t ≤ s.time then .next (placeArrival { s with arrivalsHeld := s.arrivalsHeld.eraseIdx n } a) else .next s

/-- The header of a refetched chunk (09 Table 15): blocks with an uncorrectable sector are marked, and an uncorrectable header is zero but for
VALID and BAD (log 54). -/
def refetchHead (head : List Byte) (lost : Bool) (bad : List Nat) : List Byte :=
  let flags := if lost then 5 else byteAt head 2 ||| (if bad.isEmpty then 0 else 4)
  head.take 2 ++ leBytes 1 flags ++ leBytes 1 (byteAt head 3 ||| (maskOf bad).toNat % 256) ++ head.drop 4

/-- A spilled chunk as the collective unit reads it back: its header and its bytes, uncorrectable sectors as zeros and marked (09 R204, R205);
none where a read fails a check. -/
def readSpilled (s : State) (part off : Nat) : Option (List Byte × List Byte) :=
  let get := fun (o n : Nat) => unitRead s part false .s (mkVa s.devNum.toNat 3 (off + o)) n
  match (List.range 8).mapM fun j => (get (512 * j) 512).toOption, get 4096 64 with
  | some bs, .ok (h, hbad) =>
    some (refetchHead h hbad.isSome ((List.range 8).filter fun j => ((bs[j]?).bind (·.2)).isSome), bs.flatMap (·.1))
  | _, _ => none

/-- SPILL_REFETCH (09 R205). -/
def execSpillRefetch (part : Nat) (s : State) : Host.Outcome State Fault Refusal :=
  let p := s.part part
  match p.spilled, freeSlotOf p with
  | (j, revt) :: rest, some i =>
    if !p.landEn || !p.splEn then .next s
    else
     let s := linkNote s part false .s (mkVa s.devNum.toNat 3 (p.splBase.toNat + 4160 * j))
     match readSpilled s part (p.splBase.toNat + 4160 * j) with
      | none => .next (spillFault s part)
      | some (head, data) =>
        (match fillSlot s part i data head with
         | some s1 => .next (arrivalSignal (s1.modPart part fun p => { p with spilled := rest }) part revt)
         | none => .next (landFault s part))
  | _, _ => .next s

/-- LANDFREE (09 R206). -/
def landfreeTo (v : Dword) (s : State) (_ : GroupId) (g : Group) : State :=
  let i := (v.extractLsb' 0 12).toNat
  let p := s.part g.part
  if !p.landUsed.contains i then s
  else
    let s1 := s.modPart g.part fun p => { p with landUsed := p.landUsed.filter (· != i) }
    let fl := match unitRead s g.part false .s (mkVa s.devNum.toNat 1 (slotHead p i + 2)) 1 with
      | .ok (l, _) => byteAt l 0 / 2 * 2
      | .error _ => 0
    (landWrite s1 g.part (slotHead p i + 2) (leBytes 1 fl)).getD (landFault s1 g.part)

/-- LANDFREE (09 R206). -/
def execLandfree (v : BitVec 64) (s : State) : Host.Outcome State Fault Refusal := csrUnit 0x1F7 (landfreeTo v) s

end Sys2Proof.Machine
end

