-- ==== Sys2Proof/Machine/Control.lean ====
section
/-! DEFINITION. Prefixes (02 R32 to R34), branches and jumps (07 R133, R134), the register window (05 R100), and the system entries and
CTL functions but for STOP (13 R287 to R289). -/
namespace Sys2Proof.Machine

/-- LIT (02 R33): the payload stands until the target of the sequence. -/
def execLit (p : BitVec 25) (s : State) : Host.Outcome State Fault Refusal :=
  issue (.lit p) s fun s id _ =>
    s.modGroup id fun g => { g with preLit := some p, preStart := some g.epc, pc := g.pc + 4 }

/-- IX (02 R32): the payload stands until the target of the sequence. -/
def execIx (e : BitVec 1) (d : BitVec 2) (f : BitVec 1) (a : BitVec 2) (g : BitVec 1) (b : BitVec 2) (s : State) :
    Host.Outcome State Fault Refusal :=
  issue (.ix e d f a g b) s fun s id _ =>
    s.modGroup id fun x =>
      { x with preIx := some (0#16 ++ e ++ d ++ f ++ a ++ g ++ b), preStart := some x.epc, pc := x.pc + 4 }

/-- NOP (13 R288). -/
def execNop (s : State) : Host.Outcome State Fault Refusal := issue .nop s fun s id _ => retire s id

/-- YIELD (13 R288): not ready for the next 16 clocks of the pipe, so ready again in the 17th. -/
def execYield (s : State) : Host.Outcome State Fault Refusal :=
  issue .yield s fun s id _ =>
    let c := groupClk s id
    (retire s id).modGroup id fun g => { g with yieldUntil := c + 17 }

/-- BKPT (13 R288). -/
def execBkpt (s : State) : Host.Outcome State Fault Refusal :=
  issue .bkpt s fun s id g =>
    if g.em = 0 then retire s id
    else if g.dbg.bkptHalts then haltGroup (retire s id) id
    else raiseAll s id g .bkpt 0

/-- RTE (13 R289). -/
def execRte (s : State) : Host.Outcome State Fault Refusal := issue .rte s fun s id _ => returnTrap s id

/-- The target of a branch: disp19 words from the branch word (07 R133). -/
def branchTarget (pc : Dword) (p : BitVec 19) : Dword := pc + (p.signExtend 64 <<< 2)

/-- A branch, taken or not (07 R133). -/
def branch (s : State) (id : GroupId) (g : Group) (taken : Bool) (p : BitVec 19) : State :=
  if taken then retireTo s id (branchTarget g.pc p) else retire s id

/-- BRA (07 R133). -/
def execBra (h : BitVec 2) (p : BitVec 19) (s : State) : Host.Outcome State Fault Refusal :=
  issue (.bra h p) s fun s id g => branch s id g true p

/-- BRANY (07 R133). -/
def execBrany (k : BitVec 4) (h : BitVec 2) (p : BitVec 19) (s : State) : Host.Outcome State Fault Refusal :=
  issue (.brany k h p) s fun s id g => branch s id g (g.kreg k.toNat &&& g.em != 0) p

/-- BRALL (07 R133): taken when EM is empty. -/
def execBrall (k : BitVec 4) (h : BitVec 2) (p : BitVec 19) (s : State) : Host.Outcome State Fault Refusal :=
  issue (.brall k h p) s fun s id g => branch s id g (g.em &&& ~~~(g.kreg k.toNat) == 0) p

/-- BRNONE (07 R133): taken when EM is empty. -/
def execBrnone (k : BitVec 4) (h : BitVec 2) (p : BitVec 19) (s : State) : Host.Outcome State Fault Refusal :=
  issue (.brnone k h p) s fun s id g => branch s id g (g.kreg k.toNat &&& g.em == 0) p

/-- CALL (07 R133): s15 takes the address of the next word. -/
def execCall (h : BitVec 2) (p : BitVec 19) (s : State) : Host.Outcome State Fault Refusal :=
  issue (.call h p) s fun s id g => branch (s.modGroup id fun x => x.setS 15 (g.pc + 4)) id g true p

/-- A jump to the address in a scalar, with the link that an s destination asks for (07 R134). TLM of its ALN is EM, for a group instruction has no
failing lanes of its own (13 R284, log 55). -/
def jump (s : State) (id : GroupId) (g : Group) (d a : BitVec 7) : State :=
  let t := scalarOf s g a 1
  if t.extractLsb' 0 2 ≠ 0#2 then raiseAll s id g .aln t
  else retireTo (if scalarOk d then s.modGroup id (fun x => x.setS (d.toNat - 96) (g.pc + 4)) else s) id t

/-- JMPR (07 R134). -/
def execJmpr (d a : BitVec 7) (s : State) : Host.Outcome State Fault Refusal :=
  issue (.jmpr d a) s fun s id g => jump s id g d a

/-- RET (07 R134): a JMPR that writes no link. -/
def execRet (a : BitVec 7) (s : State) : Host.Outcome State Fault Refusal :=
  issue (.ret a) s fun s id g => jump s id g 112#7 a

/-- WINB (05 R100): a base that the view does not admit has trapped WIN before issue. -/
def execWinb (a : BitVec 7) (i : BitVec 11) (s : State) : Host.Outcome State Fault Refusal :=
  issue (.winb a i) s fun s id g =>
    retire (s.modGroup id fun x => { x with wb := BitVec.ofInt 9 (winbBase s g a i) }) id

/-- The EVAL of a system entry: the caller's d and code (13 R287). -/
def callValue (d : BitVec 7) (c : BitVec 18) : Dword := (d ++ c).setWidth 64

/-- A system entry that a group with active lanes makes: EPC is the following instruction (13 R287). -/
def systemEntry (s : State) (id : GroupId) (g : Group) (cause : Cause) (d : BitVec 7) (c : BitVec 18) : State :=
  if g.em = 0 then retire s id else takeTrap s id cause (callValue d c) g.em (g.pc + 4)

/-- SYSC (13 R287). -/
def execSysc (d : BitVec 7) (c : BitVec 18) (s : State) : Host.Outcome State Fault Refusal :=
  issue (.sysc d c) s fun s id g => systemEntry s id g .sysc d c

/-- HCALL (13 R287): PRIV in U mode. -/
def execHcall (d : BitVec 7) (c : BitVec 18) (s : State) : Host.Outcome State Fault Refusal :=
  issue (.hcall d c) s fun s id g =>
    if g.em ≠ 0 ∧ g.mode = .u then raiseAll s id g .priv ((wordOf (.hcall d c)).setWidth 64)
    else systemEntry s id g .hcall d c

/-- TRAP (13 R287). -/
def execTrap (d : BitVec 7) (c : BitVec 18) (s : State) : Host.Outcome State Fault Refusal :=
  issue (.trap d c) s fun s id g => systemEntry s id g .trap d c

end Sys2Proof.Machine
end

