-- ==== Sys2Proof/Machine/CopyEngine.lean ====
section
/-! DEFINITION. The copy engine: records and their checks (04 R73 to R78), the run of a copy (04 R74 to R76, R81, R86, R89), completions
(04 R79), queues (04 R84, R85), the fault log (04 R87), XFRES (04 R88), and the instructions XCP, XCPD and YIELDC (04 R90 to R92). -/
namespace Sys2Proof.Machine

/-- A field of a record: n bytes at an offset. -/
def recU (r : BitVec 512) (off n : Nat) : Nat := r.toNat / 2 ^ (8 * off) % 2 ^ (8 * n)
/-- A signed field of a record. -/
def recI (r : BitVec 512) (off n : Nat) : Int := sextInt (8 * n) (recU r off n)
/-- Replace n bytes of a record at an offset. -/
def recSet (r : BitVec 512) (off n v : Nat) : BitVec 512 :=
  (r &&& ~~~(BitVec.ofNat 512 (2 ^ (8 * n) - 1) <<< (8 * off))) ||| (BitVec.ofNat 512 (v % 2 ^ (8 * n)) <<< (8 * off))
/-- A record from 64 bytes. -/
def recOf (l : List Byte) : BitVec 512 := BitVec.ofNat 512 (leNat l)

def recKind (r : BitVec 512) : Nat := recU r 0 1
def recSsp (r : BitVec 512) : Bool := recU r 1 1 % 2 == 1
def recDsp (r : BitVec 512) : Bool := recU r 1 1 / 2 % 2 == 1
def recCkind (r : BitVec 512) : Nat := recU r 2 1
def recCidx (r : BitVec 512) : Nat := recU r 3 1
def recSfmt (r : BitVec 512) : Nat := recU r 4 1
def recDfmt (r : BitVec 512) : Nat := recU r 5 1
def recLen (r : BitVec 512) : Nat := recU r 28 4
def recCnt1 (r : BitVec 512) : Nat := recU r 32 2
def recCnt2 (r : BitVec 512) : Nat := recU r 34 2
def recSrc (r : BitVec 512) : VAddr := BitVec.ofNat 80 (recU r 8 10)
def recDst (r : BitVec 512) : VAddr := BitVec.ofNat 80 (recU r 18 10)
def recResume (r : BitVec 512) : Nat := recU r 60 3
def recStatus (r : BitVec 512) : Nat := recU r 63 1 % 128

/-- ROWS of a record (04 Table 2). -/
def recRows (r : BitVec 512) : Nat :=
  match recKind r with
  | 0 => 1
  | 2 | 3 => recCnt1 r * recCnt2 r
  | _ => recCnt1 r

/-- The pairs of different formats that convert (04 R75). -/
def pairOk (s d : Nat) : Bool :=
  (decide (1 ≤ s ∧ s ≤ 5) && decide (1 ≤ d ∧ d ≤ 5)) || (decide (6 ≤ s) && d == 1) || (s == 1 && decide (6 ≤ d)) ||
  (s == 7 && d == 6)

/-- A record is malformed (04 R77); inQueue says that it comes from a copy queue. -/
def recBad (r : BitVec 512) (inQueue : Bool) : Bool :=
  let kind := recKind r
  let sf := recSfmt r
  let df := recDfmt r
  let ck := recCkind r
  let conv := recU r 6 1
  let fmts := sf != 0 || df != 0
  let zs := codeBytes sf
  let zd := codeBytes df
  let odd := fun (x z : Nat) => x % z != 0
  decide (4 < kind) || decide (4 < ck) || decide (7 < sf) || decide (7 < df) ||
  decide (4 ≤ recU r 1 1) || decide (8 ≤ conv) || recU r 7 1 != 0 || conv % 4 == 3 ||
  (if ck = 1 ∨ ck = 4 then decide (15 < recCidx r) else recCidx r != 0) ||
  ((sf == 0) != (df == 0)) || (fmts && sf != df && !pairOk sf df) ||
  (kind == 3 && (fmts || recSsp r || odd (recLen r) 4)) ||
  (kind == 4 && recCnt2 r != 1) ||
  decide (16777215 < recRows r) ||
  (fmts &&
    (odd (if recSsp r then recU r 8 4 else recU r 8 8) zs || odd (if recDsp r then recU r 18 4 else recU r 18 8) zd ||
     (decide (1 ≤ kind ∧ kind ≤ 2) && (odd (recU r 36 4) zs || odd (recU r 44 4) zd)) ||
     (kind == 2 && (odd (recU r 40 4) zs || odd (recU r 48 4) zd)) ||
     (kind == 4 && (odd (recU r 40 4) zs || odd (recU r 44 4) zd || odd (recU r 36 4) 4)))) ||
  (ck == 3 && (odd (recU r 52 4) 4 || inQueue)) ||
  (ck == 4 && !recDsp r) ||
  (recStatus r == 2 && decide (recRows r < recResume r))

/-- The byte count B of a copy (04 R75). -/
def recBytes64 (r : BitVec 512) : Nat := recRows r * recLen r * codeBytes (recDfmt r)

/-- The owner tag (04 R88). -/
def ownerTag (id : GroupId) (g : Group) : Nat := coreOf id % 256 + slotOf id * 256 + g.part % 64 * 8192

/-- The team of a copy, wherever it is: that of its owner group for XCP and XCPD, else the team bound to the queue (04 R76). Where that team
exists nowhere the specification says nothing: scratchpad then reads zero, and writes, barrier bytes and commits are dropped (log 55). -/
def copyRef (s : State) (c : Copy) : Option TeamRef := c.teamUid.bind (refOfTeam s)

/-- GSTAT.SPOV after a scratchpad access of a copy: in the issuing group, or in group 0 of the bound team (04 R76). -/
def copySpov (s : State) (c : Copy) (ref : Option TeamRef) (gap : Bool) : State :=
  if !gap then s
  else if c.source ≤ 1 then (match c.owner with | some u => modUid s u fun g => { g with spov := true } | none => s)
  else match ref with
    | some (.live k) => { s with groups := s.groups.map fun e => if e.2.team == k && e.2.gid == 0 then (e.1, { e.2 with spov := true }) else e }
    | some (.saved i) => { s with images := s.images.modify i fun im =>
        { im with groups := im.groups.map fun e => if e.2.gid == 0 then (e.1, { e.2 with spov := true }) else e } }
    | none => s

/-- The byte displacement of row r at a side (04 Table 2): the strides at byte offsets s1 and s2 of the record. -/
def rowStep (r : BitVec 512) (row s1 s2 : Nat) : Int :=
  match recKind r with
  | 1 => row * recI r s1 4
  | 2 | 3 => (row % recCnt1 r : Nat) * recI r s1 4 + (row / recCnt1 r : Nat) * recI r s2 4
  | _ => 0

/-- A scratchpad offset after a displacement. -/
def offAdd (o : Nat) (n : Int) : Nat := (((o : Int) + n) % (2 ^ 32 : Int)).toNat

/-- The elements of a row as they are written (04 R75): converted where the formats differ; the generator advances once for every 32
elements. -/
def convertRow (s : State) (core : Nat) (r : BitVec 512) (l : List Byte) : State × List Byte :=
  let sf := recSfmt r
  let df := recDfmt r
  if sf = df then (s, l)
  else
    let rnd := recU r 6 1 % 4
    let nsat := recU r 6 1 / 4 % 2 == 1
    let zs := codeBytes sf
    (List.range (recLen r)).foldl (fun acc e =>
      let s1 := if rnd = 2 ∧ e % 32 = 0 then acc.1.modCore core fun c => { c with genx := genStep c.genx } else acc.1
      let w := (s1.core core).genx
      let y := (convertE sf df rnd nsat (if rnd = 2 then srDraw w e else 0) false (leField l (e * zs) zs)).1
      (s1, acc.2 ++ leBytes (codeBytes df) y)) (s, [])

/-- The source bytes of a row, with the state after the read, the address of the first uncorrectable byte, and the fault. The bytes that an
uncorrectable index would select are uncorrectable, and a byte of scratchpad has its bare team offset for an address (04 R89, log 55). -/
def rowSource (s : State) (c : Copy) (ref : Option TeamRef) (row : Nat) :
    State × Except (Cause × VAddr) (List Byte × Option VAddr) :=
  let r := c.record
  let n := recLen r * codeBytes (recSfmt r)
  if recKind r = 3 then (s, .ok ((List.range n).map fun k => BitVec.ofNat 8 (recU r (8 + k % 4) 1), none))
  else
    let idxOff := offAdd (recU r 36 4) (4 * row)
    let (s1, step, lost) : State × Int × Bool :=
      if recKind r = 4 then
        match ref with
        | some t =>
          let (l, bad) := refClean s t idxOff 4
          (copySpov s c ref (refGap s t idxOff 4), (leNat l : Int) * recI r 40 4, bad.isSome)
        | none => (s, 0, false)
      else (s, rowStep r row 36 40, false)
    if lost then (s1, .ok (List.replicate n 0, if n = 0 then none else some (BitVec.ofNat 80 idxOff)))
    else if recSsp r then
      let o := offAdd (recU r 8 4) step
      match ref with
      | some t =>
        let (l, bad) := refClean s1 t o n
        (copySpov s1 c ref (refGap s1 t o n), .ok (l, bad.map fun (i : Nat) => BitVec.ofNat 80 (offAdd o i)))
      | none => (s1, .ok (List.replicate n 0, none))
    else
      let va := vaAdd (recSrc r) step
      let s2 := if isLocal s1 va then linkNote s1 c.part true c.mode va else { s1 with sent := s1.sent ++ [.read va n] }
      (s2, unitRead s2 c.part true c.mode va n)

/-- The lower of two uncorrectable bytes, each with the direction of its access, by their 80-bit addresses; of equal ones that of the read
(04 Table 10, log 55). -/
def lowerErr : Option (VAddr × Nat) → Option (VAddr × Nat) → Option (VAddr × Nat)
  | none, b => b
  | a, none => a
  | some a, some b => some (if b.1.toNat < a.1.toNat ∨ (b.1 = a.1 ∧ b.2 < a.2) then b else a)

/-- Run one row of a copy (04 R74): the state, its lowest uncorrectable byte with the direction, and what halts it: the cause, the address and
the direction (0 read, 1 write). A row is read whole before it is written, so that of a read and a write that both fail the read is reported
(log 55). A row whose write then fails has drawn from the generator, and draws again when the copy resumes (log 37). A write to the pool while its
link is down is uncorrectable (15 R327). -/
def copyRow (s : State) (c : Copy) (core : Nat) (ref : Option TeamRef) (row : Nat) :
    State × Option (VAddr × Nat) × Option (Cause × VAddr × Nat) :=
  match rowSource s c ref row with
  | (s1, .error (k, va)) => ({ s1 with fresh := s1.fresh + 1 }, none, some (k, va, 0))
  | (s1, .ok (l, lost)) =>
    let bad := lost.map fun va => (va, 0)
    let (s2, out) := convertRow { s1 with fresh := s1.fresh + 1 } core c.record l
    let step := if recKind c.record = 4 then (row : Int) * recI c.record 44 4 else rowStep c.record row 44 48
    if recDsp c.record then
      let o := offAdd (recU c.record 18 4) step
      match ref with
      | some t => (copySpov (refWrite s2 t o out) c ref (refGap s2 t o out.length), bad, none)
      | none => (s2, bad, none)
    else
      match unitWrite s2 c.part true c.mode (vaAdd (recDst c.record) step) out with
      | (s3, none) =>
        let va := vaAdd (recDst c.record) step
        (s3, lowerErr bad (if linkDown s3 va && !out.isEmpty then some (va, 1) else none), none)
      | (s3, some (k, va)) => (s3, bad, some (k, va, 1))

/-- Run rows from one on, in ascending order: the state, the lowest uncorrectable byte met, and where and why it halts. -/
def copyRows (core : Nat) (c : Copy) (ref : Option TeamRef) : Nat → Nat → State → Option (VAddr × Nat) →
    State × Option (VAddr × Nat) × Option (Nat × Cause × VAddr × Nat)
  | 0, _, s, bad => (s, bad, none)
  | left + 1, row, s, bad =>
    match copyRow s c core ref row with
    | (s1, b, none) => copyRows core c ref left (row + 1) s1 (lowerErr bad b)
    | (s1, b, some (k, va, d)) => (s1, lowerErr bad b, some (row, k, va, d))

/-- The run of a copy from the row at which it stands (04 R74), with the lowest uncorrectable byte that it has met, before a halt too
(04 R89): nothing moves when ROWS or LEN is 0. -/
def copyRun (s : State) (core : Nat) (c : Copy) : State × Option (VAddr × Nat) × Option (Nat × Cause × VAddr × Nat) :=
  let rows := if recLen c.record = 0 then 0 else recRows c.record
  copyRows core c (copyRef s c) (rows - c.row) c.row s c.err

/-- A fault-log entry (04 Table 10). -/
def logBytes (r : BitVec 512) (va : VAddr) (cause : BitVec 8) (source state dir home : Nat) : BitVec 1024 :=
  BitVec.ofNat 1024 (leNat (leBytes 64 r.toNat ++ leBytes 10 va.toNat ++ leBytes 1 cause.toNat ++ leBytes 1 source ++ leBytes 1 state ++
    leBytes 1 dir ++ leBytes 2 0 ++ leBytes 4 home))

/-- An entry waits to be written to the core's log (04 R86, R87). -/
def logEntry (s : State) (core part : Nat) (b : BitVec 1024) (copy : Option Copy) : State :=
  s.modCore core fun x => { x with logWait := x.logWait ++ [⟨b, part, copy⟩] }

/-- A copy queue of a core. -/
def Core.queue (c : Core) (q : Nat) : CopyQueue := (tabGet c.xq q).getD CopyQueue.reset
/-- Change a copy queue. -/
def modXq (s : State) (core q : Nat) (f : CopyQueue → CopyQueue) : State :=
  s.modCore core fun c => { c with xq := tabSet c.xq q (f (c.queue q)) }

/-- The offset of a slot (04 R85). -/
def xqSlot (q : CopyQueue) (w : Nat) : Nat := q.base.toNat + 64 + 64 * (w % 2 ^ q.logn.toNat)

/-- What a log entry names as HOME (04 Table 10). -/
def homeField (c : Copy) : Nat := if c.source = 0 then 0 else if c.source = 1 then c.home else c.slotNum

/-- A queue stops at a fault on its own memory, which is logged (04 R84). 04 Table 10 gives of such an entry only DIR 2; the rest is log 55's:
RECORD zero and STATE 0, DIR 1 for a home or RIDX that cannot be written, HOME 0 for the header. -/
def queueFault (s : State) (core q part : Nat) (cause : Cause) (va : VAddr) (dir home : Nat) : State :=
  logEntry (modXq s core q fun x => { x with faulted := true }) core part (logBytes 0 va cause.code (2 + q) 0 dir home) none

/-- A write to a queue's own memory: the state, and whether it was made; where it fails the queue stops. -/
def queueWrite (s : State) (core q part off home : Nat) (l : List Byte) : State × Bool :=
  match unitWrite s part false .s (mkVa s.devNum.toNat 0 off) l with
  | (s1, none) => (s1, true)
  | (_, some (c, va)) => (queueFault s core q part c va 1 home, false)

/-- A read of a queue's own memory: uncorrectable bytes stop the queue as a failed check does (log 55). -/
def xqRead (s : State) (part off n : Nat) : Except (Cause × VAddr) (List Byte) :=
  match unitRead s part false .s (mkVa s.devNum.toNat 0 off) n with
  | .error e => .error e
  | .ok (_, some va) => .error (.ecc, va)
  | .ok (l, none) => .ok l

/-- The engine writes OWNER, RESUME and STATUS back to a record's home (04 R78): the state, and whether the write was made; that of a queue
record lies where the slot lay when it was taken. -/
def writeHome (s : State) (core : Nat) (c : Copy) : State × Bool :=
  let l := (leBytes 64 c.record.toNat).drop 56
  if c.source = 0 then (s, true)
  else if c.source = 1 then
    (match copyRef s c with
     | some t => copySpov (refWrite s t (offAdd c.home 56) l) c (some t) (refGap s t (offAdd c.home 56) 8)
     | none => s, true)
  else queueWrite s core (c.source - 2) c.part (c.slotOff + 56) c.slotNum l

/-- RIDX passes the head-most finished slots, one write each (04 R85), into the header that XQCFG names now. A write that fails stops the
queue and is made again when the queue restarts (log 55). -/
def advanceRidx (s : State) (core q : Nat) : Nat → State
  | 0 => s
  | fuel + 1 =>
    let x := (s.core core).queue q
    if x.done.contains x.ridx then
      match queueWrite s core q x.part (x.base.toNat + 8) 0 (leBytes 8 (x.ridx + 1)) with
      | (s1, false) => s1
      | (s1, true) =>
        advanceRidx (modXq s1 core q fun y => { y with done := y.done.filter (· != x.ridx), ridx := x.ridx + 1,
                                                       walker := y.walker.filter (fun e => e.1 != x.ridx) }) core q fuel
    else s

/-- All of RIDX's outstanding writes. -/
def syncRidx (s : State) (core q : Nat) : State := advanceRidx s core q ((s.core core).queue q).done.length

/-- A slot of a queue has finished (04 R85). -/
def finishSlot (s : State) (core : Nat) (c : Copy) : State :=
  if c.source ≤ 1 then s
  else
    syncRidx (modXq s core (c.source - 2) fun x => { x with done := x.done ++ [c.home], errs := x.errs.filter (fun e => e.1 != c.home) })
      core (c.source - 2)

/-- The records in flight on a core: running, or halted and waiting for the log (04 R83). -/
def inFlight (c : Core) : Nat := c.copies.length + (c.logWait.filter (fun e => e.copy.isSome)).length
/-- Those of them that queues brought. -/
def inFlightQ (c : Core) : Nat :=
  (c.copies.filter (fun x => decide (2 ≤ x.source))).length +
  (c.logWait.filter (fun e => (e.copy.map (fun (x : Copy) => decide (2 ≤ x.source))).getD false)).length
/-- READY of a slot, or what its read meets (04 R85). -/
def slotReady (s : State) (core q w : Nat) : Except (Cause × VAddr) Bool :=
  let x := (s.core core).queue q
  (xqRead s x.part (xqSlot x w + 63) 1).map fun l => decide (128 ≤ byteAt l 0)

/-- The slot of a queue that the engine may take now (04 R85): one that stopped the queue and has been made READY again, else the next in
order; a slot that cannot be read is taken up too, and its fault stops the queue. -/
def queueHead (s : State) (core q : Nat) : Option Nat :=
  let x := (s.core core).queue q
  if !x.en || x.faulted then none
  else
    (if x.halted.isEmpty then [x.next].filter (fun w => decide (w < x.ridx + 2 ^ x.logn.toNat)) else x.halted).find?
      fun w => match slotReady s core q w with | .ok b => b | .error _ => true

/-- A source that has a record to start: 0 for XCP and XCPD, 1 + q for queue q (04 R83). -/
def sourceReady (s : State) (core src : Nat) : Bool :=
  if src = 0 then
    !(s.core core).resumed.isEmpty || s.groups.any fun e => coreOf e.1 == core && !isSeq e.1 &&
      (match e.2.wait with | .room _ => true | _ => false)
  else decide (inFlightQ (s.core core) < 224) && (queueHead s core (src - 1)).isSome

/-- The sources that stand before one in the engine's round and have a record to start (04 R83). -/
def turnAhead (s : State) (core src : Nat) : List Nat :=
  (((List.range 8).map fun k => ((s.core core).served + 1 + k) % 9).takeWhile (· != src)).filter (sourceReady s core)

/-- Room for one more record of XCP or XCPD: beside one for each source whose turn comes first (04 R83). -/
def hasRoom (s : State) (core : Nat) : Bool := decide (inFlight (s.core core) + (turnAhead s core 0).length < 256)
/-- Room and turn for a record of a queue (04 R83). -/
def queueTurn (s : State) (core q : Nat) : Bool :=
  decide (inFlight (s.core core) < 256) && decide (inFlightQ (s.core core) < 224) && (turnAhead s core (1 + q)).isEmpty

/-- The first row of a record that is handed in (04 Table 4). -/
def firstRow (r : BitVec 512) : Nat := if recStatus r = 2 then recResume r else 0

/-- Accept a record: it is in flight from now on, and its source has been served (04 R83). The stamp of its translations (03 R67) is that of its
acceptance, for the whole of it and for as long as it is held (log 56). -/
def startCopy (s : State) (core : Nat) (c : Copy) : State :=
  { s.modCore core fun x =>
      { x with copies := x.copies ++ [{ c with id := s.nextCopy, row := firstRow c.record, stamp := s.qepoch }], served := c.source - 1 } with
    nextCopy := s.nextCopy + 1 }

/-- Copies that XFRES resumed start as room appears (04 R88). -/
def startResumed (s : State) (core : Nat) : State :=
  match (s.core core).resumed with
  | [] => s
  | c :: rest =>
    if hasRoom s core then startCopy (s.modCore core fun x => { x with resumed := rest }) core c else s

/-- A copy leaves the engine. -/
def dropCopy (s : State) (core id : Nat) : State :=
  s.modCore core fun x => { x with copies := x.copies.filter (fun c => c.id != id) }

/-- The last continuation copy of a group wakes its YIELDC, resident or saved, running or stopped (04 R92). -/
def wakeCont (g : Group) (cpc : Word) : Group :=
  match g.wait with
  | .continuation k =>
    let pc := g.pc.extractLsb' 32 32 ++ cpc
    let stoppedNow := g.dbg.halted || g.parked || g.stopped
    { (g.setK k (if g.cerr then 1 else 0)) with
      cerr := false, pc := pc, dm := 0, wait := .none, preLit := none, preIx := none, preStart := none, out := tick g.out,
      dbg := if stoppedNow then { g.dbg with pc := pc, done := 0 } else g.dbg }
  | _ => g

/-- One continuation copy of a group has completed (04 R79, R92). -/
def contDone (g : Group) (cpc : Word) (err : Bool) : Group :=
  let g1 := { g with xcnt := g.xcnt - 1, cerr := g.cerr || err }
  if g1.xcnt = 0 ∧ g.xcnt ≠ 0 then wakeCont g1 cpc else g1

/-- Deliver a completion (04 R79). A copy that moves no byte, with ROWS or LEN 0, commits the slot that holds its DST offset (log 55). -/
def complete (s : State) (c : Copy) (err : Bool) : State :=
  let r := c.record
  match recCkind r with
  | 1 =>
    (match copyRef s c with
     | some t => refBytes s t (recCidx r) (BitVec.ofNat 48 (recBytes64 r))
     | none => s)
  | 2 => unitSignal s c.evPart (BitVec.ofNat 32 (recU r 52 4))
  | 3 => (match c.owner with
          | some u => modUid s u fun g => contDone g (BitVec.ofNat 32 (recU r 52 4)) err
          | none => s)
  | 4 => (match copyRef s c with
          | some t => commitCopy s t (recCidx r) (recU r 18 4) c.walker
          | none => s)
  | _ => s

/-- A copy stays in flight where it stands, because its home could not be written, which has stopped its queue: it ends or halts once the
queue has restarted and the write is made (04 R80, R86, log 55). -/
def holdCopy (s : State) (core : Nat) (c : Copy) (row : Nat) (bad : Option (VAddr × Nat)) : State :=
  s.modCore core fun x => { x with copies := x.copies.map fun k => if k.id == c.id then { k with row := row, err := bad, held := true } else k }

/-- A copy that has run to its end (04 R78 to R80, R89): the home is written, then the completion delivered, the slot finished, and
uncorrectable data reported. -/
def finishCopy (s : State) (core : Nat) (c : Copy) (bad : Option (VAddr × Nat)) : State :=
  let r := recSet (recSet c.record 60 3 (recRows c.record)) 63 1 (if bad.isSome then 3 else 1)
  let c' := { c with record := r }
  match writeHome s core c' with
  | (s1, false) => holdCopy s1 core c (recRows c.record) bad
  | (s1, true) =>
    let s2 := finishSlot (complete (dropCopy s1 core c.id) c' bad.isSome) core c'
    startResumed (match bad with
      | some (va, dir) => logEntry s2 core c.part (logBytes r va Cause.ecc.code c.source 2 dir (homeField c)) none
      | none => s2) core

/-- A copy that halts (04 R86), with the lowest uncorrectable byte that it has met. -/
def haltCopy (s : State) (core : Nat) (c : Copy) (bad : Option (VAddr × Nat)) (row : Nat) (cause : Cause) (va : VAddr) (dir : Nat) : State :=
  let r := recSet (recSet c.record 60 3 row) 63 1 2
  let c' := { c with record := r, row := row, err := bad }
  match writeHome s core c' with
  | (s1, false) => holdCopy s1 core c row bad
  | (s1, true) =>
    let s2 := dropCopy s1 core c.id
    let s3 := if c.source ≤ 1 then s2 else modXq s2 core (c.source - 2) fun x =>
      { x with halted := x.halted ++ [c.home],
               errs := x.errs.filter (fun e => e.1 != c.home) ++ bad.toList.map fun e => (c.home, e) }
    logEntry s3 core c.part (logBytes r va cause.code c.source 0 dir (homeField c)) (some c')

/-- A malformed record with a home (04 R78, R89): BADREC is written back and logged; whether the home could be written. -/
def badRecord (s : State) (core : Nat) (c : Copy) : State × Bool :=
  let c' := { c with record := recSet c.record 63 1 4 }
  match writeHome s core c' with
  | (s1, false) => (s1, false)
  | (s1, true) => (logEntry s1 core c.part (logBytes c'.record 0 0 c.source 2 0 (homeField c)) none, true)

/-- A copy that a turn may move: not one whose home is still to be written while its queue is stopped by a fault on its own memory. -/
def movable (s : State) (core copy : Nat) : Option Copy :=
  (s.core core).copies.find? fun c => c.id == copy && (!c.held || !((s.core core).queue (c.source - 2)).faulted)

/-- COPY_COMPLETE (04 R79): a copy in flight whose accesses all pass runs to its end; any other is left to COPY_HALT. -/
def execCopyComplete (core copy : Nat) (s : State) : Host.Outcome State Fault Refusal :=
  match movable s core copy with
  | none => .next s
  | some c =>
    match copyRun s core c with
    | (s1, bad, none) => .next (finishCopy s1 core c bad)
    | (_, _, some _) => .next s

/-- COPY_HALT (04 R86): a copy in flight, one of whose accesses fails a check, halts there. -/
def execCopyHalt (core copy : Nat) (s : State) : Host.Outcome State Fault Refusal :=
  match movable s core copy with
  | none => .next s
  | some c =>
    match copyRun s core c with
    | (s1, bad, some (row, k, va, dir)) => .next (haltCopy s1 core c bad row k va dir)
    | (_, _, none) => .next s

/-- Take a slot whose READY bit is set (04 R85). A slot whose read meets uncorrectable bytes stops the queue with cause ECC, which the
specification does not settle (log 55). Its team is the one bound to the queue, and of a record that a walker wrote the home team of the job
(04 R76, 08 R186). -/
def takeSlot (s : State) (core q w : Nat) : State :=
  let x := (s.core core).queue q
  let n := w % 2 ^ x.logn.toNat
  match xqRead s x.part (xqSlot x w) 64 with
  | .error (c, va) => queueFault s core q x.part c va 2 n
  | .ok l =>
    let wk := x.walker.find? (fun e => e.1 == w)
    let r := recOf l
    let team := (wk.map (·.2.2)).orElse fun _ => boundUid s core x
    let c : Copy := { id := 0, record := r, source := 2 + q, home := w, slotOff := xqSlot x w, slotNum := n, row := 0,
                      mode := (wk.map (·.2.1)).getD .s, part := x.part, teamUid := team, owner := none,
                      evPart := (((team.bind (refOfTeam s)).bind (refTeam s)).map (·.part)).getD x.part,
                      walker := wk.isSome, stamp := 0,
                      err := if recStatus r = 2 then (x.errs.find? (fun e => e.1 == w)).map (·.2) else none, held := false }
    let took := fun (s : State) => modXq s core q fun y =>
      { y with halted := y.halted.filter (· != w), next := if y.halted.contains w then y.next else w + 1 }
    if recBad r true then
      match badRecord s core c with
      | (s1, false) => s1
      | (s1, true) => modXq (took s1) core q fun y => { y with halted := y.halted ++ [w] }
    else startCopy (took s) core c

/-- COPY_QUEUE_SLOT_TAKE (04 R83, R85): where it is the queue's turn and there is room, its slot is taken. -/
def execCopyQueueSlotTake (core queue : Nat) (s : State) : Host.Outcome State Fault Refusal :=
  match queueHead s core queue with
  | none => .next s
  | some w => if queueTurn s core queue then .next (startResumed (takeSlot s core queue w) core) else .next s

/-- The log is full, or disabled, which counts as full (04 R87). -/
def logFull (c : Core) : Bool := !c.flogEn || decide ((c.widx + 65536 - c.xfridx.toNat) % 65536 = 2 ^ c.flogLogn.toNat)

/-- FAULT_LOG_ENTRY_WRITE (04 R87): the oldest waiting entry, then WIDX; a write that fails clears XFLOG.EN and sets LBAD. What the engine kept
of an earlier entry of the same index, which RIDX has passed, is gone. -/
def execFaultLogEntryWrite (core : Nat) (s : State) : Host.Outcome State Fault Refusal :=
  let c := s.core core
  match c.logWait with
  | [] => .next s
  | e :: rest =>
    if logFull c then .next s
    else
      match (tableWrite s c.flogPart (c.flogBase.toNat + 128 + 128 * (c.widx % 2 ^ c.flogLogn.toNat)) (leBytes 128 e.bytes.toNat)).bind
          fun s1 => tableWrite s1 c.flogPart c.flogBase.toNat (leBytes 8 (c.widx + 1)) with
      | none => .next (s.modCore core fun c => { c with flogEn := false, lbad := true })
      | some s1 =>
        let s2 := s1.modCore core fun c =>
          { c with logWait := rest, widx := c.widx + 1,
                   halted := match e.copy with
                     | some k => if k.source ≤ 1 then c.halted.filter (fun h => h.entry != c.widx % 65536) ++ [⟨c.widx % 65536, k⟩] else c.halted
                     | none => c.halted }
        .next (startResumed s2 core)

/-- XQCFG (04 R84, Table 7): LOGN outside 4 to 12 discards the write; EN set restarts a queue stopped by a fault on its own memory, and
an engine that enables an idle queue, or restarts one whose header it has not yet read, goes on at the header's RIDX (log 19). A queue whose
BASE or LOGN changes while records of it are in flight keeps its indices, writes RIDX to the new header, and writes each home where its slot
was taken, which the specification leaves open (log 55); so does one with a halted slot and nothing in flight (log 19). The write binds the
queue to the team that TEAM names now (log 36). -/
def xqcfgWriteTo (v : Dword) (s : State) (id : GroupId) (g : Group) : State :=
  let core := coreOf id
  let q := (s.core core).xqsel.toNat
  let logn : BitVec 4 := v.extractLsb' 59 4
  if logn.toNat < 4 ∨ 12 < logn.toNat then s
  else
    let old := (s.core core).queue q
    let s1 := modXq s core q fun x =>
      { x with en := v.getLsbD 63, logn := logn, team := v.extractLsb' 54 5, base := v.extractLsb' 6 42 ++ 0#6, part := g.part,
               faulted := x.faulted && !v.getLsbD 63,
               bound := (((teamOn s core (v.extractLsb' 54 5).toNat).bind s.team?).map (·.uid)).orElse fun _ =>
                 if x.team = v.extractLsb' 54 5 then x.bound else none }
    let idle := !((s.core core).copies.any (fun c => c.source == 2 + q)) && old.halted.isEmpty
    if !v.getLsbD 63 then s1
    else if (!old.en || !old.synced) && idle then
      match xqRead s1 g.part (((s1.core core).queue q).base.toNat + 8) 8 with
      | .ok l => modXq s1 core q fun x => { x with ridx := leNat l, next := leNat l, done := [], synced := true }
      | .error (c, va) => queueFault (modXq s1 core q fun x => { x with synced := false }) core q g.part c va 2 0
    else syncRidx s1 core q

/-- XQCFG_WRITE (04 R84). -/
def execXqcfgWrite (v : BitVec 64) (s : State) : Host.Outcome State Fault Refusal := csrUnit 0x1D3 (xqcfgWriteTo v) s

/-- XFLOG (04 R87, Table 8). The engine goes on with its own count of entries whatever the header of a new BASE holds (log 55). -/
def xflogWriteTo (v : Dword) (s : State) (id : GroupId) (g : Group) : State :=
  let logn : BitVec 4 := v.extractLsb' 59 4
  if logn.toNat < 4 ∨ 12 < logn.toNat then s
  else s.modCore (coreOf id) fun c =>
    { c with flogEn := v.getLsbD 63, flogLogn := logn, flogBase := v.extractLsb' 7 41 ++ 0#7, flogPart := g.part,
             lbad := c.lbad && !v.getLsbD 63 }

/-- XFLOG_WRITE (04 R87). -/
def execXflogWrite (v : BitVec 64) (s : State) : Host.Outcome State Fault Refusal := csrUnit 0x1D0 (xflogWriteTo v) s

/-- The owner and the team that an entry's OWNER names: those kept with the entry while the tag stands as the engine wrote it, else the
group that holds the slot of the tag, if it is of the tag's partition and of the copy's (04 R88, 00 R3, log 35). -/
def resumeOwner (s : State) (h : Copy) (r : BitVec 512) : Option Nat × Option Nat :=
  let tag := recU r 56 4
  if tag = recU h.record 56 4 then (h.owner, h.teamUid)
  else match s.group? (tag % 256 * 32 + tag / 256 % 32) with
    | some g => if g.part = tag / 8192 % 64 ∧ g.part = h.part then (some g.uid, (s.team? g.team).map (·.uid)) else (none, none)
    | none => (none, none)

/-- XFRES (04 R88). Where the entry can be read and its STATE cannot be written, the write is ignored, and XFLOG.EN and LBAD stay as they
are (log 35). -/
def xfresWriteTo (v : Dword) (s : State) (id : GroupId) (_ : Group) : State :=
  let core := coreOf id
  let c := s.core core
  let i := v.toNat % 65536
  let inLog := decide ((i + 65536 - c.xfridx.toNat) % 65536 < (c.widx + 65536 - c.xfridx.toNat) % 65536)
  match c.halted.find? (fun h => h.entry == i) with
  | none => s
  | some h =>
    let at_ := c.flogBase.toNat + 128 + 128 * (i % 2 ^ c.flogLogn.toNat)
    match (if inLog then tableRead s c.flogPart at_ 128 else none) with
    | none => s
    | some l =>
      if 1 < byteAt l 75 ∨ byteAt l 76 ≠ 0 then s
      else
        match tableWrite s c.flogPart (at_ + 76) (leBytes 1 1) with
        | none => s
        | some s1 =>
          let r := recOf (l.take 64)
          let (owner, team) := resumeOwner s h.copy r
          let k : Copy := { h.copy with record := r, source := byteAt l 75, home := leField l 80 4, owner := owner, teamUid := team }
          let s2 := s1.modCore core fun c => { c with halted := c.halted.filter (fun x => x.entry != i) }
          if recBad r false then (if k.source = 1 then (badRecord s2 core k).1 else s2)
          else startResumed (s2.modCore core fun c => { c with resumed := c.resumed ++ [k] }) core

/-- XFRES (04 R88). -/
def execXfres (v : BitVec 64) (s : State) : Host.Outcome State Fault Refusal := csrUnit 0x1D5 (xfresWriteTo v) s

/-- SRSEED (06 Table 4): both pipes' generators and the copy engine's; on core 2c the drain converter's too. -/
def srseedWriteTo (v : Dword) (s : State) (id : GroupId) (_ : Group) : State :=
  let seed : Word := if v.extractLsb' 0 32 = 0#32 then 1 else v.extractLsb' 0 32
  let core := coreOf id
  let s1 := s.modCore core fun c => { c with gen0 := seed, gen1 := seed, genx := seed }
  if core % 2 = 0 then s1.modCluster (core / 2) fun c => { c with gend := seed } else s1

/-- SRSEED_WRITE (06 R115). -/
def execSrseedWrite (v : BitVec 64) (s : State) : Host.Outcome State Fault Refusal := csrUnit 0x1E0 (srseedWriteTo v) s

/-- A record that a group hands in, as a copy of its core. -/
def groupCopy (s : State) (id : GroupId) (g : Group) (r : BitVec 512) (source home : Nat) : Copy :=
  { id := 0, record := recSet r 56 4 (ownerTag id g), source := source, home := home, slotOff := 0, slotNum := 0, row := 0, mode := g.mode,
    part := g.part, teamUid := (s.team? g.team).map (·.uid), evPart := g.part, owner := some g.uid, walker := false, stamp := 0, err := none, held := false }

/-- Accept a record of a group: XCNT counts a continuation copy (04 R90). -/
def acceptCopy (s : State) (id : GroupId) (c : Copy) : State :=
  startCopy (if recCkind c.record = 3 then s.modGroup id fun g => { g with xcnt := g.xcnt + 1 } else s) (coreOf id) c

/-- XCP (04 R90). -/
def execXcp (d : BitVec 7) (h : BitVec 1) (s : State) : Host.Outcome State Fault Refusal :=
  issue (.xcp d h) s fun s id g =>
    if g.em = 0 then retire s id
    else
      let rec_ := BitVec.ofNat 512 (leNat ((List.range 8).flatMap fun k => leBytes 8 (readS s g (h.toNat * 8 + k) 1).toNat))
      let c := groupCopy s id g rec_ 0 0
      if recBad c.record false then retire (statusDst s id g d 4#32) id
      else if hasRoom s (coreOf id) then retire (statusDst (acceptCopy s id c) id g d 0#32) id
      else waitIn s id (.room [])

/-- Hand in the records of XCPD one after another, from the lanes not yet handled (04 R91): the state, the statuses, and whether all
are handled. Uncorrectable bytes of a record read as zero, and the group is to trap ECC (03 R55). -/
def handIn (id : GroupId) (g : Group) (off : State → Nat → Nat) : List Nat → State → List (Nat × Word) → State × List (Nat × Word) × Bool
  | [], s, st => (s, st, true)
  | l :: rest, s, st =>
    let o := off s l
    let (b, bad) := refClean s (.live g.team) o 64
    let c := groupCopy s id g (recOf b) 1 o
    let s0 := copySpov (match bad with
      | some i => s.modGroup id fun x => { x with eccNow := x.eccNow ++ [⟨1#64 <<< l, refWordOff s (.live g.team) (o + i)⟩] }
      | none => s) c (some (.live g.team)) (refGap s (.live g.team) o 64)
    if recBad c.record false then handIn id g off rest (badRecord s0 (coreOf id) c).1 (st ++ [(l, 4)])
    else if hasRoom s (coreOf id) then handIn id g off rest (acceptCopy s0 id c) (st ++ [(l, 0)])
    else (s, st, false)

/-- XCPD (04 R91). -/
def execXcpd (d a : BitVec 7) (s : State) : Host.Outcome State Fault Refusal :=
  issue (.xcpd d a) s fun s id g =>
    if g.em = 0 then retire s id
    else
      let vec := a.ult 96#7 || a == 113#7
      let handled := match g.wait with | .room l => l | _ => []
      let lanes := (if vec then g.active else g.active.take 1).filter fun l => !handled.any (fun e => e.1 == l)
      let (s1, st, fin) := handIn id g (fun s l => (src32 s id g g.pre (srcOpnd .a a 1) l).toNat / 64 * 64) lanes s handled
      if !fin then waitIn s1 id (.room st)
      else
        let val := fun l => match st.find? (fun e => e.1 == l) with
          | some e => e.2
          | none => (match st with | e :: _ => e.2 | [] => 0)
        retire (writeDst s1 id g g.pre (dstOpnd d 1) g.active fun l => (val l).setWidth 128) id

/-- YIELDC (04 R92). -/
def execYieldc (k : BitVec 4) (h : BitVec 2) (p : BitVec 19) (s : State) : Host.Outcome State Fault Refusal :=
  issue (.yieldc k h p) s fun s id _ =>
    let s1 := landAll s id
    match s1.group? id with
    | none => s1
    | some g =>
      if g.xcnt = 0 then
        retireTo (s1.modGroup id fun x => { x.setK k.toNat (if g.cerr then 1 else 0) with cerr := false }) id
          (g.pc + (p.signExtend 64 <<< 2))
      else waitIn s1 id (.continuation k.toNat)

end Sys2Proof.Machine
end

