-- ==== Sys2Proof/Machine/Dispatcher.lean ====
section
/-! DEFINITION. The dispatcher: operator streams (10 R217 to R223), posting (10 R226, R229), and MBRD, JPOST, EVSIG (10 R231 to R233). -/
namespace Sys2Proof.Machine

/-- The operator instruction in 16 bytes (10 Table 6). -/
def decodeOperator (l : List Byte) : Instr :=
  let o : OpFields :=
    { flags := BitVec.ofNat 8 (byteAt l 1), cls := BitVec.ofNat 4 (byteAt l 2), hint := BitVec.ofNat 4 (byteAt l 2 / 16),
      mbz := BitVec.ofNat 8 (byteAt l 3), da := BitVec.ofNat 16 (leField l 4 2), db := BitVec.ofNat 16 (leField l 6 2),
      dc := BitVec.ofNat 16 (leField l 8 2), aux := BitVec.ofNat 16 (leField l 10 2), wevt := BitVec.ofNat 16 (leField l 12 2),
      sevt := BitVec.ofNat 16 (leField l 14 2) }
  match byteAt l 0 with
  | 0x00 => .operatorNop o
  | 0x01 => .operatorGemm o
  | 0x02 => .operatorAdd o
  | 0x03 => .operatorBias o
  | 0x04 => .operatorAct o
  | 0x05 => .operatorRnorm o
  | 0x06 => .operatorSoftmax o
  | 0x07 => .operatorCopy o
  | 0x08 => .operatorAllred o
  | 0x09 => .operatorAlltoall o
  | 0x0A => .operatorWait o
  | 0x0B => .operatorSig o
  | 0x0C => .operatorSel o
  | 0x0D => .operatorCall o
  | 0x0E => .operatorFence o
  | 0x0F => .operatorEnd o
  | n => .operatorReserved (BitVec.ofNat 8 n) o

/-- A stream of a partition. -/
def findStream (s : State) (part id : Nat) : Option Stream := (s.part part).streams.find? fun x => x.id == id
/-- Change a stream. -/
def modStream (s : State) (part id : Nat) (f : Stream → Stream) : State :=
  s.modPart part fun p => { p with streams := p.streams.map fun x => if x.id == id then f x else x }

/-- A stream is complete: it has ended, nothing of it is left to run, and it carries no error to report (10 R222). -/
def streamDone (x : Stream) : Bool := x.ended && x.ops.all (·.complete) && x.error == 0

/-- Complete streams leave their dispatcher. -/
def pruneStreams (s : State) (part : Nat) : State :=
  s.modPart part fun p => { p with streams := p.streams.filter fun x => !streamDone x }

/-- A stream stops at an error (10 R223). -/
def streamError (s : State) (part id : Nat) (code : BitVec 8) : State :=
  modStream s part id fun x => { x with levels := [], ended := true, error := code }

/-- The current level ends; the RUNOPS level's end ends the stream (10 R222). -/
def endLevel (s : State) (part id : Nat) : State :=
  modStream s part id fun x => { x with levels := x.levels.drop 1, ended := decide (x.levels.length ≤ 1) }

/-- An operator instruction has been decoded: the next follows (10 Table 18 OPSEQ). -/
def nextOp (s : State) (part id : Nat) : State :=
  modStream s part id fun x =>
    { x with seq := x.seq + 1, levels := match x.levels with
        | l :: r => { l with pos := l.pos + 1 } :: r
        | [] => [] }

/-- Decode an operator of the stream in turn: a must-be-zero bit is OPS_RES (10 Table 13), and else its own effect follows. -/
def decodeStep (o : OpFields) (f : State → Nat → Nat → Stream → State) (s : State) : Host.Outcome State Fault Refusal :=
  match findStream s s.curPart s.curStream with
  | none => .next s
  | some st =>
    if st.ended then .next s
    else if o.mbz ≠ 0 ∨ o.flags.extractLsb' 2 6 ≠ 0#6 then .next (streamError s s.curPart s.curStream 0x41)
    else .next (f s s.curPart s.curStream st)

/-- The index lies in the partition's named range (10 R228). -/
def namedEvt (s : State) (part : Nat) (e : BitVec 16) : Bool := evtNamed (s.part part) e.toNat

/-- A tensor descriptor: base, rows, columns (10 Table 9), or the stream error it gives. -/
def readDesc (s : State) (part : Nat) (i : BitVec 16) : Except (BitVec 8) (VAddr × Nat × Nat) :=
  let p := s.part part
  if !p.tdEn then .error 0x42
  else if 2 ^ p.tdLog.toNat ≤ i.toNat then .error 0x43
  else match tableRead s part (p.tdBase.toNat + 32 * i.toNat) 32 with
    | none => .error 0x47
    | some l =>
      let rows := leField l 12 4
      let cols := leField l 16 4
      if byteAt l 11 ≠ 0 ∨ 7 < byteAt l 10 ∨ rows = 0 ∨ 2 ^ 31 ≤ rows ∨ cols = 0 ∨ 2 ^ 31 ≤ cols then .error 0x43
      else .ok (BitVec.ofNat 80 (leField l 0 10), rows, cols)

/-- What a compute operator's tables say (10 R218). -/
structure OpShape where
  dep : Nat
  tm : Nat
  tn : Nat
  tk : Nat
  card : Nat
  phi : Nat
  target : Nat
  umode : Nat
  rows : Nat
  cols : Nat
  k : Nat
  deriving DecidableEq, Repr

/-- Read the tables of a compute operator, in the order in which its decoding comes to them (10 Table 13; log 20). -/
def readShape (s : State) (part : Nat) (opc : Nat) (o : OpFields) : Except (BitVec 8) OpShape :=
  let p := s.part part
  if !p.opEn || !p.tdEn || !p.jcEn then .error 0x42
  else match tableRead s part (p.opBase.toNat + 32 * (opc * 16 + o.cls.toNat)) 32 with
    | none => .error 0x47
    | some l =>
      let tm := leField l 4 2
      let tn := leField l 6 2
      let tk := leField l 8 2
      let card := leField l 10 2
      if byteAt l 0 ≠ 1 ∨ 3 < byteAt l 1 ∨ leField l 2 2 ≠ 0 ∨ leField l 14 18 ≠ 0 ∨ tm = 0 ∨ tn = 0 ∨ tk % 128 ≠ 0 then .error 0x42
      else match readDesc s part o.da, readDesc s part o.db, readDesc s part o.dc with
        | .error e, _, _ => .error e
        | _, .error e, _ => .error e
        | _, _, .error e => .error e
        | .ok (_, _, k), .ok _, .ok (_, rows, cols) =>
          if card = 0xFFFF ∨ 2 ^ p.jcLog.toNat ≤ card then .error 0x48
          else match tableRead s part (p.jcBase.toNat + 32 * card) 32 with
            | none => .error 0x47
            | some c =>
              if !cardValid c || decide (16 ≤ byteAt c 1) then .error 0x48
              else .ok ⟨byteAt l 1, tm, tn, tk, card, leField l 12 2, byteAt c 0, byteAt c 1 / 2 % 2, rows, cols, k⟩

/-- ⌈a / b⌉. -/
def ceilDiv (a b : Nat) : Nat := (a + b - 1) / b

/-- The jobs of an operator in enumeration order (10 R219). -/
def opJobs (h : OpShape) : List (Nat × Nat × Nat) :=
  (List.range (ceilDiv h.rows h.tm)).flatMap fun r =>
    (List.range (ceilDiv h.cols h.tn)).flatMap fun c =>
      (List.range (if h.tk = 0 then 1 else ceilDiv h.k h.tk)).map fun k => (r, c, k)

/-- KSTART and KEND of a job (10 R219). -/
def kRuns (h : OpShape) (k : Nat) : Nat × Nat :=
  if h.tk = 0 then (0, ceilDiv h.k 128) else (k * h.tk / 128, ceilDiv (min ((k + 1) * h.tk) h.k) 128)

/-- Take entries of the pool (10 R221): which are taken is the dispatcher's choice (log 14). -/
def pickPool : Nat → Nat → List Nat → List Nat
  | 0, _, _ => []
  | n + 1, fresh, free =>
    match free[Config.poolPick fresh % free.length]? with
    | none => []
    | some i => i :: pickPool n (fresh + 1) (free.filter (· != i))

/-- The jobs of the previous compute operator on which a job depends (10 Table 12). -/
def prevJobs (p : Partition) (id : Nat) (prev : Option PrevOp) (h : OpShape) (r c : Nat) : List Dep :=
  match prev with
  | none => []
  | some q =>
    let rule := if h.dep = 1 ∧ ¬(q.tm = h.tm ∧ q.tn = h.tn ∧ q.rows = h.rows ∧ q.cols = h.cols) then 3
                else if h.dep = 2 ∧ ¬(q.tm = h.tm ∧ q.rows = h.rows) then 3 else h.dep
    if rule = 0 then []
    else ((p.jobs.filter fun j => j.stream == id && j.seq == q.seq && (rule == 3 || j.r == r) && (rule != 1 || j.c == c)).map
      fun j => .job j.seq j.r j.c j.kk)

/-- The record of a job (10 Table 18). -/
def jobRecord (s : State) (h : OpShape) (o : OpFields) (seq r c k done : Nat) : BitVec 256 :=
  BitVec.ofNat 256 (leNat (leBytes 2 h.card ++ leBytes 2 h.umode ++ leBytes 4 seq ++ leBytes 2 r ++ leBytes 2 c ++
    leBytes 2 (kRuns h k).1 ++ leBytes 2 (kRuns h k).2 ++ leBytes 2 o.da.toNat ++ leBytes 2 o.db.toNat ++ leBytes 2 o.dc.toNat ++
    leBytes 2 0 ++ leBytes 4 (handleOf s done 2).toNat ++ leBytes 2 o.aux.toNat ++ leBytes 2 h.phi))

/-- Enter the jobs of an operator, with their dependence counts and completion events (10 R220, R221). -/
def enterJobs (s : State) (part id : Nat) (st : Stream) (h : OpShape) (o : OpFields) (hint : BitVec 4) (common : List Dep)
    (picks : List Nat) : State :=
  ((opJobs h).zipIdx).foldl (fun s e =>
    let (r, c, k) := e.1
    let dep := (picks[2 * e.2]?).getD 0
    let done := (picks[2 * e.2 + 1]?).getD 0
    let deps := (if k = 0 then prevJobs (s.part part) id st.prev h r c else [.job st.seq r c (k - 1)]) ++ common
    let j : TileJob :=
      { stream := id, seq := st.seq, r := r, c := c, kk := k, deps := deps, depEvt := dep, doneEvt := done,
        record := jobRecord s h o st.seq r c k done, target := h.target, hint := hint, phase := 0 }
    let s1 := { s.modPart part fun p => { p with jobs := p.jobs ++ [j], poolUsed := dep :: done :: p.poolUsed } with
      events := storeSet (storeSet s.events dep (BitVec.ofNat 31 deps.length)) done 1 }
    if deps.isEmpty then readyJob s1 part dep else s1) s

/-- A compute operator (10 R218 to R221): an error stops the stream; while the pool lacks entries nothing is decoded. -/
def compute (opc : Nat) (o : OpFields) (s : State) (part id : Nat) (st : Stream) : State :=
  match readShape s part opc o with
  | .error e => streamError s part id e
  | .ok h =>
    let p := s.part part
    let n := (opJobs h).length
    let wen := o.flags.getLsbD 0
    let sen := o.flags.getLsbD 1
    if (wen && !namedEvt s part o.wevt) || (sen && !namedEvt s part o.sevt) then streamError s part id 0x44
    else if 2 ^ 24 < n ∨ p.evDpn.toNat < 2 * n then streamError s part id 0x45
    else
      let lo := p.evLo.toNat + (p.evN.toNat - p.evDpn.toNat)
      let free := ((List.range p.evDpn.toNat).map (lo + ·)).filter fun i => !p.poolUsed.contains i
      if free.length < 2 * n then s
      else
        let hint : BitVec 4 := if o.hint.ult 7#4 then o.hint else 0
        let fenced := (st.ops.filter fun q => !q.complete && (match st.fence with | some f => decide (q.seq < f) | none => false)).map
          fun q => Dep.op q.seq
        let common := fenced ++ st.waits.map Dep.event ++
          (if wen && storeGet s.events o.wevt.toNat != 0 then [.event o.wevt.toNat] else [])
        let op : OpRec := { seq := st.seq, sig := if sen then some o.sevt.toNat else none, hint := hint, left := n, after := false,
                            evs := [], complete := false, started := false,
                            held := false }
        let s1 := modStream s part id fun x => { x with ops := x.ops ++ [op], prev := some ⟨st.seq, h.tm, h.tn, h.rows, h.cols⟩ }
        let s2 := enterJobs { s1 with fresh := s.fresh + 2 * n } part id st h o hint common (pickPool (2 * n) s.fresh free)
        nextOp s2 part id

/-- OPERATOR_NOP (10 Table 7). -/
def execOperatorNop (o : OpFields) (s : State) : Host.Outcome State Fault Refusal := decodeStep o (fun s p i _ => nextOp s p i) s
/-- GEMM (10 R219). -/
def execOperatorGemm (o : OpFields) (s : State) : Host.Outcome State Fault Refusal := decodeStep o (compute 1 o) s
/-- ADD (10 R219). -/
def execOperatorAdd (o : OpFields) (s : State) : Host.Outcome State Fault Refusal := decodeStep o (compute 2 o) s
/-- BIAS (10 R219). -/
def execOperatorBias (o : OpFields) (s : State) : Host.Outcome State Fault Refusal := decodeStep o (compute 3 o) s
/-- ACT (10 R219). -/
def execOperatorAct (o : OpFields) (s : State) : Host.Outcome State Fault Refusal := decodeStep o (compute 4 o) s
/-- RNORM (10 R219). -/
def execOperatorRnorm (o : OpFields) (s : State) : Host.Outcome State Fault Refusal := decodeStep o (compute 5 o) s
/-- SOFTMAX (10 R219). -/
def execOperatorSoftmax (o : OpFields) (s : State) : Host.Outcome State Fault Refusal := decodeStep o (compute 6 o) s
/-- COPY (10 R219). -/
def execOperatorCopy (o : OpFields) (s : State) : Host.Outcome State Fault Refusal := decodeStep o (compute 7 o) s
/-- ALLRED (10 R219). -/
def execOperatorAllred (o : OpFields) (s : State) : Host.Outcome State Fault Refusal := decodeStep o (compute 8 o) s
/-- ALLTOALL (10 R219). -/
def execOperatorAlltoall (o : OpFields) (s : State) : Host.Outcome State Fault Refusal := decodeStep o (compute 9 o) s

/-- OPERATOR_WAIT (10 Table 7). -/
def execOperatorWait (o : OpFields) (s : State) : Host.Outcome State Fault Refusal :=
  decodeStep o (fun s part id _ =>
    if !namedEvt s part o.wevt then streamError s part id 0x44
    else
      let s1 := nextOp s part id
      if storeGet s.events o.wevt.toNat = 0 then s1
      else modStream s1 part id fun x => { x with waits := x.waits ++ [o.wevt.toNat] }) s

/-- OPERATOR_SIG (10 Table 7): it waits for every earlier operator and, being a later operator, for every WAIT before it. -/
def execOperatorSig (o : OpFields) (s : State) : Host.Outcome State Fault Refusal :=
  decodeStep o (fun s part id st =>
    if !namedEvt s part o.sevt then streamError s part id 0x44
    else
      let op : OpRec := { seq := st.seq, sig := some o.sevt.toNat, hint := 0, left := 0, after := true, evs := st.waits, complete := false,
                          started := true, held := false }
      settleSigs (nextOp (modStream s part id fun x => { x with ops := x.ops ++ [op] }) part id) part) s

/-- OPERATOR_SEL (10 R222): decoding waits until every earlier operator is complete. -/
def execOperatorSel (o : OpFields) (s : State) : Host.Outcome State Fault Refusal :=
  decodeStep o (fun s part id st =>
    if !(st.ops.all (·.complete) && st.waits.isEmpty) then s
    else match readDesc s part o.da with
      | .error e => streamError s part id e
      | .ok (base, _, _) =>
        if vaOff base % 4 ≠ 0 then streamError s part id 0x43
        else match unitRead s part false .s base 4 with
          | .error _ | .ok (_, some _) => streamError (linkNote s part false .s base) part id 0x47
          | .ok (l, none) =>
            let s1 := nextOp { s with fresh := s.fresh + 1 } part id
            if leNat l = 0 then
              modStream s1 part id fun x => { x with levels := match x.levels with
                | v :: r => { v with pos := v.pos + o.aux.toNat } :: r
                | [] => [] }
            else s1) s

/-- OPERATOR_CALL (10 R222): a fifth level below the RUNOPS stream is OPS_NEST. -/
def execOperatorCall (o : OpFields) (s : State) : Host.Outcome State Fault Refusal :=
  decodeStep o (fun s part id st =>
    if 5 ≤ st.levels.length then streamError s part id 0x46
    else match readDesc s part o.da with
      | .error e => streamError s part id e
      | .ok (base, rows, _) =>
        modStream (nextOp s part id) part id fun x => { x with levels := ⟨base, rows, 0⟩ :: x.levels }) s

/-- OPERATOR_FENCE (10 Table 7). -/
def execOperatorFence (o : OpFields) (s : State) : Host.Outcome State Fault Refusal :=
  decodeStep o (fun s part id st => modStream (nextOp s part id) part id fun x => { x with fence := some st.seq }) s

/-- OPERATOR_END (10 R222). -/
def execOperatorEnd (o : OpFields) (s : State) : Host.Outcome State Fault Refusal :=
  decodeStep o (fun s part id _ => pruneStreams (endLevel (nextOp s part id) part id) part) s

/-- OPERATOR_RESERVED (10 R223): OPS_RES. -/
def execOperatorReserved (_opc : BitVec 8) (o : OpFields) (s : State) : Host.Outcome State Fault Refusal :=
  decodeStep o (fun s part id _ => streamError s part id 0x41) s

/-- The units of a target kind to which a partition's records may be posted now (10 R229, 13 R299): of the partition, not being vacated,
holding the slot in force. -/
def unitOpen (s : State) (part core : Nat) : Bool :=
  coreHeld s core part && !coreVacated s core part && slotHolder s core == some part

/-- Occupied mailbox slots of a unit: a vector core (target 0) or a sequencer. -/
def boxLoad (s : State) (target u : Nat) : Nat :=
  if target = 0 then (s.core u).mailbox.length else (s.cluster u).mailbox.length

/-- Mailbox slots of a unit (10 R229). -/
def boxSize (target : Nat) : Nat := if target = 0 then 16 else 8

/-- The vector core by which a unit is held (10 R229). -/
def unitCore (target u : Nat) : Nat := if target = 0 then u else 2 * u

/-- The unit to which a record goes: the least loaded eligible one, the lowest among equals (10 R229). -/
def pickUnit (s : State) (part target : Nat) : Option Nat :=
  let cand := (List.range (if target = 0 then 256 else if target = 1 then 128 else 0)).filter fun u =>
    unitOpen s part (unitCore target u) && decide (boxLoad s target u < boxSize target)
  cand.foldl (fun best u =>
    match best with
    | none => some u
    | some b => if boxLoad s target u < boxLoad s target b then some u else some b) none

/-- Put a record into a mailbox. -/
def putBox (s : State) (part target u : Nat) (r : ReadyRec) : State :=
  if target = 0 then s.modCore u fun c => { c with mailbox := c.mailbox ++ [(part, r)] }
  else s.modCluster u fun c => { c with mailbox := c.mailbox ++ [(part, r)] }

/-- The operator of a ready job. -/
def opOfReady (p : Partition) (r : ReadyRec) : Option OpRec :=
  match r.job with
  | none => none
  | some (st, seq, _) => (p.streams.find? (fun x => x.id == st)).bind fun x => x.ops.find? (fun o => o.seq == seq)

/-- A job of another operator with another nonzero hint is posted and not complete (10 R226). -/
def pointBusy (p : Partition) (r : ReadyRec) (h : BitVec 4) : Bool :=
  p.jobs.any fun j => j.phase == 2 && j.hint != 0 && j.hint != h &&
    (match r.job with
     | some (st, seq, _) => j.stream != st || decide (j.seq < seq)
     | none => true)

/-- The operator whose first job a ready record is, where its hint is not the partition's current point (10 R226). -/
def otherPoint (p : Partition) (r : ReadyRec) : Option OpRec :=
  (opOfReady p r).bind fun o => if o.hint ≠ 0 ∧ o.hint ≠ p.point ∧ !o.started then some o else none

/-- A record is held for the operating point of its operator (10 R226): until the point is stable and, once held, until no job of an earlier
operator with another nonzero hint is posted and not complete. -/
def heldPoint (p : Partition) (r : ReadyRec) : Bool :=
  (otherPoint p r).isSome ||
  (match opOfReady p r with
   | some o => o.held && !o.started && pointBusy p r o.hint
   | none => false)

/-- Operators whose first job waits for their operating point are held, and the first of them that nothing earlier keeps back requests it
(10 R226). -/
def holdPoints (s : State) (part : Nat) : State :=
  let p := s.part part
  let ask := p.ready.filterMap fun r => (otherPoint p r).bind fun o => if pointBusy p r o.hint then none else some o.hint
  s.modPart part fun p =>
    { p with
      pointReq := if p.pointReq.isNone then ask.head? else p.pointReq,
      streams := p.streams.map fun x =>
        { x with ops := x.ops.map fun o =>
            if p.ready.any fun r => (otherPoint p r).isSome && (r.job.map fun k => k.1 == x.id && k.2.1 == o.seq).getD false then { o with held := true }
            else o } }

/-- JOB_POST (10 R226, R229): the first ready record that some eligible unit can take is posted. -/
def execJobPost (part : Nat) (s : State) : Host.Outcome State Fault Refusal :=
  let p := s.part part
  let s0 := holdPoints s part
  match p.ready.zipIdx.findSome? (fun e => if heldPoint p e.1 then none else (pickUnit s part e.1.target).map fun u => (e, u)) with
  | none => .next s0
  | some ((r, i), u) =>
    let s1 := s0.modPart part fun p =>
      { p with
        ready := p.ready.eraseIdx i,
        jobs := p.jobs.map fun j => if r.job == some (j.stream, j.seq, j.r, j.c, j.kk) then { j with phase := 2 } else j,
        streams := p.streams.map fun x =>
          { x with ops := x.ops.map fun o => match r.job with
              | some (st, seq, _) => if x.id == st && o.seq == seq then { o with started := true } else o
              | none => o } }
    .next (putBox s1 part r.target u r)

/-- OPERATING_POINT_STABLE (10 R226). -/
def execOperatingPointStable (part : Nat) (s : State) : Host.Outcome State Fault Refusal :=
  .next (s.modPart part fun p => match p.pointReq with
    | some h => { p with point := h, pointReq := none }
    | none => p)

/-- Untaken records of a partition in the mailbox of a unit go back to the head of its ready queue, in posting order (10 R230). -/
def withdraw (s : State) (part target u : Nat) : State :=
  let box := if target = 0 then (s.core u).mailbox else (s.cluster u).mailbox
  let mine := (box.filter (fun e => e.1 == part)).map fun e => { e.2 with target := target }
  let rest := box.filter fun e => e.1 != part
  let s1 := if target = 0 then s.modCore u fun c => { c with mailbox := rest } else s.modCluster u fun c => { c with mailbox := rest }
  s1.modPart part fun p =>
    { p with
      ready := mine ++ p.ready,
      jobs := p.jobs.map fun j =>
        if mine.any (fun r => r.job == some (j.stream, j.seq, j.r, j.c, j.kk)) then { j with phase := 1 } else j }

/-- The mailbox of the unit on which a group runs, and the groups that wait on it in order. -/
def boxOf (s : State) (id : GroupId) : List (Nat × ReadyRec) × List GroupId :=
  let (b, w) := if isSeq id then ((s.cluster (clusterOf id)).mailbox, (s.cluster (clusterOf id)).mailWait)
                else ((s.core (coreOf id)).mailbox, (s.core (coreOf id)).mailWait)
  (b, w.filter fun i => ((s.group? i).map (fun g => g.wait == .mailbox)).getD false)

/-- Replace a unit's mailbox and its list of waiters. -/
def setBox (s : State) (id : GroupId) (b : List (Nat × ReadyRec)) (w : List GroupId) : State :=
  if isSeq id then s.modCluster (clusterOf id) fun c => { c with mailbox := b, mailWait := w }
  else s.modCore (coreOf id) fun c => { c with mailbox := b, mailWait := w }

/-- The four scalars from d on take the record (10 R231). -/
def recordTo (g : Group) (d : Nat) (r : BitVec 256) : Group :=
  (List.range 4).foldl (fun g k => g.setS (d + k) (r.extractLsb' (64 * k) 64)) g

/-- MBRD and MBRD.TRY (10 R231): the oldest record of the group's partition; earlier waiters are served first. The group holds a job from
the take on, and none from the issue of an MBRD until then (13 R294). -/
def mailRead (try_ : Bool) (h : BitVec 2) (s : State) (id : GroupId) (g : Group) : State :=
  let (box, ws) := boxOf s id
  let mine := g.wait == .mailbox
  let peers := ws.filter fun i => ((s.group? i).map (fun x => x.part == g.part)).getD false
  let ahead := if mine then peers.takeWhile (· != id) else peers
  match (if ahead.isEmpty then box.find? (fun e => e.1 == g.part) else none) with
  | some e =>
    let s1 := setBox s id (box.erase e) (ws.filter (· != id))
    retire (s1.modGroup id fun x => { recordTo x (4 * h.toNat) e.2.record with job := true }) id
  | none =>
    if try_ then retire (s.modGroup id fun x => { x.setS (4 * h.toNat) (BitVec.allOnes 64) with job := false }) id
    else if mine then s
    else waitIn ((setBox s id box (ws.filter (· != id) ++ [id])).modGroup id fun x => { x with job := false }) id .mailbox

/-- MBRD (10 R231). -/
def execMbrd (h : BitVec 2) (s : State) : Host.Outcome State Fault Refusal := issue (.mbrd h) s (mailRead false h)

/-- MBRD.TRY (10 R231). -/
def execMbrdTry (h : BitVec 2) (s : State) : Host.Outcome State Fault Refusal := issue (.mbrdTry h) s (mailRead true h)

/-- The status of a JPOST and the state after it (10 R233). -/
def postRecord (s : State) (id : GroupId) (g : Group) (rec_ : BitVec 256) (t : Nat) : State × Nat :=
  let l := leBytes 32 rec_.toNat
  if 3 < t ∨ (t = 1 ∧ isSeq id) then (s, 3)
  else
    match readCard s g.part (leField l 0 2) with
    | none => (s, 2)
    | some card =>
      let allowed := byteAt card 1 / (if g.mode = .u then 8 else 4) % 2 == 1
      let kind := if t = 2 ∨ (t = 0 ∧ isSeq id) then 1 else 0
      if !cardValid card || !allowed then (s, 2)
      else if t < 3 ∧ byteAt card 0 ≠ kind then (s, 2)
      else
        let r : ReadyRec := ⟨recordFlags l card 4, byteAt card 0, none⟩
        if t = 3 then (s.modPart g.part fun p => { p with ready := p.ready ++ [r] }, 0)
        else
          let u := if t = 0 then (if isSeq id then clusterOf id else coreOf id)
                   else if t = 1 then coreOf id + 1 - 2 * (coreOf id % 2) else clusterOf id
          if !unitOpen s g.part (unitCore kind u) then (s, 3)
          else if boxSize kind ≤ boxLoad s kind u then (s, 1)
          else (putBox s g.part kind u r, 0)

/-- JPOST (10 R233). -/
def execJpost (d : BitVec 7) (h : BitVec 2) (b : BitVec 7) (s : State) : Host.Outcome State Fault Refusal :=
  issue (.jpost d h b) s fun s id g =>
    match g.lowest with
    | none => retire s id
    | some l =>
      let rec_ := BitVec.ofNat 256 (leNat ((List.range 4).flatMap fun k => leBytes 8 (readS s g (4 * h.toNat + k) 1).toNat))
      let (s1, st) := postRecord s id g rec_ (src32 s id g g.pre (srcOpnd .b b 1) l).toNat
      retire (statusDst s1 id g d (BitVec.ofNat 32 st)) id

/-- What a signal of an event does for a partition, as EVSIG gives it (10 R232): fn 0 decrement, 1 set, 2 read; the last part is the 32-bit
result. -/
def signalEvent (s : State) (part fn : Nat) (h n : Word) : State × Word :=
  let idx := handleIdx h
  let res := fun (st : Nat) => if fn = 2 then BitVec.ofNat 32 (2 ^ 31 + st) else BitVec.ofNat 32 st
  if 4 ≤ handleCls h ∨ (fn = 1 ∧ 2 ≤ handleCls h) then (s, res 2)
  else if handleDev h ≠ s.devNum.toNat then
    if fn = 2 then (s, res 3)
    else if !reachable s (handleDev h) then (s, res 3)
    else ({ s with sent := s.sent ++ [.signal (handleDev h) h (fn == 1) n] }, 0)
  else
    let (s1, c) := evtClass s part idx
    if c ≠ some (handleCls h) then (s1, res 1)
    else if fn = 0 then (decrement s1 part idx n.toNat, 0)
    else if fn = 1 then (if 2 ^ 31 ≤ n.toNat then (s1, res 4) else (setCounter s1 part idx (n.setWidth 31), 0))
    else (s1, (storeGet s1.events idx).setWidth 32)

/-- EVSIG, EVSIG.SET and EVSIG.RD (10 R232). -/
def eventSignal (fn : Nat) (d a b : BitVec 7) (s : State) (id : GroupId) (g : Group) : State :=
  match g.lowest with
  | none => retire s id
  | some l =>
    let h := src32 s id g g.pre (srcOpnd .a a 1) l
    let n := if fn = 0 ∧ b = 112#7 then 1#32 else src32 s id g g.pre (srcOpnd .b b 1) l
    let (s1, st) := signalEvent s g.part fn h n
    retire (statusDst s1 id g d st) id

/-- EVSIG (10 R232). -/
def execEvsig (d a b : BitVec 7) (s : State) : Host.Outcome State Fault Refusal := issue (.evsig d a b) s (eventSignal 0 d a b)
/-- EVSIG.SET (10 R232). -/
def execEvsigSet (d a b : BitVec 7) (s : State) : Host.Outcome State Fault Refusal := issue (.evsigSet d a b) s (eventSignal 1 d a b)
/-- EVSIG.RD (10 R232). -/
def execEvsigRd (d a : BitVec 7) (s : State) : Host.Outcome State Fault Refusal := issue (.evsigRd d a) s (eventSignal 2 d a 112)

/-- REMOTE_EVENT_SIGNAL (10 R228): applied in the bound partition's named range with a matching class, else refused and counted; without a
binding it is refused and counted for the partition to which the index belongs (15 R326, log 43). -/
def execRemoteEventSignal (r : RemoteSignal) (s : State) : Host.Outcome State Fault Refusal :=
  match boundPart s r.dev r.part with
  | none => .next (match evtPart s (handleIdx r.handle) with
      | some p => countRej s p
      | none => s)
  | some p =>
    let idx := handleIdx r.handle
    if !evtNamed (s.part p) idx || (r.set && decide (2 ^ 31 ≤ r.n.toNat)) then .next (countRej s p)
    else
      let (s1, c) := evtClass s p idx
      if c ≠ some (handleCls r.handle) then .next (countRej s1 p)
      else .next (if r.set then setCounter s1 p idx (r.n.setWidth 31) else decrement s1 p idx r.n.toNat)

end Sys2Proof.Machine
end

