-- ==== Sys2Proof/Machine/Keccak.lean ====
section
/-! DEFINITION. SHAKE256 of FIPS 202, by which coins, published code and publish records are hashed and sealed (11 R237, 14 R317). -/
namespace Sys2Proof.Machine

/-- A lane of the sponge's state: lane x + 5y. -/
def kLane (a : List Dword) (i : Nat) : Dword := (a[i]?).getD 0

/-- The place that follows a place (x, y) in the walk of rho: (y, 2x + 3y). -/
def kNext (p : Nat × Nat) : Nat × Nat := (p.2, (2 * p.1 + 3 * p.2) % 5)

/-- The walk of rho over the lanes other than lane 0, from (1, 0). -/
def kWalk : Nat → Nat × Nat
  | 0 => (1, 0)
  | t + 1 => kNext (kWalk t)

/-- The rotation of lane i: that of the step of the walk that meets it, none for lane 0. -/
def kRot (i : Nat) : Nat :=
  (((List.range 24).find? fun t => kWalk t == (i % 5, i / 5)).map fun t => (t + 1) * (t + 2) / 2 % 64).getD 0

/-- A step of the shift register from which iota takes its bits: the bit shifted out is fed back into bits 0, 4, 5 and 6. -/
def kFeed (r : Nat) : Nat := if r < 128 then 2 * r else (2 * r - 256) ^^^ 0x71

/-- That register after t steps. -/
def kShift : Nat → Nat
  | 0 => 1
  | t + 1 => kFeed (kShift t)

/-- What iota adds to lane 0 in a round: bit 2^j - 1 is the register's bit at step j + 7 × round. -/
def kIota (round : Nat) : Dword :=
  (List.range 7).foldl (fun v j => if kShift (j + 7 * round) % 2 = 1 then v ||| 1#64 <<< (2 ^ j - 1) else v) 0

/-- The parity of column x. -/
def kCol (a : List Dword) (x : Nat) : Dword :=
  kLane a x ^^^ kLane a (x + 5) ^^^ kLane a (x + 10) ^^^ kLane a (x + 15) ^^^ kLane a (x + 20)

/-- One round: theta, rho and pi, chi, iota. -/
def kStep (a : List Dword) (rc : Dword) : List Dword :=
  let c := (List.range 5).map (kCol a)
  let t := (List.range 25).map fun i => kLane a i ^^^ kLane c ((i + 4) % 5) ^^^ (kLane c ((i + 1) % 5)).rotateLeft 1
  -- the lane that comes to place x + 5y is lane x' + 5y' with y = 2x' + 3y', x = y'
  let b := (List.range 25).map fun i =>
    let x := i % 5
    let y := i / 5
    let src := (x + 3 * y) % 5 + 5 * x
    (kLane t src).rotateLeft (kRot src)
  let d := (List.range 25).map fun i =>
    let y := i / 5 * 5
    kLane b i ^^^ (~~~(kLane b (y + (i + 1) % 5)) &&& kLane b (y + (i + 2) % 5))
  (kLane d 0 ^^^ rc) :: d.drop 1

/-- The permutation of 24 rounds. -/
def kPerm (a : List Dword) : List Dword := (List.range 24).foldl (fun a r => kStep a (kIota r)) a

/-- Absorb blocks of 136 bytes. -/
def kAbsorb : Nat → List Byte → List Dword → List Dword
  | 0, _, a => a
  | n + 1, l, a =>
    kAbsorb n (l.drop 136) (kPerm ((List.range 25).map fun i =>
      if i < 17 then kLane a i ^^^ BitVec.ofNat 64 (leField l (8 * i) 8) else kLane a i))

/-- The message with its padding: 1111, then 1, zeros and 1, to a multiple of 136 bytes. -/
def kPad (l : List Byte) : List Byte :=
  let z := 135 - l.length % 136
  if z = 0 then l ++ [0x9F] else l ++ [0x1F] ++ List.replicate (z - 1) 0 ++ [0x80]

/-- The first n bytes of SHAKE256, n up to 136. -/
def shake256 (l : List Byte) (n : Nat) : List Byte :=
  ((kAbsorb (l.length / 136 + 1) (kPad l) (List.replicate 25 0)).flatMap fun v => leBytes 8 v.toNat).take n

/-- A seal: the first 8 bytes of SHAKE256 over MINTKEY, the device number as 2 bytes, and the sealed bytes (11 Table 6, 14 Table 9). -/
def sealOf (s : State) (l : List Byte) : Dword :=
  BitVec.ofNat 64 (leNat (shake256 (leBytes 32 (Config.mintKey s.starts).toNat ++ leBytes 2 s.devNum.toNat ++ l) 8))

end Sys2Proof.Machine
end

