-- ==== Sys2Proof/Machine/Publish.lean ====
section
/-! DEFINITION. Publishing (14 R316 to R319): PUBL, the publish window, CCAST and what a peer does with a published object. -/
namespace Sys2Proof.Machine

/-- The words of a byte list. -/
def wordsOf (l : List Byte) : List Word := (List.range (l.length / 4)).map fun i => BitVec.ofNat 32 (leField l (4 * i) 4)

/-- The prefixes that stand before the next word. -/
def nextPre (p : Pre) (i : Instr) : Pre :=
  match i with
  | .lit v => { p with lit := some v }
  | .ix e d f a g b => { p with ix := some (0#16 ++ e ++ d ++ f ++ a ++ g ++ b) }
  | _ => Pre.none

/-- The first word that traps ILL by its encoding alone (14 R318; 02 R32 to R34, R41, R44). -/
def firstIll : List Word → Nat → Pre → Option Nat
  | [], _, _ => none
  | w :: r, n, p =>
    match decodeWord w with
    | none => some n
    | some i => if i.legal 3 p then firstIll r (n + 1) (nextPre p i) else some n

/-- The displacement of a word of format B. -/
def dispOf : Instr → Option (BitVec 19)
  | .bra _ p => some p
  | .brany _ _ p | .brall _ _ p | .brnone _ _ p | .yieldc _ _ p => some p
  | .call _ p => some p
  | _ => none

/-- The first branch whose target lies outside the code (14 R318). -/
def firstStray (n : Nat) : List Word → Nat → Option Nat
  | [], _ => none
  | w :: r, k =>
    match (decodeWord w).bind dispOf with
    | some p => if (branchTarget (BitVec.ofNat 64 (4 * k)) p).toNat < n then firstStray n r (k + 1) else some k
    | none => firstStray n r (k + 1)

/-- The physical places of a range of the publish window, with X's grant (14 R318): none where a page fails a check. -/
def windowPlaces (s : State) (part : Nat) (mode : Mode) (off n : Nat) : Option (List (Nat × Nat × Nat)) :=
  (piecesOf (mkVa s.devNum.toNat 4 off) n).foldr (fun e acc =>
    match acc, combined s part mode .fetch 4 (vaOff e.1) with
    | some l, .ok p => if vaOff e.1 < 2 ^ 48 && physOk s part false 4 p.off then some ((p.off, e.2.1, e.2.2) :: l) else none
    | _, _ => none) (some [])

/-- Write an allocation to its places. -/
def writePlaces (s : State) (l : List (Nat × Nat × Nat)) (b : List Byte) : State :=
  l.foldl (fun s e => writeMem s 4 e.1 ((b.drop e.2.1).take e.2.2)) s

/-- A publish record of this device (14 Table 11). -/
def publishRecord (s : State) (hash : List Byte) (len sdev seq : Nat) : List Byte :=
  let l := hash ++ leBytes 4 len ++ leBytes 2 sdev ++ leBytes 2 0 ++ leBytes 8 seq ++ leBytes 8 0
  l ++ leBytes 8 (sealOf s l).toNat

/-- The length of an allocation (14 R317). -/
def allocLen (n : Nat) : Nat := (64 + n + 255) / 256 * 256

/-- The failure value of PUBL. -/
def publFail (index code : Nat) : Dword := BitVec.ofNat 64 (2 ^ 63 + index * 2 ^ 16 + code)

/-- PUBL with its words read (14 R318): the status and the state after it. -/
def publish (s : State) (g : Group) (code : List Byte) : State × Dword :=
  let p := s.part g.part
  let n := code.length
  let words := wordsOf code
  match firstIll words 0 Pre.none, firstStray n words 0 with
  | some i, _ => (s, publFail i 4)
  | none, some i => (s, publFail i 5)
  | none, none =>
    let off := p.pubNext.toNat * 256
    let len := allocLen n
    if 2 ^ p.pubLog.toNat < off + len then (s, publFail 0 3)
    else match windowPlaces s g.part g.mode (p.pubBase.toNat + off) len with
      | none => (s, publFail 0 6)
      | some l =>
        let rec_ := publishRecord s (shake256 code 32) n s.devNum.toNat p.pubSeq
        let s1 := writePlaces s l (rec_ ++ code)
        (s1.modPart g.part fun p => { p with pubNext := BitVec.ofNat 24 ((off + len) / 256), pubSeq := p.pubSeq + 1 },
         BitVec.ofNat 64 (p.pubBase.toNat + off + 64))

/-- PUBL (14 R318). -/
def execPubl (d a b : BitVec 7) (s : State) : Host.Outcome State Fault Refusal :=
  issue (.publ d a b) s fun s id g =>
    let p := s.part g.part
    let src := scalarOf s g a 1
    let n := (scalarOf s g b 2).toNat
    let fin := fun (s : State) (v : Dword) => retire (s.modGroup id fun x => x.setS (d.toNat - 96) v) id
    if g.em = 0 then retire s id
    else if !s.featen.getLsbD 10 || !p.pubEn then fin s (publFail 0 2)
    else if n = 0 ∨ n % 4 ≠ 0 ∨ 4 * 2 ^ 20 < n ∨ src.toNat % 4 ≠ 0 then fin s (publFail 0 1)
    else
      match unitRead s g.part false g.mode (mkVa s.devNum.toNat 0 src.toNat) n with
      | .error (c, va) => raiseWhole s id g c (packVa va)
      | .ok (_, some va) =>
        raiseWhole s id g .ecc (match translate s 384 g.part false g.mode .load 0 (vaOff va) with
          | .ok p => BitVec.ofNat 64 (p.off / 32 * 32)
          | .error _ => 0)
      | .ok (code, none) => let (s1, v) := publish s g code; fin s1 v

/-- A write of PUBWIN (14 R316). -/
def pubwinTo (v : Dword) (s : State) (_ : GroupId) (g : Group) : State :=
  let log : BitVec 5 := v.extractLsb' 58 5
  let base : BitVec 48 := v.extractLsb' 16 32 ++ 0#16
  if log.toNat < 16 ∨ base.toNat % 2 ^ log.toNat ≠ 0 then s
  else s.modPart g.part fun p => { p with pubEn := v.getLsbD 63, pubLog := log, pubBase := base, pubNext := 0 }

/-- PUBWIN_WRITE (14 R316). -/
def execPubwinWrite (v : BitVec 64) (s : State) : Host.Outcome State Fault Refusal := csrUnit 0x1EA (pubwinTo v) s

/-- A line of an instruction cache that lies in a partition's publish window (14 R316). -/
def inWindow (p : Partition) (e : CodeLine) : Bool :=
  decide (p.pubBase.toNat ≤ e.vline * 64 ∧ e.vline * 64 < p.pubBase.toNat + 2 ^ p.pubLog.toNat)

/-- A write of PUBNEXT (14 R316): a lower value discards the instruction-cache lines of the partition that lie in the window. -/
def pubnextTo (v : Dword) (s : State) (_ : GroupId) (g : Group) : State :=
  let n : BitVec 24 := v.extractLsb' 8 24
  let s1 := s.modPart g.part fun p => { p with pubNext := n }
  if n.toNat < (s.part g.part).pubNext.toNat then
    { s1 with icache := s1.icache.filter fun e => !(e.part == g.part && inWindow (s.part g.part) e) }
  else s1

/-- PUBNEXT_WRITE (14 R316). -/
def execPubnextWrite (v : BitVec 64) (s : State) : Host.Outcome State Fault Refusal := csrUnit 0x1EB (pubnextTo v) s

/-- The object that stands at a window offset: its record and its code, as the device reads them in S mode with R's grant (03 R358,
14 R319); none where a read fails or meets an uncorrectable sector (log 42). -/
def readObject (s : State) (part off : Nat) : Option (List Byte × List Byte) :=
  let p := s.part part
  let get := fun (o n : Nat) => match unitRead s part false .s (mkVa s.devNum.toNat 4 (p.pubBase.toNat + o)) n with
    | .ok (l, none) => some l
    | _ => none
  match get off 64 with
  | none => none
  | some r =>
    if leField r 56 8 ≠ (sealOf s (r.take 56)).toNat then none
    else (get (off + 64) (leField r 32 4)).map fun c => (r, c)

/-- Set CCASTST.STATE. -/
def castState (s : State) (part : Nat) (n : BitVec 2) : State := s.modPart part fun p => { p with castState := n }

/-- Every peer has answered (14 R319): NOK and NBAD are set, then STATE 2, and LEVT is decremented. -/
def castDone (s : State) (part : Nat) : State :=
  let p := s.part part
  if p.castState = 1#2 ∧ p.castWait.isEmpty then
    let s1 := s.modPart part fun p => { p with castOk := BitVec.ofNat 8 p.castYes, castBad := BitVec.ofNat 8 p.castNo, castState := 2 }
    if p.castLevt = 0xFFFFFFFF#32 then s1 else unitSignal s1 part p.castLevt
  else s

/-- A peer's answer is counted (14 R319). -/
def castAnswer (s : State) (part : Nat) (ok : Bool) : State :=
  s.modPart part fun p => if ok then { p with castYes := p.castYes + 1 } else { p with castNo := p.castNo + 1 }

/-- A write of CCAST (14 R319): an entry or an object that cannot be used refuses it. -/
def ccastTo (v : Dword) (s : State) (_ : GroupId) (g : Group) : State :=
  let p := s.part g.part
  let i := (v.extractLsb' 48 16).toNat
  let off := (v.extractLsb' 8 24).toNat * 256
  if p.castState = 1#2 then s
  else
    let entry := if p.ttEn && decide (i < 2 ^ p.ttLog.toNat) then tableRead s g.part (p.ttBase.toNat + 64 * i) 64 else none
    let obj := if p.pubEn && decide (off < p.pubNext.toNat * 256) then readObject s g.part off else none
    match entry, obj with
    | some e, some (rec_, code) =>
      let n := byteAt e 3
      if n = 0 ∨ 12 < n then castState s g.part 3
      else
        let peers := (List.range n).map fun k => leField e (40 + 2 * k) 2 % 8192
        let (there, away) := (peers.filter (reachable s), peers.filter fun d => !reachable s d)
        let s1 := { s.modPart g.part fun p =>
            { p with castState := 1, castYes := 0, castNo := away.length, castWait := there, castLevt := BitVec.ofNat 32 (leField e 32 4) } with
          sent := s.sent ++ there.map fun d => .cast d g.part off rec_ code (BitVec.ofNat 32 (leField e 28 4)) }
        castDone s1 g.part
    | _, _ => castState s g.part 3

/-- CCAST (14 R319). -/
def execCcast (v : BitVec 64) (s : State) : Host.Outcome State Fault Refusal := csrUnit 0x1EC (ccastTo v) s

/-- MULTICAST_ANSWER (14 R319): 0 says that the peer accepted. -/
def execMulticastAnswer (part peer : Nat) (answer : BitVec 8) (s : State) : Host.Outcome State Fault Refusal :=
  let p := s.part part
  if p.castState = 1#2 ∧ p.castWait.contains peer then
    .next (castDone (castAnswer (s.modPart part fun p => { p with castWait := p.castWait.erase peer }) part (answer == 0)) part)
  else .next s

/-- What a peer does with an object (14 R319): the state, and whether it accepts. -/
def receiveObject (s : State) (part : Nat) (m : CastMsg) : State × Bool :=
  let p := s.part part
  let len := allocLen m.code.length
  if shake256 m.code 32 ≠ m.record.take 32 ∨ leField m.record 32 4 ≠ m.code.length then
    (s.modPart part fun p => { p with castBadh := satInc p.castBadh }, false)
  else if !p.pubEn || m.off % 256 != 0 || decide (m.off < p.pubNext.toNat * 256) || decide (2 ^ p.pubLog.toNat < m.off + len) then (s, false)
  else match windowPlaces s part .s (p.pubBase.toNat + m.off) len with
    | none => (s, false)
    | some l =>
      let rec_ := publishRecord s (m.record.take 32) m.code.length (leField m.record 36 2) (leField m.record 40 8)
      let s1 := (writePlaces s l (rec_ ++ m.code)).modPart part fun p => { p with pubNext := BitVec.ofNat 24 ((m.off + len) / 256) }
      (unitSignal s1 part ((m.revt &&& 0x7FFFF#32) ||| (BitVec.ofNat 32 s.devNum.toNat <<< 19)), true)

/-- MULTICAST_RECEIVE (14 R319): in the partition that the monitor has bound to the sender. -/
def execMulticastReceive (m : CastMsg) (s : State) : Host.Outcome State Fault Refusal :=
  match boundPart s m.dev m.part with
  | none => .next { s with sent := s.sent ++ [.refusal m.dev Cause.prot.code] }
  | some part =>
    let (s1, ok) := receiveObject s part m
    .next { s1 with sent := s1.sent ++ [.reply m.dev [if ok then 0 else 1]] }

end Sys2Proof.Machine
end

