-- ==== Sys2Proof/Machine/Integer.lean ====
section
/-! DEFINITION. The integer instructions (07 R136 to R145): exact values in the integers, reduced once. -/
namespace Sys2Proof.Machine

/-- An operand of n bits read as signed or natural. -/
def readInt (signed : Bool) (n : Nat) (v : BitVec 128) : Int :=
  if signed then sextInt n v.toNat else ((v.toNat % 2 ^ n : Nat) : Int)

/-- An exact value modulo 2^n. -/
def wrapInt (n : Nat) (x : Int) : BitVec 128 := BitVec.ofInt 128 (x % (2 ^ n : Int))

/-- An exact value clamped to an interval. -/
def clampInt (lo hi x : Int) : Int := if x < lo then lo else if hi < x then hi else x

/-- Whether a type code reads signed operands (07 Table 4). -/
def codeSigned (f : BitVec 4) : Bool := !f.getLsbD 0
/-- The width of a type code (07 Table 4). -/
def codeWidth (f : BitVec 4) : Nat := if code64 f then 64 else 32

/-- An operand as a type code reads it (07 Table 4). -/
def codeRead (f : BitVec 4) (v : BitVec 128) : Int := readInt (codeSigned f) (codeWidth f) v

/-- An exact value reduced as a type code says (07 Table 4). -/
def codeReduce (f : BitVec 4) (x : Int) : BitVec 128 :=
  if f = 4#4 then wrapInt 32 (clampInt (-(2 ^ 31)) (2 ^ 31 - 1) x)
  else if f = 5#4 then wrapInt 32 (clampInt 0 (2 ^ 32 - 1) x)
  else wrapInt (codeWidth f) x

/-- d = f a b in every active lane, a and b of the widths given. -/
def binary (d a b : BitVec 7) (wd wa wb : Nat) (f : BitVec 128 → BitVec 128 → BitVec 128) (s : State) (id : GroupId)
    (g : Group) : State :=
  perLane (dstOpnd d wd) (fun s id g l => f (srcOf s id g g.pre (srcOpnd .a a wa) l) (srcOf s id g g.pre (srcOpnd .b b wb) l)) s id g

/-- An instruction of the arithmetic group without an addend (07 R137). -/
def arith (d a b : BitVec 7) (f : BitVec 4) (op : Int → Int → Int) (s : State) (id : GroupId) (g : Group) : State :=
  let n := codeWid (code64 f)
  binary d a b n n n (fun x y => codeReduce f (op (codeRead f x) (codeRead f y))) s id g

/-- IADD (07 R137). -/
def execIadd (d a b : BitVec 7) (f : BitVec 4) (s : State) : Host.Outcome State Fault Refusal :=
  issue (.iadd d a b f) s (arith d a b f (· + ·))

/-- ISUB (07 R137). -/
def execIsub (d a b : BitVec 7) (f : BitVec 4) (s : State) : Host.Outcome State Fault Refusal :=
  issue (.isub d a b f) s (arith d a b f (· - ·))

/-- IMUL (07 R137). -/
def execImul (d a b : BitVec 7) (f : BitVec 4) (s : State) : Host.Outcome State Fault Refusal :=
  issue (.imul d a b f) s (arith d a b f (· * ·))

/-- IMULH (07 R137): the product shifted right by the width, rounded toward −∞. -/
def execImulh (d a b : BitVec 7) (f : BitVec 4) (s : State) : Host.Outcome State Fault Refusal :=
  issue (.imulh d a b f) s (arith d a b f fun x y => (x * y) / (2 ^ codeWidth f : Int))

/-- IMAD (07 R137): d is the addend. -/
def execImad (d a b : BitVec 7) (f : BitVec 4) (s : State) : Host.Outcome State Fault Refusal :=
  issue (.imad d a b f) s fun s id g =>
    let n := codeWid (code64 f)
    perLane (dstOpnd d n) (fun s id g l =>
      codeReduce f (codeRead f (srcOf s id g g.pre (srcOpnd .a a n) l) * codeRead f (srcOf s id g g.pre (srcOpnd .b b n) l) +
        codeRead f (srcOf s id g g.pre (bothOpnd d n) l))) s id g

/-- Division toward zero with the two fixed edge cases (07 R140, R145): a zero divisor gives all ones, and the overflow wraps. -/
def divInt (x y : Int) : Int := if y = 0 then -1 else Int.tdiv x y
/-- The remainder, with the sign of the dividend; a zero divisor gives the dividend (07 R140, R145). -/
def remInt (x y : Int) : Int := if y = 0 then x else Int.tmod x y

/-- A long-latency division of 32-bit signed values (07 R140). -/
def divide (d a b : BitVec 7) (la : BitVec 4) (op : Int → Int → Int) (s : State) (id : GroupId) (g : Group) : State :=
  issueLong s id g (dstOpnd d 1) la g.active (fun l =>
    wrapInt 32 (op (src32 s id g g.pre (srcOpnd .a a 1) l).toInt (src32 s id g g.pre (srcOpnd .b b 1) l).toInt)) none

/-- IDIV (07 R140). -/
def execIdiv (d a b : BitVec 7) (l : BitVec 4) (s : State) : Host.Outcome State Fault Refusal :=
  issue (.idiv d a b l) s (divide d a b l divInt)

/-- IREM (07 R140). -/
def execIrem (d a b : BitVec 7) (l : BitVec 4) (s : State) : Host.Outcome State Fault Refusal :=
  issue (.irem d a b l) s (divide d a b l remInt)

/-- IMNX (07 Table 7): m 0 the smaller, 1 the larger. -/
def execImnx (d a b : BitVec 7) (m : BitVec 1) (t : BitVec 2) (s : State) : Host.Outcome State Fault Refusal :=
  issue (.imnx d a b m t) s (arith d a b (t.setWidth 4) fun x y => if m = 0#1 then min x y else max x y)

/-- A bitwise operation, on 64 bits with f[1] (07 Table 7). -/
def bitwise (d a b : BitVec 7) (f : BitVec 2) (op : BitVec 128 → BitVec 128 → BitVec 128) (s : State) (id : GroupId)
    (g : Group) : State :=
  let n := codeWid (f.getLsbD 1)
  binary d a b n n n op s id g

/-- AND (07 Table 7). -/
def execAnd (d a b : BitVec 7) (f : BitVec 2) (s : State) : Host.Outcome State Fault Refusal :=
  issue (.and d a b f) s (bitwise d a b f (· &&& ·))

/-- OR (07 Table 7). -/
def execOr (d a b : BitVec 7) (f : BitVec 2) (s : State) : Host.Outcome State Fault Refusal :=
  issue (.or d a b f) s (bitwise d a b f (· ||| ·))

/-- XOR (07 Table 7). -/
def execXor (d a b : BitVec 7) (f : BitVec 2) (s : State) : Host.Outcome State Fault Refusal :=
  issue (.xor d a b f) s (bitwise d a b f (· ^^^ ·))

/-- ANDN (07 Table 7). -/
def execAndn (d a b : BitVec 7) (f : BitVec 2) (s : State) : Host.Outcome State Fault Refusal :=
  issue (.andn d a b f) s (bitwise d a b f fun x y => x &&& ~~~y)

/-- A shift or rotate of n bits by an amount below n: 0 SHL, 1 SHR, 2 SRA, 3 ROT (07 Table 7, R142). -/
def shiftVal (n : Nat) (op : BitVec 2) (x : BitVec 128) (k : Nat) : BitVec 128 :=
  if n = 64 then
    let y : Dword := x.setWidth 64
    (if op = 0#2 then y <<< k else if op = 1#2 then y >>> k else if op = 2#2 then y.sshiftRight k
     else y.rotateLeft k).setWidth 128
  else
    let y : Word := x.setWidth 32
    (if op = 0#2 then y <<< k else if op = 1#2 then y >>> k else if op = 2#2 then y.sshiftRight k
     else y.rotateLeft k).setWidth 128

/-- A shift by Src32(b) modulo the width (07 R138). -/
def shiftReg (d a b : BitVec 7) (f : BitVec 2) (op : BitVec 2) (s : State) (id : GroupId) (g : Group) : State :=
  let n := if f.getLsbD 1 then 64 else 32
  binary d a b (n / 32) (n / 32) 1 (fun x y => shiftVal n op x ((y.setWidth 32).toNat % n)) s id g

/-- SHL (07 Table 7). -/
def execShl (d a b : BitVec 7) (f : BitVec 2) (s : State) : Host.Outcome State Fault Refusal :=
  issue (.shl d a b f) s (shiftReg d a b f 0#2)

/-- SHR (07 Table 7). -/
def execShr (d a b : BitVec 7) (f : BitVec 2) (s : State) : Host.Outcome State Fault Refusal :=
  issue (.shr d a b f) s (shiftReg d a b f 1#2)

/-- SRA (07 Table 7). -/
def execSra (d a b : BitVec 7) (f : BitVec 2) (s : State) : Host.Outcome State Fault Refusal :=
  issue (.sra d a b f) s (shiftReg d a b f 2#2)

/-- ROT (07 Table 7). -/
def execRot (d a b : BitVec 7) (f : BitVec 2) (s : State) : Host.Outcome State Fault Refusal :=
  issue (.rot d a b f) s (shiftReg d a b f 3#2)

/-- The bits of an n-bit number, the lowest first. -/
def bitList (n : Nat) (x : BitVec 128) : List Bool := (List.range n).map fun i => x.getLsbD i

/-- A number from its bits, the lowest first. -/
def bitsNat : List Bool → Nat
  | [] => 0
  | b :: r => b.toNat + 2 * bitsNat r

/-- BITS on n bits: 0 ones, 1 leading zeros, 2 trailing zeros, 3 reversal (07 Table 7). -/
def bitsVal (n : Nat) (op : BitVec 2) (x : BitVec 128) : BitVec 128 :=
  let l := bitList n x
  BitVec.ofNat 128
    (if op = 0#2 then l.count true
     else if op = 1#2 then (l.reverse.takeWhile (· == false)).length
     else if op = 2#2 then (l.takeWhile (· == false)).length
     else bitsNat l.reverse)

/-- BITS (07 Table 7). -/
def execBits (d a : BitVec 7) (f : BitVec 3) (s : State) : Host.Outcome State Fault Refusal :=
  issue (.bits d a f) s fun s id g =>
    let n := codeWid (f.getLsbD 2)
    perLane (dstOpnd d (codeWid (f == 7#3)))
      (fun s id g l => bitsVal (32 * n) (f.extractLsb' 0 2) (srcOf s id g g.pre (srcOpnd .a a n) l)) s id g

/-- The position and the effective length of the field that b describes (07 R138). -/
def fieldOf (b : Word) : Nat × Nat :=
  let pos := (b.extractLsb' 0 5).toNat
  (pos, min (b.extractLsb' 8 6).toNat (32 - pos))

/-- BFX on 32 bits (07 Table 7). -/
def fieldExtract (signed : Bool) (x b : Word) : Word :=
  let (pos, len) := fieldOf b
  let v := x.toNat / 2 ^ pos % 2 ^ len
  if signed && len != 0 then BitVec.ofInt 32 (sextInt len v) else BitVec.ofNat 32 v

/-- BFI on 32 bits (07 Table 7). -/
def fieldInsert (d x b : Word) : Word :=
  let (pos, len) := fieldOf b
  let m := BitVec.ofNat 32 ((2 ^ len - 1) * 2 ^ pos)
  (d &&& ~~~m) ||| ((x <<< pos) &&& m)

/-- BFX (07 Table 7). -/
def execBfx (d a b : BitVec 7) (f : BitVec 1) (s : State) : Host.Outcome State Fault Refusal :=
  issue (.bfx d a b f) s (binary d a b 1 1 1 fun x y =>
    (fieldExtract (f == 1#1) (x.setWidth 32) (y.setWidth 32)).setWidth 128)

/-- BFI (07 Table 7): d is read. -/
def execBfi (d a b : BitVec 7) (s : State) : Host.Outcome State Fault Refusal :=
  issue (.bfi d a b) s (perLane (dstOpnd d 1) fun s id g l =>
    (fieldInsert (src32 s id g g.pre (bothOpnd d 1) l) (src32 s id g g.pre (srcOpnd .a a 1) l)
      (src32 s id g g.pre (srcOpnd .b b 1) l)).setWidth 128)

/-- The conditions of ICMP: 0 EQ, 1 NE, 2 LT, 3 LE (07 R139). -/
def cmpInt (c : BitVec 2) (x y : Int) : Bool :=
  if c = 0#2 then decide (x = y) else if c = 1#2 then decide (x ≠ y) else if c = 2#2 then decide (x < y) else decide (x ≤ y)

/-- ICMP (07 R139). -/
def execIcmp (d a b : BitVec 7) (t c : BitVec 2) (s : State) : Host.Outcome State Fault Refusal :=
  issue (.icmp d a b t c) s (maskWriter d fun s id g l =>
    let n := codeWid (t.getLsbD 1)
    cmpInt c (codeRead (t.setWidth 4) (srcOf s id g g.pre (srcOpnd .a a n) l))
      (codeRead (t.setWidth 4) (srcOf s id g g.pre (srcOpnd .b b n) l)))

/-- SEL (07 R139). -/
def execSel (d a b : BitVec 7) (k : BitVec 4) (s : State) : Host.Outcome State Fault Refusal :=
  issue (.sel d a b k) s (perLane (dstOpnd d 1) fun s id g l =>
    if bitOf (g.kreg k.toNat) l then srcOf s id g g.pre (srcOpnd .a a 1) l else srcOf s id g g.pre (srcOpnd .b b 1) l)

/-- MOV (07 Table 7). -/
def execMov (d a : BitVec 7) (f : BitVec 1) (s : State) : Host.Outcome State Fault Refusal :=
  issue (.mov d a f) s fun s id g =>
    let n := codeWid (f == 1#1)
    perLane (dstOpnd d n) (fun s id g l => srcOf s id g g.pre (srcOpnd .a a n) l) s id g

/-- Whether an instruction of the immediate group is 64-bit: d names a scalar and a a scalar, z or gid (07 R141). -/
def immWide (d a : BitVec 7) : Bool := scalarOk d && (scalarZ a || a == 114#7)

/-- An instruction of the immediate group (07 R141). -/
def immediate (d a : BitVec 7) (i : BitVec 11) (op : BitVec 128 → BitVec 128 → BitVec 128) (s : State) (id : GroupId)
    (g : Group) : State :=
  let n := codeWid (immWide d a)
  perLane (dstOpnd d n) (fun s id g l => op (srcOf s id g g.pre (srcOpnd .a a n) l) (BitVec.ofInt 128 (immOf g.pre i))) s id g

/-- IADDI (07 Table 9). -/
def execIaddi (d a : BitVec 7) (i : BitVec 11) (s : State) : Host.Outcome State Fault Refusal :=
  issue (.iaddi d a i) s (immediate d a i (· + ·))

/-- ANDI (07 Table 9). -/
def execAndi (d a : BitVec 7) (i : BitVec 11) (s : State) : Host.Outcome State Fault Refusal :=
  issue (.andi d a i) s (immediate d a i (· &&& ·))

/-- ORI (07 Table 9). -/
def execOri (d a : BitVec 7) (i : BitVec 11) (s : State) : Host.Outcome State Fault Refusal :=
  issue (.ori d a i) s (immediate d a i (· ||| ·))

/-- XORI (07 Table 9). -/
def execXori (d a : BitVec 7) (i : BitVec 11) (s : State) : Host.Outcome State Fault Refusal :=
  issue (.xori d a i) s (immediate d a i (· ^^^ ·))

/-- SHFTI (07 R142). -/
def execShfti (d a : BitVec 7) (o : BitVec 2) (w : BitVec 1) (c : BitVec 6) (s : State) : Host.Outcome State Fault Refusal :=
  issue (.shfti d a o w c) s fun s id g =>
    let n := codeWid (w == 1#1)
    perLane (dstOpnd d n) (fun s id g l => shiftVal (32 * n) o (srcOf s id g g.pre (srcOpnd .a a n) l) c.toNat) s id g

/-- The value that ICMPI compares with, modulo 2^32 (07 R142). -/
def cmpiValue (p : Pre) (v : BitVec 8) : Word :=
  match p.lit with
  | some l => BitVec.ofInt 32 ((l ++ v).toInt)
  | none => v.signExtend 32

/-- The conditions of ICMPI (07 R142). -/
def cmpiCond (c : BitVec 3) (x y : Word) : Bool :=
  if c = 0#3 then x == y else if c = 1#3 then x != y
  else if c = 2#3 then x.slt y else if c = 3#3 then x.sle y else if c = 4#3 then y.slt x else if c = 5#3 then y.sle x
  else if c = 6#3 then x.ult y else y.ule x

/-- ICMPI (07 R142). -/
def execIcmpi (d a : BitVec 7) (c : BitVec 3) (v : BitVec 8) (s : State) : Host.Outcome State Fault Refusal :=
  issue (.icmpi d a c v) s (maskWriter d fun s id g l =>
    cmpiCond c (src32 s id g g.pre (srcOpnd .a a 1) l) (cmpiValue g.pre v))

/-- MOVI (07 Table 9). -/
def execMovi (d : BitVec 7) (i : BitVec 11) (s : State) : Host.Outcome State Fault Refusal :=
  issue (.movi d i) s (immediate d 112#7 i fun _ y => y)

/-- The value that ABSET adds (07 R143). -/
def absetImm (p : Pre) (i : BitVec 10) : Int :=
  match p.lit with
  | some l => (l ++ i).toInt
  | none => i.toInt

/-- ABSET (07 R143). -/
def execAbset (n : BitVec 3) (a : BitVec 7) (h : BitVec 1) (i : BitVec 10) (s : State) : Host.Outcome State Fault Refusal :=
  issue (.abset n a h i) s fun s id g =>
    let v := scalarOf s g a 1 + BitVec.ofInt 64 (absetImm g.pre i)
    let old := g.abreg n.toNat
    let new : VAddr := if h = 0#1 then old.extractLsb' 64 16 ++ v else v.extractLsb' 0 16 ++ old.extractLsb' 0 64
    retire (s.modGroup id fun x => { x with ab := storeSet x.ab n.toNat new }) id

/-- AADD (07 R144): e reads b as 64 bits, as 32 bits zero-extended, or as 32 bits sign-extended. -/
def execAadd (d a b : BitVec 7) (e : BitVec 2) (sh : BitVec 2) (s : State) : Host.Outcome State Fault Refusal :=
  issue (.aadd d a b e sh) s (binary d a b 2 2 (codeWid (e == 0#2)) fun x y =>
    let bv : Dword := if e = 0#2 then y.setWidth 64 else if e = 1#2 then (y.setWidth 32).setWidth 64 else (y.setWidth 32).signExtend 64
    (x.setWidth 64 + (bv <<< sh.toNat)).setWidth 128)

/-- I64 (07 R145). -/
def execI64 (d a b : BitVec 7) (f : BitVec 3) (s : State) : Host.Outcome State Fault Refusal :=
  issue (.i64 d a b f) s fun s id g =>
    if f.ult 4#3 then
      let sg := !f.getLsbD 0
      binary d a b 2 2 2 (fun x y =>
        wrapInt 64 ((if f.getLsbD 1 then remInt else divInt) (readInt sg 64 x) (readInt sg 64 y))) s id g
    else if f.ult 6#3 then
      binary d a b 2 1 1 (fun x y => wrapInt 64 (readInt (f == 4#3) 32 x * readInt (f == 4#3) 32 y)) s id g
    else
      perLane (dstOpnd d 2) (fun s id g l => wrapInt 64 (readInt (f == 6#3) 32 (srcOf s id g g.pre (srcOpnd .a a 1) l))) s id g

end Sys2Proof.Machine
end

