-- ==== Sys2Proof/Machine/Float.lean ====
section
/-! DEFINITION. The floating-point instructions of the vector pipes but the long-latency functions (07 R146 to R150, R152 to R157). -/
namespace Sys2Proof.Machine

/-- An FP32 operand under FTZ (06 R118). -/
def fpIn (g : Group) (x : Word) : Fval := flushIn fp32 (ftzOf g) (decodeF fp32 x.toNat)

/-- The random value of a lane under SR (06 R115); the other codes draw none. -/
def drawOf (r : BitVec 2) (w : Word) (i : Nat) : Nat := if r = 2#2 then srDraw w i else 0

/-- RoundFloat of an exact value with the flags it came with. -/
def roundWith (f : Fmtf) (g : Group) (rnd : Nat) (nsat : Bool) (r : Nat) (v : Fval × Flagset) : Nat × Flagset :=
  let (b, fl) := roundF f rnd nsat r (ftzOf g) v.1
  (b, v.2 ||| fl)

/-- A binary FP32 instruction with one rounding (07 R147). -/
def floatOp (d a b : BitVec 7) (r : BitVec 2) (op : Fval → Fval → Fval × Flagset) (s : State) (id : GroupId) (g : Group) :
    State :=
  fpIssue (r == 2#2) (fun s id g w l =>
      fpRes (roundWith fp32 g r.toNat false (drawOf r w l)
        (op (fpIn g (src32 s id g g.pre (srcOpnd .a a 1) l)) (fpIn g (src32 s id g g.pre (srcOpnd .b b 1) l)))))
    (fpWrite (dstOpnd d 1)) s id g

/-- FADD (07 R147). -/
def execFadd (d a b : BitVec 7) (r : BitVec 2) (s : State) : Host.Outcome State Fault Refusal :=
  issue (.fadd d a b r) s (floatOp d a b r addV)

/-- FSUB (07 R147): the addends are x and −y. -/
def execFsub (d a b : BitVec 7) (r : BitVec 2) (s : State) : Host.Outcome State Fault Refusal :=
  issue (.fsub d a b r) s (floatOp d a b r fun x y => addV x (negV y))

/-- FMUL (07 R147). -/
def execFmul (d a b : BitVec 7) (r : BitVec 2) (s : State) : Host.Outcome State Fault Refusal :=
  issue (.fmul d a b r) s (floatOp d a b r mulV)

/-- FFMA (07 R147): d is the addend. -/
def execFfma (d a b : BitVec 7) (r : BitVec 2) (s : State) : Host.Outcome State Fault Refusal :=
  issue (.ffma d a b r) s (fpIssue (r == 2#2) (fun s id g w l =>
      fpRes (roundWith fp32 g r.toNat false (drawOf r w l)
        (fmaV (fpIn g (src32 s id g g.pre (srcOpnd .a a 1) l)) (fpIn g (src32 s id g g.pre (srcOpnd .b b 1) l))
          (fpIn g (src32 s id g g.pre (bothOpnd d 1) l)))))
    (fpWrite (dstOpnd d 1)))

/-- FMIN and FMAX (07 R148): f 0 is .NUM, 1 is .NAN. -/
def floatMinMax (isMin : Bool) (d a b : BitVec 7) (f : BitVec 1) (s : State) (id : GroupId) (g : Group) : State :=
  fpIssue false (fun s id g _ l =>
      fpRes (minMax fp32 isMin (f == 0#1) (ftzOf g) (src32 s id g g.pre (srcOpnd .a a 1) l).toNat
        (src32 s id g g.pre (srcOpnd .b b 1) l).toNat))
    (fpWrite (dstOpnd d 1)) s id g

/-- FMIN (07 R148). -/
def execFmin (d a b : BitVec 7) (f : BitVec 1) (s : State) : Host.Outcome State Fault Refusal :=
  issue (.fmin d a b f) s (floatMinMax true d a b f)

/-- FMAX (07 R148). -/
def execFmax (d a b : BitVec 7) (f : BitVec 1) (s : State) : Host.Outcome State Fault Refusal :=
  issue (.fmax d a b f) s (floatMinMax false d a b f)

/-- The conditions of FCMP and the NV they raise (07 R149). -/
def cmpFloat (c : BitVec 3) (x y : Fval) : Bool × Flagset :=
  let un := isNanV x || isNanV y
  let sn := isSnanV x || isSnanV y
  let eq := !un && !ltV x y && !ltV y x
  let rel := fun b : Bool => (!un && b, if un then fNV else (0 : Flagset))
  let quiet := fun b : Bool => (b, if sn then fNV else (0 : Flagset))
  if c = 0#3 then quiet eq else if c = 1#3 then quiet (!eq)
  else if c = 2#3 then rel (ltV x y) else if c = 3#3 then rel (ltV x y || eq)
  else if c = 4#3 then rel (ltV y x) else if c = 5#3 then rel (ltV y x || eq)
  else if c = 6#3 then quiet un else quiet (!un)

/-- FCMP (07 R149). -/
def execFcmp (d a b : BitVec 7) (c : BitVec 3) (s : State) : Host.Outcome State Fault Refusal :=
  issue (.fcmp d a b c) s (fpIssue false (fun s id g _ l =>
      let r := cmpFloat c (fpIn g (src32 s id g g.pre (srcOpnd .a a 1) l)) (fpIn g (src32 s id g g.pre (srcOpnd .b b 1) l))
      (if r.1 then 1 else 0, r.2))
    (fun s id g f => maskWriter d (fun _ _ _ l => f l != 0) s id g))

/-- The result of FSGN (07 R150). -/
def signVal (f : BitVec 4) (x y : Word) : Word :=
  if isNanV (decodeF fp32 x.toNat) then 0x7FC00000#32
  else
    let m := x &&& 0x7FFFFFFF#32
    let sb := y &&& 0x80000000#32
    if f = 0#4 then m ||| sb else if f = 1#4 then m ||| (sb ^^^ 0x80000000#32) else if f = 2#4 then x ^^^ sb
    else if f = 3#4 then m else x ^^^ 0x80000000#32

/-- FSGN (07 R150): on bits, with no flag. -/
def execFsgn (d a b : BitVec 7) (f : BitVec 4) (s : State) : Host.Outcome State Fault Refusal :=
  issue (.fsgn d a b f) s (binary d a b 1 1 1 fun x y => (signVal f (x.setWidth 32) (y.setWidth 32)).setWidth 128)

/-- Element j of n bits of a packed word (06 R113). -/
def elemOf (n j : Nat) (x : Word) : Nat := x.toNat / 2 ^ (n * j) % 2 ^ n

/-- A packed word with element j of n bits replaced (06 R113). -/
def elemSet (n j : Nat) (x : Word) (y : Nat) : Word :=
  BitVec.ofNat 32 (x.toNat - elemOf n j x * 2 ^ (n * j) + y % 2 ^ n * 2 ^ (n * j))

/-- The random value of element e of a packed result whose elements have n bits (07 R146). -/
def drawElem (r : BitVec 2) (w : Word) (n l e : Nat) : Nat := drawOf r w (l + (if n = 32 then 0 else n) * e)

/-- FCVT (07 R152). With code SR the generator advances for INT32 to INT8 too, which saturates and rounds nothing: whether that counts as a
rounding of 06 R115 is left open (log 37). -/
def execFcvt (d a : BitVec 7) (sf tf : BitVec 3) (n : BitVec 1) (j : BitVec 2) (r : BitVec 2) (s : State) :
    Host.Outcome State Fault Refusal :=
  issue (.fcvt d a sf tf n j r) s (fpIssue (r == 2#2) (fun s id g w l =>
      let x := src32 s id g g.pre (srcOpnd .a a 1) l
      let e := if fmtBits sf = 32 then x.toNat else elemOf (fmtBits sf) j.toNat x
      let (y, fl) := convertE sf.toNat tf.toNat r.toNat (n == 1#1) (drawElem r w (fmtBits tf) l j.toNat) (ftzOf g) e
      (if fmtBits tf = 32 then BitVec.ofNat 128 y
       else (elemSet (fmtBits tf) j.toNat (src32 s id g g.pre (bothOpnd d 1) l) y).setWidth 128, fl))
    (fpWrite (dstOpnd d 1)))

/-- The destination of FCVTS: E4M3, E5M2, BF16, FP16 (07 R153). -/
def scaleFmt (t : BitVec 2) : Fmtf := if t = 0#2 then e4m3 else if t = 1#2 then e5m2 else if t = 2#2 then bf16 else fp16

/-- FCVTS (07 R153): each product is exact and rounded once. -/
def execFcvts (d a b : BitVec 7) (t : BitVec 2) (r : BitVec 2) (s : State) : Host.Outcome State Fault Refusal :=
  issue (.fcvts d a b t r) s (fpIssue (r == 2#2) (fun s id g w l =>
      let n := if t.ult 2#2 then 4 else 2
      let f := scaleFmt t
      let xs := srcOf s id g g.pre (srcOpnd .a a n) l
      let sc := fpIn g (src32 s id g g.pre (srcOpnd .b b 1) l)
      let rs := (List.range n).map fun e =>
        roundWith f g r.toNat false (drawElem r w f.bits l e) (mulV (fpIn g (xs.extractLsb' (32 * e) 32)) sc)
      (BitVec.ofNat 128 ((rs.zipIdx.map fun p => p.1.1 * 2 ^ (f.bits * p.2)).sum), unionFlags (rs.map (·.2))))
    (fpWrite (dstOpnd d 1)))

/-- A packed 16-bit operation on both elements (07 R154). -/
def packed2 (d a b : BitVec 7) (f : BitVec 1) (r : BitVec 2) (addend : Bool) (op : Fval → Fval → Fval → Fval × Flagset)
    (s : State) (id : GroupId) (g : Group) : State :=
  fpIssue (r == 2#2) (fun s id g w l =>
      let m := if f = 0#1 then fp16 else bf16
      let x := src32 s id g g.pre (srcOpnd .a a 1) l
      let y := src32 s id g g.pre (srcOpnd .b b 1) l
      let z := if addend then src32 s id g g.pre (bothOpnd d 1) l else 0
      let el := fun (v : Word) e => flushIn m (ftzOf g) (decodeF m (elemOf 16 e v))
      let rs := [0, 1].map fun e =>
        roundWith m g r.toNat false (drawElem r w 16 l e) (op (el x e) (el y e) (el z e))
      (BitVec.ofNat 128 ((rs.zipIdx.map fun p => p.1.1 * 2 ^ (16 * p.2)).sum), unionFlags (rs.map (·.2))))
    (fpWrite (dstOpnd d 1)) s id g

/-- HADD2 (07 R154). -/
def execHadd2 (d a b : BitVec 7) (f : BitVec 1) (r : BitVec 2) (s : State) : Host.Outcome State Fault Refusal :=
  issue (.hadd2 d a b f r) s (packed2 d a b f r false fun x y _ => addV x y)

/-- HMUL2 (07 R154). -/
def execHmul2 (d a b : BitVec 7) (f : BitVec 1) (r : BitVec 2) (s : State) : Host.Outcome State Fault Refusal :=
  issue (.hmul2 d a b f r) s (packed2 d a b f r false fun x y _ => mulV x y)

/-- HFMA2 (07 R154). -/
def execHfma2 (d a b : BitVec 7) (f : BitVec 1) (r : BitVec 2) (s : State) : Host.Outcome State Fault Refusal :=
  issue (.hfma2 d a b f r) s (packed2 d a b f r true fmaV)

/-- An exact sum of values in no order, with NV for infinities of both signs among them (07 R147, R155; log 33). -/
def sumV (l : List (Fval × Flagset)) : Fval × Flagset :=
  let v := match l with
    | [] => .fin false 0 0
    | x :: r => r.foldl (fun acc y => (addV acc y.1).1) x.1
  let clash := [false, true].all fun neg => l.any fun e => e.1 == .inf neg
  (v, l.foldl (fun fl e => fl ||| e.2) (if clash then fNV else 0))

/-- DOT4 on floating elements (07 R155): d first, then the products j = 0 to 3, exact, rounded once with RNE. -/
def dotFloat (g : Group) (fa fb : Fmtf) (x y z : Word) : Nat × Flagset :=
  let el := fun (f : Fmtf) (v : Word) j => flushIn f (ftzOf g) (decodeF f (elemOf 8 j v))
  let acc := fpIn g z
  roundWith fp32 g 0 false 0
    (sumV ((acc, if isSnanV acc then fNV else 0) :: (List.range 4).map fun j => mulV (el fa x j) (el fb y j)))

/-- DOT4 on INT8 (07 R155). -/
def dotInt (sat : Bool) (x y z : Word) : Word :=
  let v := z.toInt + ((List.range 4).map fun j => sextInt 8 (elemOf 8 j x) * sextInt 8 (elemOf 8 j y)).foldl (· + ·) 0
  BitVec.ofInt 32 (if sat then clampInt (-(2 ^ 31)) (2 ^ 31 - 1) v else v)

/-- DOT4 (07 R155). -/
def execDot4 (d a b : BitVec 7) (f : BitVec 4) (s : State) : Host.Outcome State Fault Refusal :=
  issue (.dot4 d a b f) s (fpIssue false (fun s id g _ l =>
      let x := src32 s id g g.pre (srcOpnd .a a 1) l
      let y := src32 s id g g.pre (srcOpnd .b b 1) l
      let z := src32 s id g g.pre (bothOpnd d 1) l
      if f.ult 4#4 then
        fpRes (dotFloat g (if f = 0#4 ∨ f = 2#4 then e4m3 else e5m2) (if f = 0#4 ∨ f = 3#4 then e4m3 else e5m2) x y z)
      else ((dotInt (f == 5#4) x y z).setWidth 128, 0))
    (fpWrite (dstOpnd d 1)))

/-- A value times 2^n. Beyond ±1,000 every nonzero FP32 value overflows or falls below half of the least value, so the power is cut
there. -/
def scaleV (v : Fval) (n : Int) : Fval :=
  match v with
  | .fin s m e => .fin s m (e + clampInt (-1000) 1000 n)
  | _ => v

/-- FSCL (07 R156). -/
def execFscl (d a b : BitVec 7) (r : BitVec 2) (s : State) : Host.Outcome State Fault Refusal :=
  issue (.fscl d a b r) s (fpIssue (r == 2#2) (fun s id g w l =>
      let v := fpIn g (src32 s id g g.pre (srcOpnd .a a 1) l)
      fpRes (roundWith fp32 g r.toNat false (drawOf r w l)
        (scaleV v (src32 s id g g.pre (srcOpnd .b b 1) l).toInt, 0)))
    (fpWrite (dstOpnd d 1)))

/-- The magnitude of an integral value chosen by a mode of FRND (07 R156). -/
def integral (f : BitVec 4) (neg : Bool) (m : Nat) (e : Int) : Nat :=
  let (n, lost) := roundQ m e 0 1 0
  if f = 0#4 then (roundQ m e 0 0 0).1
  else if f = 2#4 then (if neg && lost then n + 1 else n)
  else if f = 3#4 then (if !neg && lost then n + 1 else n)
  else if f = 4#4 then (roundQ (2 * m) e 0 1 0).1 - n
  else n

/-- The result of FRND (07 R156). -/
def roundIntegral (f : BitVec 4) (v : Fval) : Nat × Flagset :=
  match v with
  | .nan sg => (fp32.canonNan, if sg then fNV else 0)
  | .inf n => (fp32.infBits n, 0)
  | .fin n m e => (if 0 ≤ e then encodeF fp32 v else encodeF fp32 (.fin n (integral f n m e) 0), 0)

/-- FRND (07 R156). -/
def execFrnd (d a : BitVec 7) (f : BitVec 4) (s : State) : Host.Outcome State Fault Refusal :=
  issue (.frnd d a f) s (fpIssue false (fun s id g _ l =>
      fpRes (roundIntegral f (fpIn g (src32 s id g g.pre (srcOpnd .a a 1) l))))
    (fpWrite (dstOpnd d 1)))

/-- The class of an element (07 R157). -/
def classOf (f : Fmtf) (b : Nat) : Nat :=
  match decodeF f b with
  | .nan sg => if sg then 8 else 9
  | .inf n => if n then 0 else 7
  | .fin n m _ =>
    if m = 0 then (if n then 3 else 4)
    else if m < 2 ^ f.fb then (if n then 2 else 5) else (if n then 1 else 6)

/-- FIC (07 R157): no flag, no FTZ. -/
def execFic (d a : BitVec 7) (f : BitVec 4) (s : State) : Host.Outcome State Fault Refusal :=
  issue (.fic d a f) s (perLane (dstOpnd d 1) fun s id g l =>
    let x := src32 s id g g.pre (srcOpnd .a a 1) l
    BitVec.ofNat 128 (2 ^ (if f = 0#4 then classOf fp32 x.toNat
      else classOf (if f.ult 3#4 then fp16 else bf16) (elemOf 16 ((f.toNat - 1) % 2) x))))

end Sys2Proof.Machine
end

