-- ==== Sys2Proof/Machine/Matrix.lean ====
section
/-! DEFINITION. The matrix engine (08): tile registers and accumulators in the on-chip window map, one tile step (R172, R173), the
commands and their queue (R170, R171, R174 to R177), and matrix jobs with their walker (R178 to R186, R360). -/
namespace Sys2Proof.Machine

/-- The place of a byte of a tile register in the window map (03 Table 2, 08). -/
def tileOff (c t i e : Nat) : Nat := 0x20000000 + c * 0x100000 + t * 16384 + i * 128 + e
/-- The place of an accumulator word in the window map (03 Table 2, 08). -/
def accOff (c j i q : Nat) : Nat := 0x30000000 + c * 0x100000 + j * 65536 + i * 512 + q * 4

/-- The control of a tile register. -/
def tctlOf (c : Cluster) (t : Nat) : Tctl := (tabGet c.tctl t).getD Tctl.reset
/-- Rows of a tile's shape (08 Table 1). -/
def Tctl.rows (t : Tctl) : Nat := t.rm1.toNat + 1
/-- Columns of a tile's shape, in elements (08 Table 1). -/
def Tctl.cols (t : Tctl) : Nat := t.cm1.toNat + 1
/-- Bytes of an element of a tile (08 R167). -/
def Tctl.size (t : Tctl) : Nat := codeBytes t.fmt.toNat
/-- Bytes of a row of a tile's shape (08 R167). -/
def Tctl.rowBytes (t : Tctl) : Nat := t.cols * t.size

/-- A pair of formats that a step allows (08 R172). -/
def formatsOk (a b : Nat) : Bool :=
  (decide (a = 4 ∨ a = 5) && decide (b = 4 ∨ b = 5)) || (decide (a = b) && decide (a = 2 ∨ a = 3 ∨ a = 6))

/-- The shape code of a step (08 R172, R175): 0 for a shape that R172 allows. The evenness of a sparse A is checked by its callers. -/
def shapeCode (sparse : Bool) (ta tb tm : Tctl) : Nat :=
  if !formatsOk ta.fmt.toNat tb.fmt.toNat then 1
  else if !sparse then (if ta.cols = tb.cols then 0 else 2)
  else if ta.fmt = 4#4 ∧ tb.fmt = 4#4 ∧ tb.cols % 8 = 0 ∧ tb.cols = 2 * ta.cols ∧ tm.fmt = 0#4 ∧ ta.rows ≤ tm.rows ∧
      tb.cols / 8 ≤ tm.cols then 0
  else 3

/-- An element of a tile: row i, column e of z bytes; an uncorrectable word reads as zero. -/
def tileElem (s : State) (c t i e z : Nat) : Nat := leNat (readClean s 1 (tileOff c t i (e * z)) z).1

/-- Whether the shape of a tile meets an uncorrectable word. -/
def tilePoisoned (s : State) (c t rows bytes : Nat) : Bool :=
  !s.poison.isEmpty && (List.range rows).any fun i => (poisonIn s 1 (tileOff c t i 0) bytes).isSome

/-- Whether a block of an accumulator meets an uncorrectable word. -/
def accPoisoned (s : State) (c j rows cols : Nat) : Bool :=
  !s.poison.isEmpty && (List.range rows).any fun i => (poisonIn s 1 (accOff c j i 0) (4 * cols)).isSome

/-- An accumulator word as the engine reads it. -/
def accWord (s : State) (c j i q : Nat) : Word := BitVec.ofNat 32 (leNat (readClean s 1 (accOff c j i q) 4).1)

/-- Write a block of an accumulator, row by row. -/
def accFill (s : State) (c j rows cols : Nat) (f : Nat → Nat → Word) : State :=
  (List.range rows).foldl (fun s i =>
    writeMem s 1 (accOff c j i 0) ((List.range cols).flatMap fun q => leBytes 4 (f i q).toNat)) s

/-- The tile products of an element (08 R173): the products as exact integers or values, and whether a metadata nibble was illegal. -/
structure StepArgs where
  c : Nat
  acc : Nat
  a : Nat
  b : Nat
  m : Nat
  ovw : Bool
  sparse : Bool
  ta : Tctl
  tb : Tctl
  deriving DecidableEq, Repr

/-- The metadata nibble of a group (08 R173). -/
def metaNibble (s : State) (x : StepArgs) (i g : Nat) : Nat :=
  tileElem s x.c x.m i (g / 2) 1 / (if g % 2 = 0 then 1 else 16) % 16

/-- The pairs of element numbers that form products (08 R173): a column of A with a column of B. -/
def stepPairs (s : State) (x : StepArgs) (i : Nat) : List (Nat × Nat) :=
  if x.sparse then
    (List.range (x.tb.cols / 4)).flatMap fun g =>
      let nib := metaNibble s x i g
      let p0 := nib % 4
      let p1 := nib / 4
      if p1 ≤ p0 then [] else [(2 * g, 4 * g + p0), (2 * g + 1, 4 * g + p1)]
  else (List.range x.ta.cols).map fun k => (k, k)

/-- Whether a row of metadata holds an illegal nibble (08 R173). -/
def badMeta (s : State) (x : StepArgs) : Bool :=
  x.sparse && (List.range x.ta.rows).any fun i => (List.range (x.tb.cols / 4)).any fun g =>
    let nib := metaNibble s x i g
    decide (nib / 4 ≤ nib % 4)

/-- One element of a tile step (08 R173, 06 R123, R124). -/
def stepElem (s : State) (x : StepArgs) (sa : Nat → Word) (sb : Word) (i q : Nat) : Word :=
  let za := x.ta.size
  let zb := x.tb.size
  let pairs := stepPairs s x i
  let c : Word := if x.ovw then 0 else accWord s x.c x.acc i q
  if x.ta.fmt = 6#4 then
    let sum := pairs.foldl (fun (t : Int) e =>
      t + sextInt 8 (tileElem s x.c x.a i e.1 1) * sextInt 8 (tileElem s x.c x.b q e.2 1)) 0
    let y := c.toInt + sum
    BitVec.ofInt 32 (if y < -(2 ^ 31 : Int) then -(2 ^ 31 : Int) else if (2 ^ 31 : Int) ≤ y then 2 ^ 31 - 1 else y)
  else
    let fa := fmtOfCode x.ta.fmt.toNat
    let fb := fmtOfCode x.tb.fmt.toNat
    let sum := (sumV (pairs.map fun e => mulV (decodeF fa (tileElem s x.c x.a i e.1 za)) (decodeF fb (tileElem s x.c x.b q e.2 zb)))).1
    let p := (roundF fp32 0 false 0 false sum).1
    let sc := (roundF fp32 0 false 0 false (mulV (decodeF fp32 (sa i).toNat) (decodeF fp32 sb.toNat)).1).1
    BitVec.ofNat 32 (roundF fp32 0 false 0 false (fmaV (decodeF fp32 p) (decodeF fp32 sc) (decodeF fp32 c.toNat)).1).1

/-- One tile step (08 R173): the block of the accumulator, its type (08 R168) and MDERR. -/
def tileStep (s : State) (x : StepArgs) (sa : Nat → Word) (sb : Word) : State :=
  let s1 := accFill s x.c x.acc x.ta.rows x.tb.rows (stepElem s x sa sb)
  s1.modCluster x.c fun k =>
    { k with atype := if x.ta.fmt = 6#4 then k.atype ||| (1#8 <<< x.acc) else k.atype &&& ~~~(1#8 <<< x.acc),
             mderr := k.mderr || badMeta s x }

/-- Whether a step reads an uncorrectable word. -/
def stepPoisoned (s : State) (x : StepArgs) : Bool :=
  tilePoisoned s x.c x.a x.ta.rows x.ta.rowBytes || tilePoisoned s x.c x.b x.tb.rows x.tb.rowBytes ||
  (x.sparse && tilePoisoned s x.c x.m x.ta.rows (x.tb.cols / 8)) ||
  (!x.ovw && accPoisoned s x.c x.acc x.ta.rows x.tb.rows)

/-- One, as FP32. -/
def fp32One : Word := 0x3F800000#32

/-- The next job of the queue starts when it is at the head (08 R171). -/
def settleQueue (s : State) (c : Nat) : State :=
  s.modCluster c fun k =>
    { k with queue := match k.queue with
        | .job j :: r => .job { j with running := true } :: r
        | q => q }

/-- The command at the head has been performed. -/
def popCommand (s : State) (c : Nat) : State := settleQueue (s.modCluster c fun k => { k with queue := k.queue.drop 1 }) c

/-- A checked command enters the queue, or its group waits for a place (08 R170); fin does what the instruction does as it enters. -/
def enqueue (s : State) (id : GroupId) (cmd : Command) (fin : State → State) : State :=
  let c := clusterOf id
  if (s.cluster c).queue.length < 16 then
    retire (fin (settleQueue (s.modCluster c fun k => { k with queue := k.queue ++ [cmd] }) c)) id
  else waitIn s id (.matrixQueue cmd)

/-- A matrix instruction that places a command (08 R170): with EM 0 it does nothing; one that has waited enters with the command that was
checked at issue. -/
def place (fin : State → State) (check : State → State) (s : State) (id : GroupId) (g : Group) : State :=
  if g.em = 0 then retire s id
  else match g.wait with
    | .matrixQueue cmd => enqueue s id cmd fin
    | _ => check s

/-- The base of TILE and of the drains (08 R174). -/
def matrixBase (s : State) (g : Group) (n : BitVec 3) (a : BitVec 7) : VAddr := vaAdd (g.abreg n.toNat) (scalarOf s g a 1).toNat

/-- The rows of a transfer, cut into pieces of one page each, row by row (08 R174). -/
def rowPieces (base : VAddr) (stride : Int) (rows bytes : Nat) : List (Nat × Nat × VAddr × Nat) :=
  (List.range rows).flatMap fun (i : Nat) =>
    (piecesOf (vaAdd base ((i : Int) * stride)) bytes).map fun e => (i, e.2.1, e.1, e.2.2)

/-- The place of an access of the sequencer, with the checks of LD or ST (08 R174); none where another device holds the byte. -/
def placeOf (s : State) (id : GroupId) (g : Group) (grant : Grant) (va : VAddr) : Except Cause (Option (Nat × Nat)) :=
  if isLocal s va then
    match translate s (unitOf id) g.part false g.mode grant (vaKind va) (vaOff va) with
    | .error c => .error c
    | .ok p => .ok (some (p.kind, p.off))
  else if vaKind va = 4 ∧ grant = .store then .error .prot
  else match remoteFaultOf s va with
    | some c => .error c
    | none => .ok none

/-- The other side of a piece that lies in a shadowed pair: the pair, whether the place taken at issue is its upper page, and the same byte of
the other page, where the access may reach it (12 R264, R265). -/
def shadowSide (s : State) (part : Nat) (mode : Mode) (grant : Grant) (kind off : Nat) : Option ((Nat × Nat × Nat) × Bool × Option (Nat × Nat)) :=
  if mode = .h then none
  else match stage1 s (s.part part) kind off with
    | .error _ => none
    | .ok l1 =>
      if !l1.shd then none
      else match findPair s part kind l1.logSize l1.base with
        | none => none
        | some q =>
          let here := pairBase q (grant == .store)
          let i := (if here = q.lower then q.lower + 2 ^ q.logSize else q.lower) + off % 2 ^ l1.logSize
          let there := match stage2 s (s.part part).s2root kind i with
            | .ok l2 => if leafGrants l2 grant && physOk s part false kind (leafAddr l2 i) then some (kind, leafAddr l2 i) else none
            | .error _ => none
          some ((kind, q.logSize, q.lower), here != q.lower, there)

/-- A piece of a command as it was translated at issue. -/
def pieceOf (s : State) (g : Group) (grant : Grant) (row at_ n : Nat) (va : VAddr) (p : Option (Nat × Nat)) : Piece :=
  let side := if p.isSome then shadowSide s g.part g.mode grant (vaKind va) (vaOff va) else none
  { row := row, at_ := at_, len := n, va := va, phys := p, pair := side.map (·.1), upper := (side.map (·.2.1)).getD false,
    other := side.bind (·.2.2), part := g.part, stamp := s.qepoch }

/-- Translate the pieces in order: all of them, or the first that fails. -/
def placePieces (s : State) (id : GroupId) (g : Group) (grant : Grant) :
    List (Nat × Nat × VAddr × Nat) → Except (Cause × VAddr) (List Piece)
  | [] => .ok []
  | (i, k, va, n) :: r =>
    match placeOf s id g grant va with
    | .error c => .error (c, va)
    | .ok p =>
      match placePieces s id g grant r with
      | .error e => .error e
      | .ok l => .ok (pieceOf s g grant i k n va p :: l)

/-- The checks of TILE and of the drains (08 R174, R176): alignment, then each page; the command that go makes then enters. Of a page that fails,
EVAL records the start of the row's piece in it, where 03 R66 speaks of a lane's address only (log 36). -/
def transferCheck (grant : Grant) (n : BitVec 3) (a : BitVec 7) (rows bytes : Nat) (go : List Piece → Command) (id : GroupId) (g : Group)
    (s : State) : State :=
  let base := matrixBase s g n a
  let stride := (s.cluster (clusterOf id)).mtstr.toInt
  if base.toNat % 4 ≠ 0 ∨ stride % 4 ≠ 0 then raiseAll s id g .aln (packVa base)
  else match placePieces s id g grant (rowPieces base stride rows bytes) with
    | .error (c, va) => raiseWhole { s with fresh := s.fresh + 8 } id g c (packVa va)
    | .ok l =>
      let s1 := l.foldl (fun s p =>
        if p.phys.isSome then tlbTouch s (unitOf id) g.part g.mode grant (vaKind p.va) (vaOff p.va) else s) s
      enqueue s1 id (go l) fun s => s

/-- TILE (08 R174). -/
def tileMove (st : Bool) (t : BitVec 4) (a : BitVec 7) (n : BitVec 3) (s : State) (id : GroupId) (g : Group) : State :=
  let tc := tctlOf (s.cluster (clusterOf id)) t.toNat
  place (fun s => s)
    (transferCheck (if st then .store else .load) n a tc.rows tc.rowBytes (.tile st t.toNat) id g) s id g

/-- TILE.TLD (08 R174). -/
def execTileTld (t : BitVec 4) (a : BitVec 7) (n : BitVec 3) (s : State) : Host.Outcome State Fault Refusal :=
  issue (.tileTld t a n) s (tileMove false t a n)

/-- TILE.TST (08 R174). -/
def execTileTst (t : BitVec 4) (a : BitVec 7) (n : BitVec 3) (s : State) : Host.Outcome State Fault Refusal :=
  issue (.tileTst t a n) s (tileMove true t a n)

/-- MMA (08 R175): a shape that breaks R172 traps ILL with its shape code. -/
def execMma (d : BitVec 3) (a : BitVec 4) (b : BitVec 4) (f : BitVec 2) (s : State) : Host.Outcome State Fault Refusal :=
  issue (.mma d a b f) s fun s id g =>
    let c := s.cluster (clusterOf id)
    let sparse := f.getLsbD 1
    let ta := tctlOf c a.toNat
    let tb := tctlOf c b.toNat
    let tm := tctlOf c (a.toNat + 1)
    place (fun s => s) (fun s =>
      let code := shapeCode sparse ta tb tm
      if code ≠ 0 then raiseAll s id g .ill ((wordOf (.mma d a b f)).setWidth 64 ||| (BitVec.ofNat 64 code <<< 32))
      else enqueue s id (.step d.toNat a.toNat b.toNat (!f.getLsbD 0) sparse ta tb tm) fun s => s) s id g

/-- ACC.ZERO (08 R176). -/
def execAccZero (d : BitVec 3) (s : State) : Host.Outcome State Fault Refusal :=
  issue (.accZero d) s fun s id g => place (fun s => s) (fun s => enqueue s id (.zero d.toNat) fun s => s) s id g

/-- ACC.MOVE (08 R176). -/
def execAccMove (d : BitVec 3) (a : BitVec 3) (s : State) : Host.Outcome State Fault Refusal :=
  issue (.accMove d a) s fun s id g => place (fun s => s) (fun s => enqueue s id (.move d.toNat a.toNat) fun s => s) s id g

/-- The drains (08 R176): the block of MDCFG, raw or converted. -/
def accDrain (cvt : Bool) (d : BitVec 3) (a : BitVec 7) (n : BitVec 3) (s : State) (id : GroupId) (g : Group) : State :=
  let c := s.cluster (clusterOf id)
  let z := if cvt then codeBytes c.mdcfg.ofmt.toNat else 4
  place (fun s => s)
    (transferCheck .store n a (c.mdcfg.rm1.toNat + 1) ((c.mdcfg.cm1.toNat + 1) * z)
      (fun l => .drain d.toNat cvt l c.mdcfg c.mdscl) id g) s id g

/-- ACC.DRAIN (08 R176). -/
def execAccDrain (d : BitVec 3) (a : BitVec 7) (n : BitVec 3) (s : State) : Host.Outcome State Fault Refusal :=
  issue (.accDrain d a n) s (accDrain false d a n)

/-- ACC.CVT (08 R176). -/
def execAccCvt (d : BitVec 3) (a : BitVec 7) (n : BitVec 3) (s : State) : Host.Outcome State Fault Refusal :=
  issue (.accCvt d a n) s (accDrain true d a n)

/-- A write of TCTLn (08 R167): an illegal format or shape discards it and sets BADCFG. -/
def tctlWriteTo (t : Nat) (v : Dword) (s : State) (id : GroupId) (_ : Group) : State :=
  let x : Tctl := ⟨v.extractLsb' 16 4, v.extractLsb' 8 7, v.extractLsb' 0 7⟩
  let f := x.fmt.toNat
  s.modCluster (clusterOf id) fun c =>
    if f = 1 ∨ 7 ≤ f ∨ 128 < x.rowBytes then { c with badcfg := true } else { c with tctl := tabSet c.tctl t x }

/-- TCTL_WRITE (08 R167). -/
def execTctlWrite (t : BitVec 4) (v : BitVec 64) (s : State) : Host.Outcome State Fault Refusal :=
  csrUnit (0x040 + t.toNat) (tctlWriteTo t.toNat v) s

/-- A write of MDCFG (08 R177). -/
def mdcfgWriteTo (v : Dword) (s : State) (id : GroupId) (_ : Group) : State :=
  let x : Mdcfg := ⟨v.extractLsb' 20 4, v.getLsbD 18, v.extractLsb' 16 2, v.extractLsb' 8 7, v.extractLsb' 0 7⟩
  s.modCluster (clusterOf id) fun c =>
    if x.ofmt = 0#4 ∨ 8 ≤ x.ofmt.toNat ∨ x.rnd = 3#2 ∨ (x.nsat ∧ x.ofmt ≠ 4#4) then { c with badcfg := true }
    else { c with mdcfg := x }

/-- MDCFG_WRITE (08 R177). -/
def execMdcfgWrite (v : BitVec 64) (s : State) : Host.Outcome State Fault Refusal := csrUnit 0x051 (mdcfgWriteTo v) s

/-- Where a piece lies now: the directory is consulted at the access (12 R265, R266). A pair that is gone, or a page that could not be
reached at issue, leaves the place taken then (log 47). -/
def pieceAt (s : State) (p : Piece) (write : Bool) : Option (Nat × Nat) :=
  match p.phys, p.pair.bind fun x => findPair s p.part x.1 x.2.1 x.2.2 with
  | some a, some q => if (pairBase q write != q.lower) == p.upper then some a else some (p.other.getD a)
  | a, _ => a

/-- Whether a place is still one that the command's partition may reach: a pinned unit may have been unpinned under it, which 03 R57 bars,
and be another partition's (00 R3, log 36). -/
def pieceHeld (s : State) (p : Piece) (k o : Nat) : Bool := physOk s p.part false k o

/-- The bytes of a piece that a command reads: uncorrectable ones as zero, and whether there are any (08 R174); of a place that is no longer
its partition's zeros. -/
def pieceRead (s : State) (p : Piece) : List Byte × Bool :=
  match pieceAt s p false with
  | some (k, o) =>
    if pieceHeld s p k o then (let (l, bad) := readClean s k o p.len; (l, bad.isSome)) else (List.replicate p.len 0, false)
  | none =>
    if Config.remoteFault s.fresh p.va = Cause.ecc.code then (List.replicate p.len 0, true)
    else ((List.range p.len).map (Config.remoteByte s.fresh p.va), false)

/-- A piece that a command writes; a place that is no longer its partition's it leaves alone. -/
def pieceWrite (s : State) (p : Piece) (l : List Byte) : State :=
  match pieceAt s p true with
  | some (k, o) => if pieceHeld s p k o then writeMem s k o l else s
  | none => { s with sent := s.sent ++ [.write p.va l] }

/-- MSTAT.ECC. -/
def setMatrixEcc (s : State) (c : Nat) (b : Bool) : State := if b then s.modCluster c fun k => { k with eccBit := true } else s

/-- TILE.TLD as it is performed (08 R174). -/
def loadTile (s : State) (c t : Nat) (l : List Piece) : State :=
  l.foldl (fun s p =>
    let (b, bad) := pieceRead s p
    let s1 := match pieceAt s p false with
      | some a => linkError s a.1 a.2
      | none => { s with sent := s.sent ++ [.read p.va p.len], fresh := s.fresh + 1 }
    setMatrixEcc (writeMem s1 1 (tileOff c t p.row p.at_) b) c bad) s

/-- TILE.TST as it is performed (08 R174). -/
def storeTile (s : State) (c t : Nat) (l : List Piece) : State :=
  l.foldl (fun s p =>
    let (b, bad) := readClean s 1 (tileOff c t p.row p.at_) p.len
    setMatrixEcc (pieceWrite s p b) c bad.isSome) s

/-- The drain conversion of one word (08 R176): y as F, with r the random value. -/
def drainElem (isInt : Bool) (cfg : Mdcfg) (scale w : Word) (r : Nat) : Nat :=
  let x : Fval := if isInt then .fin (decide (w.toInt < 0)) w.toInt.natAbs 0 else decodeF fp32 w.toNat
  let v := (mulV x (decodeF fp32 scale.toNat)).1
  let f := cfg.ofmt.toNat
  if f = 6 then intBits 8 (toInt 8 cfg.rnd.toNat r v).1
  else if f = 7 then intBits 32 (toInt 32 cfg.rnd.toNat r v).1
  else (roundF (fmtOfCode f) cfg.rnd.toNat cfg.nsat r false v).1

/-- The bytes of a row of a drain, with the generator advanced once for a row that is converted with SR (06 R115). -/
def drainRow (s : State) (c acc : Nat) (cvt : Bool) (cfg : Mdcfg) (scale : Word) (i : Nat) : State × List Byte :=
  let n := cfg.cm1.toNat + 1
  if cvt then
    let s1 := if cfg.rnd = 2#2 then s.modCluster c fun k => { k with gend := genStep k.gend } else s
    let w := (s1.cluster c).gend
    let isInt := (s.cluster c).atype.getLsbD acc
    (s1, (List.range n).flatMap fun q =>
      leBytes (codeBytes cfg.ofmt.toNat) (drainElem isInt cfg scale (accWord s c acc i q) (if cfg.rnd = 2#2 then srDraw w q else 0)))
  else (s, (List.range n).flatMap fun q => leBytes 4 (accWord s c acc i q).toNat)

/-- A drain as it is performed (08 R176). -/
def drainAcc (s : State) (c acc : Nat) (cvt : Bool) (l : List Piece) (cfg : Mdcfg) (scale : Word) : State :=
  let bad := accPoisoned s c acc (cfg.rm1.toNat + 1) (cfg.cm1.toNat + 1)
  (List.range (cfg.rm1.toNat + 1)).foldl (fun s i =>
    let (s1, row) := drainRow s c acc cvt cfg scale i
    (l.filter fun p => p.row == i).foldl (fun s p => pieceWrite s p ((row.drop p.at_).take p.len)) s1) (setMatrixEcc s c bad)

/-- A command that is no job, as the engine performs it (08 R171). -/
def perform (s : State) (c : Nat) : Command → State
  | .tile false t l => loadTile s c t l
  | .tile true t l => storeTile s c t l
  | .step acc a b ovw sparse ta tb _ =>
    let x : StepArgs := ⟨c, acc, a, b, a + 1, ovw, sparse, ta, tb⟩
    setMatrixEcc (tileStep s x (fun _ => fp32One) fp32One) c (stepPoisoned s x)
  | .zero acc => (accFill s c acc 128 128 fun _ _ => 0).modCluster c fun k => { k with atype := k.atype &&& ~~~(1#8 <<< acc) }
  | .move d a =>
    if d = a then s
    else
      setMatrixEcc ((accFill s c d 128 128 (accWord s c a)).modCluster c fun k =>
        { k with atype := if k.atype.getLsbD a then k.atype ||| (1#8 <<< d) else k.atype &&& ~~~(1#8 <<< d) }) c
        (accPoisoned s c a 128 128)
  | .drain acc cvt l cfg scale => drainAcc s c acc cvt l cfg scale
  | .job _ => s

/-- MATRIX_COMMAND_EXECUTE (08 R171). -/
def execMatrixCommandExecute (cluster : Nat) (s : State) : Host.Outcome State Fault Refusal :=
  match (s.cluster cluster).queue with
  | .job _ :: _ => .next s
  | cmd :: _ => .next (popCommand (perform s cluster cmd) cluster)
  | [] => .next s

/-- A byte of a job card or a format block. -/
def cardB (c : BitVec 512) (k : Nat) : Nat := recU c k 1
/-- TRIPl (08 Table 9). -/
def cardTrip (c : BitVec 512) (l : Nat) : Nat := recU c (4 + 2 * l) 2
/-- NLEV (08 Table 9). -/
def cardLev (c : BitVec 512) : Nat := cardB c 2 % 8
/-- CSTRl (08 Table 9). -/
def cardCstr (c : BitVec 512) (l : Nat) : Int := sextInt 4 (recU c 44 3 / 16 ^ l)
/-- The trip counts of the levels below NLEV. -/
def cardTrips (c : BitVec 512) : List Nat := (List.range (cardLev c)).map (cardTrip c)
/-- T (08 R180). -/
def cardT (c : BitVec 512) : Nat := (cardTrips c).foldl (· * ·) 1
/-- A sparse job. -/
def cardSparse (c : BitVec 512) : Bool := cardB c 0 == 2
/-- SCL of a format block (08 Table 10). -/
def fmtScl (f : BitVec 512) : Bool := cardB f 3 / 8 % 2 == 1

/-- The digits of an iteration in the mixed radix of the trip counts (08 R180). -/
def digitsOf : List Nat → Nat → List Nat
  | [], _ => []
  | t :: r, n => (n % t) :: digitsOf r (n / t)

/-- A sum over the levels: each digit times what a level gives (08 R180). -/
def levelSum (digits : List Nat) (f : Nat → Int) : Int := (digits.zipIdx.map fun e => (e.1 : Int) * f e.2).foldl (· + ·) 0

/-- The accumulator of an iteration (08 R180). -/
def iterAcc (c : BitVec 512) (d : List Nat) : Int := (cardB c 3 % 8 : Nat) + levelSum d (cardCstr c)

/-- The corners of the loop nest, which bound the accumulator index (08 R181). -/
def corners : List Nat → List (List Nat)
  | [] => [[]]
  | t :: r => (corners r).flatMap fun l => [0 :: l, (t - 1) :: l]

/-- A source of a job: whether it is a ring, and its number (08 Table 9). -/
def cardSrc (c : BitVec 512) (k : Nat) : Bool × Nat := (decide (128 ≤ cardB c k), cardB c k % 16)
/-- The base of a source's staging pair (08 Table 9, R360): 0 for A, 1 for B, 2 for metadata. -/
def stageBase (c : BitVec 512) (src : Nat) : Nat :=
  match src with
  | 0 => cardB c 50 % 16
  | 1 => cardB c 50 / 16
  | _ => cardB c 50 % 16 + 2
/-- The tile of a source at an iteration (08 R180, R183). -/
def srcTile (c : BitVec 512) (src n : Nat) : Nat :=
  let x := cardSrc c (47 + src)
  if x.1 then stageBase c src + n % 2 else x.2
/-- The sources a job has: A, B, and in a sparse job metadata. -/
def cardSrcs (c : BitVec 512) : List Nat := if cardSparse c then [0, 1, 2] else [0, 1]
/-- Those of them that are rings. -/
def ringSrcs (c : BitVec 512) : List Nat := (cardSrcs c).filter fun k => (cardSrc c (47 + k)).1
/-- The bytes of a row that a source's copies bring (08 Table 12): of its staging tile, for metadata K / 8. -/
def srcRowBytes (c : BitVec 512) (t : Nat → Tctl) (src : Nat) : Nat :=
  if src = 2 then (t (srcTile c 1 0)).cols / 8 else (t (srcTile c src 0)).rowBytes
/-- The rows that a source's copies bring. Its tile, for code 5 of Table 11, is these rows of srcRowBytes, for metadata too (log 36). -/
def srcRows (c : BitVec 512) (t : Nat → Tctl) (src : Nat) : Nat := (t (srcTile c src 0)).rows

/-- Code 1 of Table 11: a reserved value or a must-be-zero bit. -/
def cardReserved (c f : BitVec 512) : Bool :=
  let b := cardB c
  let k := cardB f
  let scl := if fmtScl f then 128 else 0
  (b 0 != 1 && b 0 != 2) || decide (2 ≤ b 1) || decide (8 ≤ b 2) || cardLev c == 0 || decide (5 < cardLev c) || decide (8 ≤ b 3) ||
  decide (16 ≤ b 46) || decide (b 47 / 16 % 8 ≠ 0) || decide (b 48 / 16 % 8 ≠ 0) || decide (b 49 / 16 % 8 ≠ 0) ||
  (b 0 == 1 && b 49 != 0) || decide (b 51 / 16 % 8 ≠ 0) || b 52 == 0 || decide (16 < b 52) || b 53 != 0 ||
  decide (7 < k 0) || decide (7 < k 1) || k 2 == 0 || decide (7 < k 2) || k 3 % 4 == 3 || decide (16 ≤ k 3) ||
  (decide (k 3 / 4 % 2 = 1) && k 2 != 4) || k 4 != scl || k 5 != scl || recU f 6 2 != 0 || recU f 52 12 != 0

/-- Whether a pair of staging tiles holds a tile. -/
def inPair (base t : Nat) : Bool := t == base || t == base + 1

/-- Code 4 of Table 11. -/
def cardTiles (c : BitVec 512) : Bool :=
  let srcs := cardSrcs c
  let rings := ringSrcs c
  let fixed := (srcs.filter fun k => !(cardSrc c (47 + k)).1).map fun k => (cardSrc c (47 + k)).2
  let base := stageBase c 0
  (cardSparse c && !(cardSrc c 47).1 && (cardSrc c 47).2 % 2 == 1) ||
  (rings.contains 0 && base % 2 == 1) || (rings.contains 1 && stageBase c 1 % 2 == 1) ||
  (rings.contains 2 && (if rings.contains 0 then base % 4 != 0 else base % 2 == 1 || decide (12 < base))) ||
  (rings.any fun k => fixed.any (inPair (stageBase c k))) ||
  (rings.any fun k => rings.any fun l => decide (k < l) && (inPair (stageBase c k) (stageBase c l) || inPair (stageBase c l) (stageBase c k)))

/-- The queue that a job's XQ names (08 Table 9): core and queue. -/
def cardQueue (cluster : Nat) (c : BitVec 512) : Nat × Nat := (2 * cluster + cardB c 51 / 8 % 2, cardB c 51 % 8)

/-- The checks of a card and a format block at issue (08 R181): 0, or the code of the first that fails. -/
def cardCode (s : State) (id : GroupId) (g : Group) (c f : BitVec 512) (n0 : Nat) : Nat :=
  let cl := clusterOf id
  let t := tctlOf (s.cluster cl)
  let trips := cardTrips c
  let rings := ringSrcs c
  let team := s.team? g.team
  let ring := fun k => match team with
    | some x => ringOf x (cardSrc c (47 + k)).2
    | none => ⟨false, 0, 0, 0, 0, 0, 0, 0, true, false⟩
  let q := cardQueue cl c
  let xq := (s.core q.1).queue q.2
  let scl := fmtScl f
  let ta := t (srcTile c 0 0)
  let tb := t (srcTile c 1 0)
  let ald := recI c 54 4
  if cardReserved c f then 1
  else if trips.any (· == 0) || decide (2 ^ 40 < cardT c) || decide (cardT c ≤ n0) then 2
  else if (corners trips).any fun d => let j := iterAcc c d; decide (j < 0 ∨ 7 < j) then 3
  else if cardTiles c then 4
  else if rings.any fun k =>
      let r := ring k
      !r.en || decide (slotB r < srcRows c t k * srcRowBytes c t k) || (List.range (ringN r)).any fun i => slotSt r i != 0 then 5
  else if cardEmit c && (!xq.en || boundUid s q.1 xq != team.map (·.uid)) then 6
  else if rings.any fun k => decide (ringN (ring k) < cardB c 52) then 7
  else if ta.fmt.toNat != cardB f 0 || tb.fmt.toNat != cardB f 1 || (scl && (cardB f 0 != 4 || cardB f 1 != 4)) ||
      (rings.any fun k => t (stageBase c k) != t (stageBase c k + 1)) ||
      shapeCode (cardSparse c) ta tb (t (srcTile c 2 0)) != 0 then 8
  else if decide (ald % 4 ≠ 0) || decide (recI c 58 4 % 4 ≠ 0) || decide (recI f 28 4 % 4 ≠ 0) ||
      (cardSparse c && rings.contains 0 &&
        (decide ((g.abreg 0).toNat % 64 ≠ 0) ||
         (trips.zipIdx.any fun e => decide (1 < e.1) && decide (16 * recI c (14 + 3 * e.2) 3 % 64 ≠ 0)))) then 9
  else 0

/-- Read 64 bytes for MJOB with LD's checks (08 R185): the bytes, uncorrectable ones as zero, and the sector. -/
def readBlock (s : State) (id : GroupId) (g : Group) (va : VAddr) : Except Cause (BitVec 512 × Option (BitVec 48)) :=
  match readLane s id g .load va 64 with
  | .error c => .error c
  | .ok (l, bad) => .ok (if bad.isSome then 0 else recOf l, bad)

/-- A queued job with what it captured (08 R180 to R183). -/
def jobOf (s : State) (id : GroupId) (g : Group) (card fmtb : BitVec 512) (n0 : Nat) : Job :=
  { card := card, fmtb := fmtb, ab0 := g.abreg 0, ab1 := g.abreg 1, ab2 := g.abreg 2, mode := g.mode, part := g.part,
    teamUid := ((s.team? g.team).map (·.uid)).getD 0, tctl := (s.cluster (clusterOf id)).tctl,
    ch0 := (cardRings card).map fun r => (r, match s.team? g.team with | some t => (ringOf t r).ch.toNat | none => 0),
    start := n0, next := n0, written := n0, recsDone := 0, claim := none, staged := (n0, n0, n0), permits := cardB card 52,
    running := false, eccAt := none, ending := none, inStep := false, canceled := false }

/-- What MJOB does as its job enters the queue (08 R181, R185): d reads 0, JST 2, and MDCFG takes OFMT, RND and NSAT. -/
def jobEnters (id : GroupId) (g : Group) (d : BitVec 7) (fmtb : BitVec 512) (s : State) : State :=
  (writeDst s id g g.pre (dstOpnd d 2) g.active fun _ => 0).modCluster (clusterOf id) fun c =>
    { c with jst := 2, mdcfg := { c.mdcfg with ofmt := BitVec.ofNat 4 (cardB fmtb 2), rnd := BitVec.ofNat 2 (cardB fmtb 3),
                                               nsat := decide (cardB fmtb 3 / 4 % 2 = 1) } }

/-- MJOB fn 0 after its checks of EM: the card, the format block, and their codes (08 R181, R185). -/
def issueJob (d a b : BitVec 7) (id : GroupId) (g : Group) (s : State) : State :=
  let card := vaAdd (g.abreg 3) (scalarOf s g a 1).toNat
  let n0 := (scalarOf s g b 2).toNat
  if card.toNat % 64 ≠ 0 then raiseAll s id g .aln (packVa card)
  else match readBlock s id g card with
    | .error c => raiseWhole { s with fresh := s.fresh + 8 } id g c (packVa card)
    | .ok (x, bad) =>
      let s1 := touchLane s id g .load card (.read card 64)
      let fva := vaAdd card (64 * recI x 62 2)
      match readBlock s1 id g fva with
      | .error c => raiseWhole { s1 with fresh := s1.fresh + 8 } id g c (packVa fva)
      | .ok (f, bad2) =>
        let ecc := (bad.orElse fun _ => bad2).toList.map fun o => (⟨1, o⟩ : EccInfo)
        let s2 := (touchLane s1 id g .load fva (.read fva 64)).modGroup id fun x => { x with eccNow := x.eccNow ++ ecc }
        let code := cardCode s2 id g x f n0
        if code ≠ 0 then retire (writeDst s2 id g g.pre (dstOpnd d 2) g.active fun _ => BitVec.ofNat 128 code) id
        else enqueue s2 id (.job (jobOf s2 id g x f n0)) (jobEnters id g d f)

/-- MJOB (08 R185). -/
def execMjob (d a b : BitVec 7) (s : State) : Host.Outcome State Fault Refusal :=
  issue (.mjob d a b) s fun s id g =>
    if g.em = 0 then retire s id
    else match g.wait with
      | .matrixQueue (.job j) => enqueue s id (.job j) (jobEnters id g d j.fmtb)
      | _ => issueJob d a b id g s

/-- MJOB.WAIT (08 R185). -/
def execMjobWait (d : BitVec 7) (s : State) : Host.Outcome State Fault Refusal :=
  issue (.mjobWait d) s fun s id g =>
    let c := s.cluster (clusterOf id)
    if g.em = 0 then retire s id
    else if c.queue.isEmpty then
      retire (writeDst s id g g.pre (dstOpnd d 2) g.active fun _ => c.jst.setWidth 128) id
    else waitIn s id .matrixIdle

/-- The records that the walker has written for a source, counted in iterations. -/
def writtenOf (j : Job) (src : Nat) : Nat := j.written + (if ((ringSrcs j.card).take j.recsDone).contains src then 1 else 0)

/-- Whether every slot that the walker filled has been taken and freed, and every slot of the queue that it claimed is filled (08 R184). -/
def slotsFreed (j : Job) : Bool :=
  !cardEmit j.card || (j.claim.isNone && (ringSrcs j.card).all fun k => decide (writtenOf j k ≤ stagedOf j k))

/-- Put a job back at the head of the queue. -/
def setJob (s : State) (c : Nat) (j : Job) : State :=
  s.modCluster c fun k => { k with queue := match k.queue with | .job _ :: r => .job j :: r | q => q }

/-- An ending that is complete (08 R184): JST, which an MJOB.CANCEL of queued jobs leaves at 6 (R185), MJPOS and the discarded commands. -/
def finishEnding (s : State) (c : Nat) : State :=
  match (s.cluster c).queue with
  | .job j :: rest =>
    (match j.ending with
     | some st =>
       if slotsFreed j && !j.inStep then
         s.modCluster c fun k =>
           { k with queue := [], disc := k.disc || !rest.isEmpty, jst := if j.canceled then 6 else st, mjIter := BitVec.ofNat 40 j.next,
                    mjCause := if st = 3#4 then k.mjCause else 0 }
       else s
     | none => s)
  | _ => s

/-- The running job ends with a status (08 R184): by its own step, or beside it. -/
def endRunning (s : State) (c : Nat) (st : BitVec 4) (own : Bool) : State :=
  finishEnding (s.modCluster c fun k => { k with queue := match k.queue with | h :: r => endJob st own h :: r | [] => [] }) c

/-- The start iterations of the queued jobs that have not started. -/
def queuedJobs (q : List Command) : List Nat := q.filterMap fun x => match x with
  | .job j => if j.running then none else some j.start
  | _ => none

/-- The queue without the jobs that have not started (08 R185). -/
def dropQueued (q : List Command) : List Command := q.filter fun x => match x with
  | .job j => j.running
  | _ => true

/-- MJOB.CANCEL (08 R185). Where the job at the head is already ending with another status, d reads as if none was running (log 36). -/
def execMjobCancel (d : BitVec 7) (s : State) : Host.Outcome State Fault Refusal :=
  issue (.mjobCancel d) s fun s id g =>
    let c := clusterOf id
    let fin := fun (s : State) (v : Dword) => retire (writeDst s id g g.pre (dstOpnd d 2) g.active fun _ => v.setWidth 128) id
    let running := match (s.cluster c).queue with | .job j :: _ => some j | _ => none
    if g.em = 0 then retire s id
    else match g.wait with
      | .cancel mine => if running.isNone then fin s (if mine then (s.cluster c).mjIter.setWidth 64 else BitVec.allOnes 64) else s
      | _ =>
        let gone := queuedJobs (s.cluster c).queue
        let s1 := match gone.getLast? with
          | none => s
          | some n => s.modCluster c fun k =>
              { k with queue := dropQueued k.queue, jst := if running.isNone then 6 else k.jst,
                       mjIter := if running.isNone then BitVec.ofNat 40 n else k.mjIter,
                       mjCause := if running.isNone then 0 else k.mjCause }
        match running with
        | none => fin s1 (BitVec.allOnes 64)
        | some j =>
          let mine := j.ending.isNone || j.ending == some 6#4
          let s2 := endRunning (setJob s1 c { j with canceled := j.canceled || !gone.isEmpty }) c 6 false
          if (match (s2.cluster c).queue with | .job _ :: _ => true | _ => false) then waitIn s2 id (.cancel mine)
          else fin s2 (if mine then (s2.cluster c).mjIter.setWidth 64 else BitVec.allOnes 64)

/-- The source address of an iteration for a ring source (08 R180, R182). -/
def srcAddr (j : Job) (src n : Nat) : VAddr :=
  let d := digitsOf (cardTrips j.card) n
  let aoff := 16 * levelSum d fun l => recI j.card (14 + 3 * l) 3
  match src with
  | 0 => vaAdd j.ab0 aoff
  | 1 => vaAdd j.ab1 (16 * levelSum d fun l => recI j.card (29 + 3 * l) 3)
  | _ => vaAdd j.ab2 (aoff / 4)

/-- The slot that a ring source's record of an iteration targets (08 R182): the e-th record of the ring since issue. -/
def slotOfIter (j : Job) (r : Ring) (src n : Nat) : Nat :=
  let ring := (cardSrc j.card (47 + src)).2
  let same := (ringSrcs j.card).filter fun k => (cardSrc j.card (47 + k)).2 == ring
  let e := (n - j.start) * same.length + (same.filter (· < src)).length
  (((j.ch0.find? fun x => x.1 == ring).map (·.2)).getD 0 + e) % ringN r

/-- A record that the walker writes (08 Table 12). -/
def walkerRecord (c : Nat) (j : Job) (r : Ring) (src n : Nat) : BitVec 512 :=
  let t := fun k => (tabGet j.tctl k).getD Tctl.reset
  let len := srcRowBytes j.card t src
  let i := slotOfIter j r src n
  let stride : Int := match src with
    | 0 => recI j.card 54 4
    | 1 => recI j.card 58 4
    | _ => recI j.card 54 4 / 4
  recOf (leBytes 1 1 ++ leBytes 1 2 ++ leBytes 1 4 ++ leBytes 1 (cardSrc j.card (47 + src)).2 ++ leBytes 4 0 ++
    leBytes 10 (srcAddr j src n).toNat ++ leBytes 10 (r.base.toNat + i * slotB r) ++ leBytes 4 len ++
    leBytes 2 (srcRows j.card t src) ++ leBytes 2 1 ++ leBytes 4 (intBits 32 stride) ++ leBytes 4 0 ++ leBytes 4 len ++
    leBytes 4 0 ++ leBytes 4 0 ++ leBytes 4 (0x80000000 + c) ++ leBytes 3 0 ++ leBytes 1 0x80)

/-- Claim the next slot of a copy queue as a producer (04 R85): WIDX counts it at once; none where the header cannot be read or written. -/
def claimSlot (s : State) (core q : Nat) : Option (State × Nat) :=
  let x := (s.core core).queue q
  match tableRead s x.part x.base.toNat 8 with
  | some l => (tableWrite s x.part x.base.toNat (leBytes 8 (leNat l + 1))).map fun s1 => (s1, leNat l)
  | none => none

/-- Fill a claimed slot once there is room (04 R85, 08 R182), marked with the mode of the job's MJOB (03 R358) and its home team (08 R186);
none while there is none, or where an access fails. -/
def fillClaim (s : State) (claim : Nat × Nat × Nat) (mode : Mode) (uid : Nat) (r : BitVec 512) : Option State :=
  let (core, q, w) := claim
  let x := (s.core core).queue q
  match tableRead s x.part (x.base.toNat + 8) 8 with
  | some l =>
    if w < leNat l + 2 ^ x.logn.toNat then
      (tableWrite s x.part (xqSlot x w) (leBytes 64 r.toNat)).map fun s1 =>
        modXq s1 core q fun y => { y with walker := y.walker ++ [(w, mode, uid)] }
    else none
  | none => none

/-- A live team by its uid, with its key. -/
def teamOfUid (s : State) (u : Nat) : Option (Nat × Team) := s.teams.find? fun e => e.2.uid == u

/-- The walker's next record (08 R182, R183): a permit for the first one of an iteration, then a claimed slot, then, with room, the record.
A job that is ending claims nothing more, and fills what it has claimed (log 36). -/
def walkOne (s : State) (c : Nat) (t : Team) (j : Job) : State × Job :=
  let srcs := ringSrcs j.card
  match srcs[j.recsDone]? with
  | none => (s, j)
  | some k =>
    let got : Option (State × Job) := match j.claim with
      | some _ => some (s, j)
      | none =>
        if j.ending.isSome || decide (cardT j.card ≤ j.written) || (j.recsDone == 0 && j.permits == 0) then none
        else
          let q := cardQueue c j.card
          (claimSlot s q.1 q.2).map fun x =>
            (x.1, { j with claim := some (q.1, q.2, x.2), permits := if j.recsDone = 0 then j.permits - 1 else j.permits })
    match got with
    | none => (s, j)
    | some (s1, j1) =>
      match j1.claim.bind fun w => fillClaim s1 w j.mode j.teamUid (walkerRecord c j (ringOf t (cardSrc j.card (47 + k)).2) k j.written) with
      | none => (s1, j1)
      | some s2 =>
        if j.recsDone + 1 < srcs.length then (s2, { j1 with claim := none, recsDone := j.recsDone + 1 })
        else (s2, { j1 with claim := none, recsDone := 0, written := j.written + 1 })

/-- WALKER_RECORD_WRITE (08 R182, R183): the records of an iteration, one per ring source, as far as there is room. -/
def execWalkerRecordWrite (cluster : Nat) (s : State) : Host.Outcome State Fault Refusal :=
  match (s.cluster cluster).queue with
  | .job j :: _ =>
    (match teamOfUid s j.teamUid with
     | some (_, t) =>
       if !j.running || !cardEmit j.card then .next s
       else
         let (s1, j1) := ((ringSrcs j.card).drop j.recsDone).foldl (fun a _ => walkOne a.1 cluster t a.2) (s, j)
         .next (finishEnding (setJob s1 cluster j1) cluster)
     | none => .next s)
  | _ => .next s

/-- One more iteration of a source is staged. -/
def stagedNext (j : Job) (src : Nat) : Job :=
  { j with staged := match src with
      | 0 => (j.staged.1 + 1, j.staged.2.1, j.staged.2.2)
      | 1 => (j.staged.1, j.staged.2.1 + 1, j.staged.2.2)
      | _ => (j.staged.1, j.staged.2.1, j.staged.2.2 + 1) }

/-- Whether a source may take its next slot now (08 R183, R184): the head slot is FULL, no group waits for it, the tile is free, and no other
source of the same ring comes first; an ending job takes what the walker has written. -/
def mayStage (s : State) (t : Team) (j : Job) (src : Nat) : Bool :=
  let ring := (cardSrc j.card (47 + src)).2
  let n := stagedOf j src
  let limit := if j.ending.isSome then (if cardEmit j.card then writtenOf j src else 0)
    else min (cardT j.card) (j.next + 2)
  (takeHead (ringOf t ring)).isSome && (ringWaiters s t ring false).isEmpty && decide (n < limit) &&
  (ringSrcs j.card).all fun k =>
    (cardSrc j.card (47 + k)).2 != ring || decide (n < stagedOf j k) || (decide (n = stagedOf j k) && decide (src ≤ k))

/-- The bytes of a slot go to the rows of a staging tile (08 R183, Table 12). -/
def stageTile (s : State) (c tile rows bytes : Nat) (l : List Byte) : State :=
  (List.range rows).foldl (fun s i => writeMem s 1 (tileOff c tile i 0) ((l.drop (i * bytes)).take bytes)) s

/-- Take a slot, stage it unless the job is ending, and free it (08 R183, R184). -/
def stageSlot (s : State) (c key : Nat) (t : Team) (j : Job) (src : Nat) : State :=
  let ring := (cardSrc j.card (47 + src)).2
  let r := ringOf t ring
  match takeHead r with
  | none => s
  | some (_, r1) =>
    let i := r.ch.toNat
    let tc := fun k => (tabGet j.tctl k).getD Tctl.reset
    let rows := srcRows j.card tc src
    let bytes := srcRowBytes j.card tc src
    let n := stagedOf j src
    let (l, bad) := refClean s (.live key) (r.base.toNat + i * slotB r) (rows * bytes)
    let s1 := s.modTeam key fun t => setRing t ring (setSlot r1 i 0)
    if j.ending.isSome then finishEnding (setJob s1 c (stagedNext j src)) c
    else
      let j1 := stagedNext { j with eccAt := if bad.isSome then some (min n (j.eccAt.getD n)) else j.eccAt } src
      setJob (setMatrixEcc (stageTile s1 c (srcTile j.card src n) rows bytes l) c bad.isSome) c j1

/-- MATRIX_SLOT_STAGE (08 R183). -/
def execMatrixSlotStage (cluster : Nat) (s : State) : Host.Outcome State Fault Refusal :=
  match (s.cluster cluster).queue with
  | .job j :: _ =>
    (match teamOfUid s j.teamUid with
     | some (key, t) =>
       (match (ringSrcs j.card).find? (mayStage s t j) with
        | some src => .next (if j.running then stageSlot s cluster key t j src else s)
        | none => .next s)
     | none => .next s)
  | _ => .next s

/-- A scale that a job reads: its word, or the cause of its failure, or none for an uncorrectable one, whether in the scale or in a table of
its walk (08 R180, R184). -/
def readScale (s : State) (j : Job) (va : VAddr) : Except Cause (Option Word) :=
  if va.toNat % 4 ≠ 0 then .error .aln
  else match unitRead s j.part false j.mode va 4 with
    | .error (c, _) => if c = .ecc then .ok none else .error c
    | .ok (l, bad) => .ok (if bad.isSome then none else some (BitVec.ofNat 32 (leNat l)))

/-- The scale addresses of an iteration: those of A by row, then that of B (08 R180). -/
def scaleAddrs (j : Job) (n rows : Nat) : List VAddr :=
  let d := digitsOf (cardTrips j.card) n
  let sa := vaAdd (BitVec.ofNat 80 (recU j.fmtb 8 10)) (4 * levelSum d fun l => recI j.fmtb (32 + 2 * l) 2)
  (List.range rows).map (fun (i : Nat) => vaAdd sa ((i : Int) * recI j.fmtb 28 4)) ++
  [vaAdd (BitVec.ofNat 80 (recU j.fmtb 18 10)) (4 * levelSum d fun l => recI j.fmtb (42 + 2 * l) 2)]

/-- Read scales in order: the words, or the first failure. -/
def readScales (s : State) (j : Job) : List VAddr → Except (Cause × VAddr) (List (Option Word))
  | [] => .ok []
  | va :: r =>
    match readScale s j va with
    | .error c => .error (c, va)
    | .ok w =>
      match readScales s j r with
      | .error e => .error e
      | .ok l => .ok (w :: l)

/-- The step of an iteration (08 R180). -/
def jobArgs (c : Nat) (j : Job) : StepArgs :=
  let d := digitsOf (cardTrips j.card) j.next
  let t := fun k => (tabGet j.tctl k).getD Tctl.reset
  let first := d.zipIdx.all fun e => e.1 == 0 || decide (cardCstr j.card e.2 ≠ 0)
  ⟨c, (iterAcc j.card d).toNat, srcTile j.card 0 j.next, srcTile j.card 1 j.next, srcTile j.card 2 j.next,
   cardB j.card 1 % 2 == 1 && first, cardSparse j.card, t (srcTile j.card 0 0), t (srcTile j.card 1 0)⟩

/-- The step of the next iteration is complete (08 R183, R184): its permit returns, and after the last the job is DONE, unless it is ending
otherwise. -/
def stepDone (s : State) (c : Nat) (j : Job) : State :=
  let j1 := { j with next := j.next + 1, permits := if cardEmit j.card then j.permits + 1 else j.permits, inStep := false }
  if j.ending.isSome then finishEnding (setJob s c j1) c
  else if j1.next < cardT j.card then setJob s c j1
  else
    popCommand (s.modCluster c fun k =>
      { k with jst := if (k.queue.drop 1).any (fun x => match x with | .job _ => true | _ => false) then 2 else 1,
               mjIter := BitVec.ofNat 40 j1.next, mjCause := 0 }) c

/-- A step that updates nothing ends its job with a status, unless the job is ending otherwise (08 R184). -/
def stepLost (s : State) (c : Nat) (j : Job) (st : BitVec 4) : State := endRunning (setJob s c { j with inStep := false }) c st true

/-- The step under way completes (08 R183, R184): one that had started when its job began to end too. A scale that fails its checks is
recorded where the job ends by it. -/
def stepTurn (s : State) (c : Nat) : State :=
  match (s.cluster c).queue with
  | .job j :: _ =>
    if !(jobStarted j || j.inStep) then (if j.ending.isSome then finishEnding s c else s)
    else
      let x := jobArgs c j
      let s := if fmtScl j.fmtb then (scaleAddrs j j.next x.ta.rows).foldl (fun s va => linkNote s j.part false j.mode va) s else s
      match (if fmtScl j.fmtb then readScales s j (scaleAddrs j j.next x.ta.rows) else .ok []) with
      | .error (e, va) =>
        let s1 := { s with fresh := s.fresh + 1 }
        stepLost (if j.ending.isSome then s1 else s1.modCluster c fun k => { k with mjCause := e.code, mjfa := packVa va }) c j 3
      | .ok l =>
        if j.eccAt = some j.next || l.contains none || stepPoisoned s x then stepLost (setMatrixEcc s c true) c j 5
        else
          let w := fun i => ((l[i]?).bind id).getD fp32One
          stepDone (tileStep { s with fresh := s.fresh + 1 } x w (w x.ta.rows)) c j
  | _ => s

/-- MATRIX_STEP_COMPLETE (08 R183). -/
def execMatrixStepComplete (cluster : Nat) (s : State) : Host.Outcome State Fault Refusal := .next (stepTurn s cluster)

end Sys2Proof.Machine
end

