-- ==== Sys2Proof/Machine/Launch.lean ====
section
/-! DEFINITION. Launching a team (10 R211 to R213), placing groups on a core, and the end of a group and of a team (13 R289, 10 R213). -/
namespace Sys2Proof.Machine

/-- A part of a launch record (10 Table 3). -/
structure PartRec where
  role : Nat
  wlog : Nat
  count : Nat
  rsize : Nat
  entry : Nat
  ab0 : VAddr
  mbz : Bool
  deriving DecidableEq, Repr

/-- Part p of a launch record (10 Table 3). -/
def partRec (l : List Byte) (p : Nat) : PartRec :=
  let f := fun off n => leField l (off + 32 * p) n
  ⟨f 32 1, f 33 1, f 34 1, f 35 1, f 40 8, BitVec.ofNat 80 (f 48 10), f 36 4 == 0 && f 58 6 == 0⟩

/-- The parts that a record uses. -/
def partsOf (l : List Byte) : List PartRec := (List.range (byteAt l 0)).map (partRec l)

/-- The role of a code (10 Table 3). -/
def roleOf (n : Nat) : Role := if n = 0 then .copy else if n = 1 then .vector else if n = 2 then .service else .matrix

/-- The groups of a record in gid order, each with its part (10 R209). -/
def groupsOf (l : List Byte) : List PartRec := (partsOf l).flatMap fun p => List.replicate p.count p

/-- A ring's configuration as a launch record packs it (10 Table 3). -/
def packedRing (w : Nat) : Ring :=
  { en := decide (2 ^ 31 ≤ w), nm1 := BitVec.ofNat 4 (w / 2 ^ 27), sz := BitVec.ofNat 10 (w / 2 ^ 16), base := BitVec.ofNat 20 (w % 2 ^ 13 * 64),
    ph := 0, st := 0, ch := 0, pt := 0, cph := true, badc := false }

/-- The word of ring k of a launch record. -/
def ringWord (l : List Byte) (k : Nat) : Nat := leField l (160 + 4 * k) 4

/-- The allocation in units of 4 KiB (05 R95). -/
def allocUnits (l : List Byte) : Nat := (leField l 4 4 + 4095) / 4096

/-- The second row of the launch checks (10 Table 4). -/
def recordBad (l : List Byte) : Bool :=
  let parts := partsOf l
  let count : Nat := (parts.map (·.count)).foldl (· + ·) 0
  let paired := byteAt l 1 % 2 == 1
  byteAt l 0 == 0 || decide (4 < byteAt l 0) || decide (2 ≤ byteAt l 1) || (paired && byteAt l 2 % 2 == 1) || decide (31 < byteAt l 3) ||
  decide (524288 < leField l 4 4) || decide (16 ≤ byteAt l 9) || leField l 10 22 != 0 || leField l 288 32 != 0 ||
  (parts.any fun p =>
    !p.mbz || decide (3 < p.role) || (if p.role = 3 then p.wlog != 0 else decide (p.wlog < 4 ∨ 6 < p.wlog)) ||
    p.count == 0 || decide (32 < p.count) || (decide (2 ≤ p.role) && p.count != 1) || p.rsize == 0 || decide (16 < p.rsize) ||
    p.entry % 4 != 0) ||
  decide (32 < count) ||
  (List.range 16).any (fun k =>
    let w := ringWord l k
    let r := packedRing w
    w / 2 ^ 26 % 2 == 1 || w / 2 ^ 13 % 8 != 0 ||
    (r.en && decide (allocUnits l * 4096 < r.base.toNat + ringN r * slotB r)) || decide (2 ^ count ≤ leField l (224 + 4 * k) 4))

/-- The cores that a record uses. -/
def coresOf (l : List Byte) : List Nat := if byteAt l 1 % 2 = 1 then [byteAt l 2, byteAt l 2 + 1] else [byteAt l 2]

/-- A matrix part is present. -/
def hasMatrix (l : List Byte) : Bool := (partsOf l).any fun p => p.role == 3

/-- A core that a partition may use now (10 Table 4). -/
def coreFree (s : State) (c part : Nat) : Bool := decide (c < 256) && coreHeld s c part && !coreVacated s c part

/-- What groups that have stopped still keep on a core, for their teams live (10 R213). -/
def heldOn (s : State) (c : Nat) : List (GroupId × Nat × Nat) :=
  (s.teams.flatMap fun e => e.2.held).filter fun h => !isSeq h.1 && coreOf h.1 == c

/-- Residency slots in use on a core: those of groups, of groups that have stopped, of reservations, and of a teller (10 R213, Table 4,
12 R269). -/
def usedSlots (s : State) (c : Nat) (skip : Option Nat) : List Nat :=
  ((s.groups.filter fun e => !isSeq e.1 && coreOf e.1 == c).map fun e => slotOf e.1) ++ ((heldOn s c).map fun h => slotOf h.1) ++
  ((s.reserves.filter fun r => r.core == c && skip != some r.uid).flatMap (·.slots)) ++ (if c % 2 = 0 then [31] else [])

/-- Registers in use on a core, in runs of 32: the first of each run and their number. -/
def usedRegs (s : State) (c : Nat) (skip : Option Nat) : List (Nat × Nat) :=
  ((s.groups.filter fun e => !isSeq e.1 && coreOf e.1 == c).map fun e => (e.2.rbase.toNat, e.2.rsize.toNat)) ++
  ((heldOn s c).map fun h => h.2) ++ ((s.reserves.filter fun r => r.core == c && skip != some r.uid).flatMap (·.regs)) ++ (if c % 2 = 0 then [(63, 1)] else [])

/-- Scratchpad in use on a core, in units of 4 KiB. -/
def usedScratch (s : State) (c : Nat) (skip : Option Nat) : List (Nat × Nat) :=
  ((s.teams.filter fun e => e.2.core == c || (e.2.paired && e.2.core + 1 == c)).map fun e => (e.2.sbase.toNat, e.2.ssize.toNat)) ++
  ((s.reserves.filter fun r => r.core == c && skip != some r.uid).map fun r => (r.sbase, r.ssize))

/-- The lowest run of n units below a limit that meets none of the runs in use. -/
def lowestRun (used : List (Nat × Nat)) (limit n : Nat) : Option Nat :=
  (List.range (limit + 1 - n)).find? fun b => used.all fun u => decide (b + n ≤ u.1 ∨ u.1 + u.2 ≤ b ∨ u.2 = 0)

/-- Where a group is placed: its number and its register base. -/
structure Spot where
  id : GroupId
  rbase : Nat
  deriving DecidableEq, Repr

/-- Place groups in gid order, each with the role matrix or not and its allotment, lowest first (10 R212); taken holds what has been given
out on each core: core, slot, base, size. -/
def placeGroups (s : State) (core : Nat) (paired : Bool) (skip : Option Nat) :
    List (Bool × Nat) → Nat → List (Nat × Nat × Nat × Nat) → Option (List Spot)
  | [], _, _ => some []
  | (seq, size) :: r, gid, taken =>
    if seq then (placeGroups s core paired skip r (gid + 1) taken).map fun l => ⟨8192 + core / 2, 0⟩ :: l
    else
      let c := if paired then core + gid % 2 else core
      let mine := taken.filter fun t => t.1 == c
      match (List.range 32).find? fun k => !(usedSlots s c skip).contains k && !(mine.any fun t => t.2.1 == k),
        lowestRun (usedRegs s c skip ++ mine.map fun t => (t.2.2.1, t.2.2.2)) 64 size with
      | some k, some b => (placeGroups s core paired skip r (gid + 1) ((c, k, b, size) :: taken)).map fun l => ⟨c * 32 + k, b⟩ :: l
      | _, _ => none

/-- The lowest free run of an allocation, the same on every core used (10 Table 4). -/
def placeScratch (s : State) (cores : List Nat) (skip : Option Nat) (n : Nat) : Option Nat :=
  lowestRun (cores.flatMap fun c => usedScratch s c skip) 128 n

/-- A sequencer is free: no team that lives has a group on it, nor had one (10 R213, Table 4). -/
def seqFree (s : State) (cluster : Nat) : Bool :=
  (s.group? (8192 + cluster)).isNone && !s.teams.any fun e => e.2.held.any fun h => h.1 == 8192 + cluster

/-- A sequencer is withheld by a reservation of another team (13 R297). -/
def seqReserved (s : State) (cluster : Nat) (skip : Option Nat) : Bool :=
  s.reserves.any fun r => r.seqr && r.core / 2 == cluster && skip != some r.uid

/-- A team number that a reservation of another team withholds on a core (13 R296). -/
def numReserved (s : State) (core num : Nat) (skip : Option Nat) : Bool :=
  s.reserves.any fun r => r.core == core && r.num == some num && skip != some r.uid

/-- The checks of a launch after its record has been read (10 Table 4): a status, or where the team goes. -/
def launchCheck (s : State) (part : Nat) (l : List Byte) : Except Nat (List Spot × Nat) :=
  let core := byteAt l 2
  let cores := coresOf l
  let seq := hasMatrix l
  if recordBad l then .error 1
  else if !(cores.all fun c => coreFree s c part) || (seq && !coreFree s (core / 2 * 2) part) then .error 2
  else if cores.any fun c => (teamOn s c (byteAt l 3)).isSome || numReserved s c (byteAt l 3) none then .error 4
  else if decide (1 < ((partsOf l).filter fun p => p.role == 3).length) || ((partsOf l).any fun p => p.role == 2) ||
      (seq && !seqFree s (core / 2)) then .error 5
  else
    match placeGroups s core (byteAt l 1 % 2 == 1) none ((groupsOf l).map fun p => (p.role == 3, p.rsize)) 0 [],
      placeScratch s cores none (allocUnits l) with
    | some spots, some sb => if seq && seqReserved s (core / 2) none then .error 3 else .ok (spots, sb)
    | _, _ => .error 3

/-- Remove the entries of a range from a sparse table: they read zero. -/
def storeClear {n : Nat} (m : Store n) (lo hi : Nat) : Store n := m.filter fun e => decide (e.1 < lo ∨ hi ≤ e.1)

/-- Poisoned words of an on-chip byte range are cleared as the range is written. -/
def clearPoison (s : State) (lo hi : Nat) : State :=
  { s with poison := s.poison.filter fun u => !unitWithin 1 lo (hi - lo) u }

/-- The registers of an allotment hold zero (05 R99). -/
def clearRegs (s : State) (id : GroupId) (rbase rsize : Nat) : State :=
  if isSeq id then
    let b := clusterOf id * 512 + 32 * rbase
    { s with sregs := storeClear s.sregs b (b + 32 * rsize),
             poison := s.poison.filter fun u => !(u.1 == 5 && decide (b ≤ u.2 * 2 ∧ u.2 * 2 < b + 32 * rsize)) }
  else
    let b := (coreOf id * 2048 + 32 * rbase) * 64
    let o := 0x10000000 + coreOf id * 0x100000 + 32 * rbase * 256
    clearPoison { s with vregs := storeClear s.vregs b (b + 32 * rsize * 64) } o (o + 32 * rsize * 256)

/-- A scratchpad allocation holds zero (05 R95). -/
def clearScratch (s : State) (core sbase units : Nat) : State :=
  let o := scratchOff core (sbase * 4096)
  clearPoison { s with win := storeClear s.win o (o + units * 4096) } o (o + units * 4096)

/-- The matrix state of a cluster at group launch (08 R166). -/
def clearMatrix (s : State) (c : Nat) : State :=
  let t := 0x20000000 + c * 0x100000
  let a := 0x30000000 + c * 0x100000
  let s1 := clearPoison (clearPoison { s with win := storeClear s.win t (t + 0x40000),
                                              accs := storeClear s.accs (c * 131072) (c * 131072 + 131072) } t (t + 0x40000)) a (a + 0x80000)
  s1.modCluster c fun k =>
    { k with tctl := [], mtstr := 128, mdcfg := Mdcfg.reset, mdscl := 0x3F800000, disc := false, eccBit := false, mderr := false,
             badcfg := false, atype := 0, jst := 0, mjCause := 0, mjIter := 0, mjfa := 0, queue := [] }

/-- A core's slot in force belongs to another partition (13 R298, R299). -/
def slotElse (s : State) (cores : List Nat) (part : Nat) : Bool :=
  cores.any fun c => match slotHolder s c with
    | some q => q != part
    | none => false

/-- A team that comes to a core is bound to the copy queues whose TEAM names it and to which no team is bound that exists (04 R84, log 36). -/
def bindQueues (s : State) (cores : List Nat) (num uid : Nat) : State :=
  let free := fun (x : CopyQueue) => x.team.toNat == num && ((x.bound.bind (refOfTeam s)).isNone)
  cores.foldl (fun t c => t.modCore c fun k =>
    { k with xq := k.xq.map fun e => if free e.2 then (e.1, { e.2 with bound := some uid }) else e }) s

/-- A group as it starts (10 R213). -/
def newGroup (s : State) (part key gid uid : Nat) (p : PartRec) (x : Spot) (parked : Bool) : Group :=
  let w := if p.role = 3 then 1 else 2 ^ p.wlog
  { Group.launch with
      uid := uid, part := part, team := key, gid := gid, role := roleOf p.role, width := w,
      pc := BitVec.ofNat 64 p.entry, em := fullMask w, ab := storeSet [] 0 p.ab0, rbase := BitVec.ofNat 6 x.rbase,
      rsize := BitVec.ofNat 5 p.rsize, readySince := groupClk s x.id, parked := parked,
      dbg := { DebugRegs.launch with pc := if parked then BitVec.ofNat 64 p.entry else 0 } }

/-- The team of a record (10 R213). -/
def newTeam (s : State) (part : Nat) (l : List Byte) (sbase : Nat) (ids : List GroupId) (parked : Bool) : Team :=
  { uid := s.nextUid, part := part, core := byteAt l 2, num := byteAt l 3, paired := byteAt l 1 % 2 == 1, sbase := BitVec.ofNat 7 sbase,
    ssize := BitVec.ofNat 8 (allocUnits l),
    rings := (List.range 16).filterMap (fun k => if ringWord l k = 0 then none else some (k, packedRing (ringWord l k))),
    tbar := (List.range 16).filterMap (fun k => let v := BitVec.ofNat 32 (leField l (224 + 4 * k) 4); if v = 0 then none else some (k, v)),
    cbar := BitVec.ofNat 8 (byteAt l 8), gbar := BitVec.ofNat 4 (byteAt l 9), pb := [], ph := [], ringWait := [], groups := ids, held := [],
    drain := none, saving := none, expiry := none, parked := parked, stopped := false }

/-- Start a team (10 R213). -/
def startTeam (s : State) (part : Nat) (l : List Byte) (spots : List Spot) (sbase : Nat) : State :=
  let key := byteAt l 2 * 32 + byteAt l 3
  let parked := slotElse s (coresOf l) part
  let s0 := bindQueues s (coresOf l) (byteAt l 3) s.nextUid
  let s1 := (coresOf l).foldl (fun s c => clearScratch s c sbase (allocUnits l)) s0
  let s2 := if hasMatrix l then clearMatrix s1 (byteAt l 2 / 2) else s1
  let s3 := { s2 with teams := tabSet s2.teams key (newTeam s part l sbase (spots.map (·.id)) parked), nextUid := s.nextUid + 1 + spots.length }
  ((spots.zip (groupsOf l)).zipIdx).foldl (fun t e =>
    (clearRegs t e.1.1.id e.1.1.rbase e.1.2.rsize).setGroup e.1.1.id (newGroup s part key e.2 (s.nextUid + 1 + e.2) e.1.2 e.1.1 parked)) s3

/-- Launch the team of the record at a kind-0 offset for a partition (10 R211): the state and the STATUS. -/
def launch (s : State) (part addr : Nat) : State × Nat :=
  match tableRead s part addr 320 with
  | none => (s, 6)
  | some l =>
    match launchCheck s part l with
    | .error n => (s, n)
    | .ok (spots, sb) => (startTeam s part l spots sb, 0)

/-- A write of TLAUNCH (10 R211). -/
def tlaunchTo (v : Dword) (s : State) (id : GroupId) (g : Group) : State :=
  let (s1, n) := launch s g.part ((v.extractLsb' 6 42).toNat * 64)
  s1.modGroup id fun x => { x with tlStatus := BitVec.ofNat 3 n }

/-- TLAUNCH (10 R211). -/
def execTlaunch (v : BitVec 64) (s : State) : Host.Outcome State Fault Refusal := csrUnit 0x200 (tlaunchTo v) s

/-- Evaluate every barrier of which a group that left was a member (12 R277). -/
def leaveBarriers (s : State) (key : Nat) (t : Team) (g : Group) : State :=
  (List.range 28).foldl (fun s i => if memberOf t g i then barrierEval s i (barScope key t i) else s) s

/-- The numbers of groups that leave a core no longer stand in its lists of waiters. -/
def forget (s : State) (ids : List GroupId) : State :=
  ids.foldl (fun s id =>
    let (b, w) := boxOf s id
    if w.contains id then setBox s id b (w.filter (· != id)) else s) s

/-- A group ends, and its team with the last of its groups, which frees what all of them had (13 R289, 10 R213). -/
def endGroup (s : State) (id : GroupId) (g : Group) : State :=
  let s1 := { forget s [id] with groups := tabDel s.groups id }
  match s1.team? g.team with
  | none => s1
  | some t =>
    let t1 := { t with groups := t.groups.filter (· != id), ringWait := t.ringWait.filter (fun e => e.1 != id),
                       held := t.held ++ [(id, g.rbase.toNat, g.rsize.toNat)] }
    let s2 := if t1.groups.isEmpty then { s1 with teams := tabDel s1.teams g.team } else { s1 with teams := tabSet s1.teams g.team t1 }
    leaveBarriers s2 g.team t g

/-- Whether copies that a group issued are still in flight or waiting to be logged (13 R289, 04 R93). -/
def copiesOf (s : State) (uid : Nat) : Bool :=
  s.cores.any fun e =>
    e.2.copies.any (fun c => decide (c.source ≤ 1) && c.owner == some uid) ||
    e.2.resumed.any (fun c => decide (c.source ≤ 1) && c.owner == some uid) ||
    e.2.logWait.any (fun l => match l.copy with | some c => decide (c.source ≤ 1) && c.owner == some uid | none => false)

/-- Whether MEETs that a test selects await their first answer (13 R289, 09 R199). -/
def meetsWait (s : State) (p : Sender → Bool) : Bool :=
  s.net.any (fun c => p c.sender && !s.answered.contains c.xid) || s.answers.any (fun a => p a.sender && a.first)

/-- What STOP waits for (13 R289). -/
def stopReady (s : State) (id : GroupId) (g : Group) : Bool :=
  !copiesOf s g.uid && !meetsWait s (fun x => x.group == g.uid) && (!isSeq id || (s.cluster (clusterOf id)).queue.isEmpty)

/-- STOP (13 R289); an ECC that its outstanding loads bring is raised first (03 R55). -/
def stopGroup (s : State) (id : GroupId) : State :=
  let s1 := landAll s id
  match s1.group? id with
  | none => s1
  | some g =>
    match g.eccNow with
    | e :: rest => eccTrap s1 id g e rest
    | [] => if stopReady s1 id g then endGroup s1 id g else waitIn s1 id .stop

end Sys2Proof.Machine
end

