-- ==== Sys2Proof/Machine/Preempt.lean ====
section
/-! DEFINITION. Stops and what follows them (13 R290 to R302): STOP, debugger halts and resumes, saving, restoring and dropping teams, gang
slices, drains and vacates. -/
namespace Sys2Proof.Machine

/-- A group that may not issue: halted, parked or stopped (13 R291). -/
def Group.idle (g : Group) : Bool := g.dbg.halted || g.parked || g.stopped || g.wedged

/-- Whether every group of a team is between jobs (13 R294). -/
def atJobBoundary (s : State) (t : Team) : Bool := t.groups.all fun id => !((s.group? id).map (·.job)).getD false

/-- A hard stop or a park of a group (13 R291, R293): at its boundary, or due at the next one while a stop is held, or where the stop falls in
the clock of an instruction that issues first, whose fault is then pending (log 3); a halted group stays as it is. -/
def hardStop (s : State) (park : Bool) (id : GroupId) : State :=
  let mark := fun (g : Group) => (g.addStop park).takeStops
  match s.group? id with
  | none => s
  | some g =>
    if g.idle then s.modGroup id mark
    else if g.due || stopHeld g then s.modGroup id fun x => x.addStop park
    else if g.wait == .none && Config.raceChoice s.fresh then
      { s.modGroup id fun x => { x.addStop park with raced := true } with fresh := s.fresh + 1 }
    else { (stopAt s id).modGroup id mark with fresh := s.fresh + 1 }

/-- What is due acts at the boundary where the group stands (13 R291): a park, a stop, or both, where the one has come while the other was held. -/
def stopDue (s : State) (id : GroupId) : State := (stopAt s id).modGroup id Group.takeStops

/-- A group issues again from DPC with DPDONE, after the trap that is pending (13 R291, R292). The sleep of a YIELDC whose DPC has been rewritten
meanwhile is over, and the group issues from the new DPC (log 56). -/
def goOn (s : State) (id : GroupId) : State :=
  match s.group? id with
  | none => s
  | some g =>
    if g.idle then s
    else if g.dbg.pendV then
      takeTrap (s.setGroup id { g with pc := g.dbg.pc, dm := g.dbg.done, wait := .none, dbg := { g.dbg with pendV := false, armed := g.dbg.single } })
        id (causeOf g.dbg.pendCause) g.dbg.pendEval g.dbg.pendTlm g.dbg.pc
    else
      let c := groupClk s id
      s.setGroup id
        { g with pc := g.dbg.pc, dm := g.dbg.done, readySince := c + 1,
                 wait := match g.wait with
                   | .continuation k => if g.pc = g.dbg.pc then .continuation k else .none
                   | _ => .none }

/-- A debugger halt is due: HALTREQ is set, or STEP and its instruction has completed (13 Table 8). -/
def haltDue (g : Group) : Bool := g.dbg.haltReq || (g.dbg.single && g.dbg.armed && g.wait == .none && g.preStart.isNone)

/-- DEBUG_HALT (13 R291): HALTREQ, or STEP after its instruction, halts the group unless a stop is held. -/
def execDebugHalt (n : Nat) (s : State) : Host.Outcome State Fault Refusal :=
  match s.group? n with
  | none => .next s
  | some g =>
    if !haltDue g then .next s
    else if g.idle then
      .next (s.modGroup n fun x => { x with dbg := { x.dbg with halted := true, haltReq := false, resume := false, armed := false } })
    else if stopHeld g then .next s
    else .next (haltGroup s n)

/-- RESUME of a group (13 R291), which reads as set from then on until it halts again (log 53); a wedged group stays halted (13 R285). -/
def resumeDebug (s0 : State) (n : Nat) : State :=
  let s := s0.modGroup n fun g => { g with dbg := { g.dbg with resume := true } }
  match s.group? n with
  | none => s
  | some g =>
    if !g.dbg.halted || g.wedged then s
    else goOn (s.setGroup n { g with dbg := { g.dbg with halted := false, armed := false } }) n

/-- DEBUG_RESUME (13 R291). -/
def execDebugResume (n : Nat) (s : State) : Host.Outcome State Fault Refusal := .next (resumeDebug s n)

/-- A team's groups park (13 R299). -/
def parkTeam (s : State) (key : Nat) (t : Team) : State :=
  t.groups.foldl (fun s id => hardStop s true id) (s.modTeam key fun t => { t with parked := true, expiry := none })

/-- A parked team resumes (13 R299): a park that is still due ends, and a stop for a save stays. -/
def unparkTeam (s : State) (key : Nat) (t : Team) : State :=
  t.groups.foldl (fun s id =>
    match s.group? id with
    | some g =>
      if g.parked then goOn (s.setGroup id { g with parked := false }) id
      else s.setGroup id { g with parking := false, raced := g.raced && g.stopping }
    | none => s) (s.modTeam key fun t => { t with parked := false, expiry := none })

/-- The cores of a team. -/
def teamCores (t : Team) : List Nat := if t.paired then [t.core, t.core + 1] else [t.core]

/-- The teams on a core. -/
def teamsOn (s : State) (c : Nat) : List (Nat × Team) := s.teams.filter fun e => (teamCores e.2).contains c

/-- Untaken records of a partition on a core, and on the sequencer that goes with an even core, are withdrawn (10 R230). -/
def withdrawCore (s : State) (part c : Nat) : State :=
  let s1 := withdraw s part 0 c
  if c % 2 = 0 then withdraw s1 part 1 (c / 2) else s1

/-- What the slot in force asks of one team on a core (13 R299). An expiry beside a vacate's drain is no drain of its own: DRAIN comes once
(13 R295). -/
def slotTeam (s : State) (q : Nat) (e : Nat × Team) : State :=
  if e.2.part = q then
    (if slotElse s (teamCores e.2) q then s
     else if e.2.parked then unparkTeam s e.1 e.2
     else s.modTeam e.1 fun t => { t with expiry := none })
  else if e.2.parked || e.2.expiry.isSome then s
  else
    e.2.groups.foldl (fun s id => if e.2.drain.isSome then s else s.modGroup id fun g => { g with drained := false })
      (s.modTeam e.1 fun t => { t with expiry := some ⟨s.time, s.time + (if s.slDrn = 0 then 500 else s.slDrn.toNat) * 1000, false⟩ })

/-- SLOT_CHANGE (13 R299). -/
def execSlotChange (core : Nat) (s : State) : Host.Outcome State Fault Refusal :=
  match slotHolder s core with
  | none => .next s
  | some q =>
    let s1 := ((List.range 64).filter fun p => p != q && s.isLive p).foldl (fun s p => withdrawCore s p core) s
    .next ((teamsOn s1 core).foldl (fun s e => slotTeam s q e) s1)

/-- TEAM_PARK (13 R299). -/
def execTeamPark (core team : Nat) (s : State) : Host.Outcome State Fault Refusal :=
  match teamOn s core team with
  | none => .next s
  | some k =>
    (match s.team? k with
     | some t => .next (if t.expiry.isSome && atJobBoundary s t then parkTeam s k t else s)
     | none => .next s)

/-- HARD_PARK (13 R299). -/
def execHardPark (core team : Nat) (s : State) : Host.Outcome State Fault Refusal :=
  match teamOn s core team with
  | none => .next s
  | some k =>
    (match s.team? k with
     | some t =>
       (match t.expiry with
        | some d => .next (if d.deadline ≤ s.time then parkTeam s k t else s)
        | none => .next s)
     | none => .next s)

/-- The drain in progress for a team: of a vacate, or of a slot expiry (13 R295). -/
def drainOf (t : Team) : Option Drain := t.drain.orElse fun _ => t.expiry

/-- DRAIN for one group at a boundary (13 R295): a U-mode group that holds a job, once per drain; a halt or a stop that is due comes first
(13 R293), and STEP counts the trap's entry (13 Table 8). -/
def drainTrap (s : State) (d : Drain) (id : GroupId) : State :=
  match s.group? id with
  | none => s
  | some g =>
    let sleeping := match g.wait with | .continuation _ => true | _ => false
    if g.mode = .u ∧ g.job ∧ !g.drained ∧ !g.idle ∧ !stopHeld g ∧ !sleeping ∧ !g.dbg.haltReq ∧ !g.due then
      takeTrap (s.setGroup id { g with drained := true, dbg := { g.dbg with armed := g.dbg.armed || g.dbg.single } }) id .drain (BitVec.ofNat 64 ((d.deadline - s.time) / 1000)) g.em g.epc
    else s

/-- DRAIN_HALF_DEADLINE (13 R295). -/
def execDrainHalfDeadline (core team : Nat) (s : State) : Host.Outcome State Fault Refusal :=
  match teamOn s core team with
  | none => .next s
  | some k =>
    match s.team? k with
    | none => .next s
    | some t =>
      match drainOf t with
      | none => .next s
      | some d =>
        if d.halfDone || decide (s.time < d.start + (d.deadline - d.start) / 2) then .next s
        else
          .next (t.groups.foldl (fun s id => drainTrap s d id)
            (s.modTeam k fun t => { t with drain := t.drain.map (fun x => { x with halfDone := true }),
                                           expiry := t.expiry.map (fun x => { x with halfDone := true }) }))

/-- Whether a copy that a team issued by XCP or XCPD is in flight, or halted and not yet logged, or resumed (04 R93): also of a group that has
ended. -/
def teamCopies (s : State) (uid : Nat) : Bool :=
  let mine := fun (c : Copy) => decide (c.source ≤ 1) && c.teamUid == some uid
  s.cores.any fun e => e.2.copies.any mine || e.2.resumed.any mine || e.2.logWait.any fun l => (l.copy.map mine).getD false

/-- Everything that a save waits for (13 R296): the groups have stopped, the team's copies and MEETs have settled. -/
def saveReady (s : State) (t : Team) : Bool :=
  t.groups.all (fun id => match s.group? id with
    | some g => g.idle
    | none => true) && !teamCopies s t.uid && !meetsWait s (fun x => x.team == t.uid)

/-- The entries of a range of a sparse table, numbered from the start of the range. -/
def storeSlice {n : Nat} (m : Store n) (lo hi : Nat) : Store n :=
  (m.filter fun e => decide (lo ≤ e.1 ∧ e.1 < hi)).map fun e => (e.1 - lo, e.2)

/-- Put a slice into a range in place of what it held. -/
def storePut {n : Nat} (m : Store n) (lo hi : Nat) (l : Store n) : Store n :=
  (l.filter fun e => decide (e.1 < hi - lo)).foldr (fun e m => storeSet m (lo + e.1) e.2)
    (m.filter fun e => decide (e.1 < lo ∨ hi ≤ e.1))

/-- The place of a group's allotment: whether on a sequencer, its first entry, and the entries of a register. -/
def allotAt (id : GroupId) (rbase : Nat) : Nat × Nat :=
  if isSeq id then (clusterOf id * 512 + 32 * rbase, 1) else ((coreOf id * 2048 + 32 * rbase) * 64, 64)

/-- A group's registers as an image keeps them: by allotment register × 64 + lane. -/
def savedRegs (s : State) (id : GroupId) (g : Group) : Store 32 :=
  let (b, k) := allotAt id g.rbase.toNat
  if isSeq id then (storeSlice s.sregs b (b + 32 * g.rsize.toNat)).map fun e => (e.1 * 64, e.2)
  else storeSlice s.vregs b (b + 32 * g.rsize.toNat * k)

/-- The groups of a team with their numbers. -/
def teamGroups (s : State) (t : Team) : List (GroupId × Group) := t.groups.filterMap fun id => (s.group? id).map fun g => (id, g)

/-- A group of a team as its image keeps it: stopped, so that a wake is applied to its resume point (04 R92), and a wedged one halted
(13 R285). -/
def savedGroup (g : Group) : Group :=
  { g with parked := false, stopped := true, stopping := false, parking := false, raced := false, wedged := false, out := [] }

/-- The image of a team (13 R296). -/
def imageOf (s : State) (t : Team) (area : Nat) (hard : Bool) (rcore : Option Nat) : Image :=
  let gs := teamGroups s t
  let cl := t.core / 2
  let tile := 0x20000000 + cl * 0x100000
  let seq := gs.any fun e => isSeq e.1
  { area := area, live := true, hard := hard, rcore := rcore, part := t.part,
    team := { t with ringWait := [], held := [], drain := none, saving := none, expiry := none, parked := false, stopped := false },
    groups := gs.map fun e => (e.2.gid, savedGroup e.2), regs := gs.map fun e => (e.2.gid, savedRegs s e.1 e.2),
    scratch := ((teamCores t).zipIdx).flatMap fun e =>
      let o := scratchOff e.1 (t.sbase.toNat * 4096)
      (storeSlice s.win o (o + t.ssize.toNat * 4096)).map fun x => (e.2 * 2 ^ 19 + x.1, x.2),
    matrix := if seq then some (s.cluster cl) else none, tiles := if seq then storeSlice s.win tile (tile + 0x40000) else [],
    accs := if seq then storeSlice s.accs (cl * 131072) (cl * 131072 + 131072) else [] }

/-- The length of the image that is written next, in units of 64 bytes (log 11). -/
def imageUnits (s : State) : Nat := Config.imageUnits s.fresh % 65536 + 1

/-- The bytes of an image in memory: its header, then bytes whose layout is not architectural (13 Table 11, log 11). -/
def imageBytes (s : State) (im : Image) : List Byte :=
  let units := imageUnits s
  leBytes 8 (64 * units) ++ leBytes 1 1 ++
  leBytes 1 ((if im.hard then 1 else 0) + (if im.rcore.isSome then 2 else 0) + (if im.team.paired then 4 else 0)) ++
  leBytes 1 im.groups.length ++ leBytes 1 im.team.num ++ leBytes 1 im.team.core ++ leBytes 1 im.part ++
  leBytes 2 (im.rcore.getD 0xFFFF) ++ leBytes 8 s.time ++ leBytes 8 0 ++
  (List.range (64 * units - 32)).map (Config.imageByte s.fresh)

/-- The room of a team as a reservation withholds it where it stands (13 R297), with its number where it is withheld too (13 R296). -/
def reserveHere (s : State) (t : Team) (num : Option Nat) : List Reserve :=
  let gs := teamGroups s t
  (teamCores t).map fun c =>
    let mine := gs.filter fun e => !isSeq e.1 && coreOf e.1 == c
    ⟨t.uid, c, num, mine.map fun e => slotOf e.1, mine.map fun e => (e.2.rbase.toNat, e.2.rsize.toNat), t.sbase.toNat, t.ssize.toNat,
     c % 2 == t.core % 2 && gs.any fun e => isSeq e.1⟩

/-- The groups of a team as placement takes them. -/
def placeList (gs : List (Nat × Group)) : List (Bool × Nat) := gs.map fun e => (e.2.role == .matrix, e.2.rsize.toNat)

/-- Room for a team's groups and allocation on a core (10 Table 4, 13 R297). -/
def findRoom (s : State) (core : Nat) (t : Team) (gs : List (Nat × Group)) (skip : Option Nat) : Option (List Spot × Nat) :=
  let cores := if t.paired then [core, core + 1] else [core]
  let seq := gs.any fun e => e.2.role == .matrix
  match placeGroups s core t.paired skip (placeList gs) 0 [], placeScratch s cores skip t.ssize.toNat with
  | some spots, some sb => if seq && (!seqFree s (core / 2) || seqReserved s (core / 2) skip) then none else some (spots, sb)
  | _, _ => none

/-- The reservation of placed room (13 R302). -/
def reserveSpots (core : Nat) (t : Team) (gs : List (Nat × Group)) (spots : List Spot) (sb : Nat) : List Reserve :=
  (if t.paired then [core, core + 1] else [core]).map fun c =>
    let mine := (spots.zip gs).filter fun e => !isSeq e.1.id && coreOf e.1.id == c
    ⟨t.uid, c, none, mine.map fun e => slotOf e.1.id, mine.map fun e => (e.1.rbase, e.2.2.rsize.toNat), sb, t.ssize.toNat,
     c == core && gs.any fun e => e.2.role == .matrix⟩

/-- The matrix engine of a team that is saved completes its current step and stops (08 R186). -/
def stopEngine (s : State) (t : Team) : State :=
  if t.groups.any isSeq then stepTurn s (t.core / 2) else s

/-- Its queue goes with the image. -/
def emptyEngine (s : State) (t : Team) : State :=
  if t.groups.any isSeq then s.modCluster (t.core / 2) fun c => { c with queue := [] } else s

/-- Reservations without those of some teams. -/
def freeReserves (s : State) (uids : List Nat) : List Reserve := s.reserves.filter fun r => !uids.contains r.uid

/-- Write a team's image and free what the team holds, but for its reservation (13 R296); none where the write fails. An image of the
partition that stood in the same area is gone, with its reservation. -/
def saveTeam (s0 : State) (key : Nat) (t : Team) (area : Nat) (hard : Bool) (rcore : Option Nat) (res : List Reserve) : Option State :=
  let s := stopEngine s0 t
  let im := imageOf s t area hard rcore
  let sameArea := fun (x : Image) => x.area == area && x.part == t.part
  match unitWrite s t.part false .h (mkVa s.devNum.toNat 0 area) (imageBytes s im) with
  | (s1, none) =>
    some { emptyEngine (forget s1 t.groups) t with
           groups := s1.groups.filter (fun e => !t.groups.contains e.1), teams := tabDel s1.teams key,
           images := s1.images.filter (fun x => !sameArea x) ++ [im],
           reserves := freeReserves s1 (t.uid :: (s1.images.filter sameArea).map (·.team.uid)) ++ res, fresh := s1.fresh + 1 }
  | (_, some _) => none

/-- Set STATUS of CTXOP (13 Table 10). -/
def ctxStatus (s : State) (part : Nat) (n : BitVec 3) : State := s.modPart part fun p => { p with ctxStatus := n }

/-- The fields of CTXOP: core, team, area (13 Table 10). -/
def ctxArea (v : Dword) : Nat := (v.extractLsb' 6 42).toNat * 64

/-- CTXOP save (13 R296): the state, and whether the operation has finished. -/
def ctxSave (v : Dword) (s : State) (g : Group) : State × Bool :=
  let core := (v.extractLsb' 49 8).toNat
  match teamOn s core (v.extractLsb' 57 5).toNat with
  | none => (ctxStatus s g.part 1, true)
  | some key =>
    match s.team? key with
    | none => (ctxStatus s g.part 1, true)
    | some t =>
      if t.part ≠ g.part ∨ key = g.team then (ctxStatus s g.part 1, true)
      else if t.drain.isSome then (ctxStatus s g.part 4, true)
      else
        let s1 := t.groups.foldl (fun s id => hardStop s false id) s
        if !saveReady s1 t then (s1, false)
        else
          let keep := v.getLsbD 48
          match saveTeam s1 key t (ctxArea v) (!atJobBoundary s1 t) (if keep then some t.core else none)
              (if keep then reserveHere s1 t (some t.num) else []) with
          | some s2 => (ctxStatus s2 g.part 0, true)
          | none => (ctxStatus (s1.modTeam key fun t => { t with stopped := true }) g.part 5, true)

/-- CTXOP_SAVE (13 R296). -/
def execCtxopSave (v : BitVec 64) (s : State) : Host.Outcome State Fault Refusal := csrUnit 0x480 (fun s _ g => (ctxSave v s g).1) s

/-- Spots in the reserved positions of a core, in gid order (13 R297). -/
def reservedSpots (res : List Reserve) (core : Nat) (paired : Bool) : List (Bool × Nat) → Nat → List (Nat × Nat) → Option (List Spot)
  | [], _, _ => some []
  | (seq, _) :: r, gid, used =>
    if seq then (reservedSpots res core paired r (gid + 1) used).map fun l => ⟨8192 + core / 2, 0⟩ :: l
    else
      let c := if paired then core + gid % 2 else core
      let n := ((used.find? fun u => u.1 == c).map (·.2)).getD 0
      match res.find? fun x => x.core == c with
      | none => none
      | some x =>
        match x.slots[n]?, x.regs[n]? with
        | some k, some b => (reservedSpots res core paired r (gid + 1) ((c, n + 1) :: used)).map fun l => ⟨c * 32 + k, b.1⟩ :: l
        | _, _ => none

/-- Where a restore places a team: in its own reservation, else in the lowest room (13 R297). -/
def restoreRoom (s : State) (im : Image) (core : Nat) : Option (List Spot × Nat) :=
  let mine := s.reserves.filter fun r => r.uid == im.team.uid
  let cl := core / 2
  let seqOk := !(im.groups.any fun e => e.2.role == .matrix) || (seqFree s cl && !seqReserved s cl (some im.team.uid))
  match mine.find? fun r => r.core == core with
  | some r =>
    (match reservedSpots mine core im.team.paired (placeList im.groups) 0 [] with
     | some l => if seqOk then some (l, r.sbase) else none
     | none => findRoom s core im.team im.groups (some im.team.uid))
  | none => findRoom s core im.team im.groups (some im.team.uid)

/-- The registers of a restored group. -/
def putRegs (s : State) (id : GroupId) (g : Group) (l : Store 32) : State :=
  let (b, k) := allotAt id g.rbase.toNat
  let s1 := clearRegs s id g.rbase.toNat g.rsize.toNat
  if isSeq id then { s1 with sregs := storePut s1.sregs b (b + 32 * g.rsize.toNat) (l.map fun e => (e.1 / 64, e.2)) }
  else { s1 with vregs := storePut s1.vregs b (b + 32 * g.rsize.toNat * k) l }

/-- A job on its new cluster: a slot that its walker has claimed and not filled in a queue of another cluster is left, and the record is written
later, to the queue of the same number on the new cluster (08 R186, log 36). -/
def moveJob (cl : Nat) : Command → Command
  | .job j =>
    .job (match j.claim with
      | some w => if w.1 / 2 = cl then j else { j with claim := none, permits := if j.recsDone = 0 then j.permits + 1 else j.permits }
      | none => j)
  | c => c

/-- The matrix state of a restored sequencer (08 R186). -/
def putMatrix (s : State) (cl : Nat) (im : Image) : State :=
  match im.matrix with
  | none => s
  | some m =>
    let t := 0x20000000 + cl * 0x100000
    let s1 := clearMatrix s cl
    let s2 := { s1 with win := storePut s1.win t (t + 0x40000) im.tiles,
                        accs := storePut s1.accs (cl * 131072) (cl * 131072 + 131072) im.accs }
    s2.modCluster cl fun c =>
      { m with queue := m.queue.map (moveJob cl), mailbox := c.mailbox, mailWait := c.mailWait, gend := c.gend, ph := c.ph, teller := c.teller, tlb := c.tlb, clk := c.clk }

/-- The team and its groups stand on their new place (13 R297). Its members join the barriers of the new cluster and leave those of the old one,
so that these are evaluated (12 R275, R277). -/
def placeTeam (s : State) (im : Image) (core num : Nat) (spots : List Spot) (sb : Nat) : State :=
  let key := core * 32 + num
  let t : Team := { im.team with core := core, num := num, sbase := BitVec.ofNat 7 sb, groups := spots.map (·.id) }
  let parked := slotElse s (teamCores t) im.part
  let s1 := { s with teams := tabSet s.teams key { t with parked := parked },
                     images := s.images.filter (fun x => !(x.area == im.area && x.part == im.part)),
                     reserves := freeReserves s [im.team.uid] }
  let s2 := ((teamCores t).zipIdx).foldl (fun s e =>
    let o := scratchOff e.1 (sb * 4096)
    let s' := clearScratch s e.1 sb t.ssize.toNat
    { s' with win := storePut s'.win o (o + t.ssize.toNat * 4096) (storeSlice im.scratch (e.2 * 2 ^ 19) ((e.2 + 1) * 2 ^ 19)) }) s1
  let s3 := putMatrix s2 (core / 2) im
  let s4 := (spots.zip im.groups).foldl (fun s e =>
    let g : Group := { e.2.2 with team := key, rbase := BitVec.ofNat 6 e.1.rbase, parked := parked, stopped := false }
    (putRegs s e.1.id g (((im.regs.find? fun r => r.1 == e.2.1).map (·.2)).getD [])).setGroup e.1.id g) s3
  let s5 := (List.range 8).foldl (fun s i => barrierEval (barrierEval s (16 + i) (im.team.core / 2)) (16 + i) (core / 2))
    (bindQueues s4 (teamCores t) num t.uid)
  spots.foldl (fun s x => goOn s x.id) s5

/-- The header of an image as H mode reads it: KIND, PART and BYTES (13 R297); uncorrectable bytes are a failed read (log 55). -/
def readHeader (s : State) (part area : Nat) : Option (Nat × Nat × Nat) :=
  match unitRead s part false .h (mkVa s.devNum.toNat 0 area) 32 with
  | .ok (l, none) => some (byteAt l 8, byteAt l 13, leField l 0 8)
  | _ => none

/-- The image as a restore reads it (13 R297): the whole of a live image of the partition is read, up to the 4 MiB that an image may have. -/
def readImage (s : State) (part area : Nat) : Option (Nat × Nat) :=
  match readHeader s part area with
  | none => none
  | some (kind, q, bytes) =>
    if kind = 1 ∧ q = part ∧ !((piecesOf (mkVa s.devNum.toNat 0 area) (min bytes (2 ^ 22))).all fun e =>
        match readPiece s part false .h e.1 1 with | .ok _ => true | .error _ => false) then none
    else some (kind, q)

/-- The live image at an area. -/
def findImage (s : State) (part area : Nat) : Option Image := s.images.find? fun x => x.area == area && x.part == part && x.live

/-- Write KIND 0 (13 R297). -/
def consumeImage (s : State) (part area : Nat) : Option State :=
  match unitWrite s part false .h (mkVa s.devNum.toNat 0 (area + 8)) (leBytes 1 0) with
  | (s1, none) => some s1
  | (_, some _) => none

/-- CTXOP restore (13 R297). -/
def ctxRestore (v : Dword) (s : State) (g : Group) : State :=
  let core := (v.extractLsb' 49 8).toNat
  let num := (v.extractLsb' 57 5).toNat
  let area := ctxArea v
  let st := fun n => ctxStatus s g.part n
  match readImage s g.part area with
  | none => st 5
  | some (kind, part) =>
    match (if kind = 1 ∧ part = g.part then findImage s g.part area else none) with
    | none => st 1
    | some im =>
      let cores := if im.team.paired then [core, core + 1] else [core]
      let seq := im.groups.any fun e => e.2.role == .matrix
      if im.team.paired && core % 2 == 1 then st 1
      else if !(cores.all fun c => coreFree s c g.part) || (seq && !coreFree s (core / 2 * 2) g.part) then st 2
      else if cores.any fun c => (teamOn s c num).isSome || numReserved s c num (some im.team.uid) then st 4
      else match restoreRoom s im core with
        | none => st 3
        | some (spots, sb) =>
          match consumeImage s g.part area with
          | none => st 5
          | some s1 => ctxStatus (placeTeam s1 im core num spots sb) g.part 0

/-- CTXOP_RESTORE (13 R297). -/
def execCtxopRestore (v : BitVec 64) (s : State) : Host.Outcome State Fault Refusal := csrUnit 0x480 (fun s _ g => ctxRestore v s g) s

/-- CTXOP drop (13 R297). -/
def ctxDrop (v : Dword) (s : State) (g : Group) : State :=
  let area := ctxArea v
  match readHeader s g.part area with
  | none => ctxStatus s g.part 5
  | some (kind, part, _) =>
    match (if kind = 1 ∧ part = g.part then findImage s g.part area else none) with
    | none => ctxStatus s g.part 1
    | some im =>
      match consumeImage s g.part area with
      | none => ctxStatus s g.part 5
      | some s1 =>
        let s2 := { s1 with images := s1.images.filter (fun x => !(x.area == area && x.part == g.part)),
                            reserves := freeReserves s1 [im.team.uid] }
        ctxStatus (im.groups.foldl (fun s e => leaveBarriers s (im.team.core * 32 + im.team.num) im.team e.2) s2) g.part 0

/-- CTXOP_DROP (13 R297). -/
def execCtxopDrop (v : BitVec 64) (s : State) : Host.Outcome State Fault Refusal := csrUnit 0x480 (fun s _ g => ctxDrop v s g) s

/-- The teams of the partition being vacated on the cores being vacated (13 R300). -/
def vacatedTeams (s : State) (v : Vacate) : List (Nat × Team) :=
  s.teams.filter fun e => e.2.part == v.part && (teamCores e.2).any fun c => decide (v.first ≤ c ∧ c ≤ v.last)

/-- A partition leaves every SLMAP byte of a core (13 R300, R306). -/
def clearSlots (s : State) (part c : Nat) : State :=
  s.modCore c fun k =>
    { k with slmap := (List.range 4).foldl (fun m i =>
        let b := slByte m i
        if b.getLsbD 7 && (b.extractLsb' 0 6).toNat == part then m &&& ~~~((0xFF#32) <<< (8 * i)) else m) k.slmap }

/-- Microseconds since a time, saturating at 16 bits. -/
def elapsedUs (now start : Nat) : BitVec 16 := BitVec.ofNat 16 (min ((now - start) / 1000) 65535)

/-- A vacate is complete once no team is left (13 R300). -/
def vacateCheck (s : State) : State :=
  match s.vacate with
  | none => s
  | some v =>
    if !(vacatedTeams s v).isEmpty then s
    else
      let s1 := (List.range (v.last + 1 - v.first)).foldl (fun s i => clearSlots s v.part (v.first + i)) s
      let s2 := { s1 with vacate := none, vState := 2, vElapsed := elapsedUs s.time v.start }
      if s.vevt = 0xFFFFFFFF#32 then s2
      else unitSignal s2 ((evtPart s2 (handleIdx s.vevt)).getD v.part) s.vevt

/-- A write of VCTL (13 R300). -/
def vacateTo (v : Dword) (s : State) : State :=
  let part := (v.extractLsb' 56 6).toNat
  let first := (v.extractLsb' 48 8).toNat
  let n := (v.extractLsb' 40 8).toNat + 1
  let rcore := (v.extractLsb' 31 9).toNat
  let us := if v.extractLsb' 0 16 = 0#16 then 500 else (v.extractLsb' 0 16).toNat
  if v.extractLsb' 62 2 ≠ 2#2 then s
  else if (List.range n).any (fun i => !decide (first + i < 256) || !coreHeld s (first + i) part) ||
      decide (first ≤ rcore ∧ rcore < first + n) then { s with vRes := 1 }
  else if s.vState = 1#2 then { s with vRes := 2 }
  else
    let x : Vacate := ⟨part, first, first + n - 1, rcore, s.time, s.time + us * 1000, s.varea.toNat, none⟩
    let s1 := { s with vacate := some x, vState := 1, vRes := 0, vHard := 0, vSaved := 0, vElapsed := 0 }
    let s2 := (List.range n).foldl (fun s i => withdrawCore s part (first + i)) s1
    vacateCheck ((vacatedTeams s2 x).foldl (fun s e =>
      e.2.groups.foldl (fun s id => s.modGroup id fun g => { g with drained := false })
        (s.modTeam e.1 fun t => { t with drain := some ⟨x.start, x.deadline, false⟩ })) s2)

/-- VACATE (13 R300). -/
def execVacate (v : BitVec 64) (s : State) : Host.Outcome State Fault Refusal := csrUnit 0x481 (fun s _ _ => vacateTo v s) s

/-- Where a hard-stopped team's reservation goes (13 R302). -/
def hardRoom (s : State) (v : Vacate) (t : Team) : List Reserve :=
  let gs := (teamGroups s t).map fun e => (e.2.gid, e.2)
  let cores := if t.paired then [v.rcore, v.rcore + 1] else [v.rcore]
  let seq := gs.any fun e => e.2.role == .matrix
  let ok := decide (v.rcore < 256) && !(t.paired && v.rcore % 2 == 1) && cores.all (fun c => coreFree s c t.part) &&
    (!seq || coreFree s (v.rcore / 2 * 2) t.part)
  match (if ok then findRoom s v.rcore t gs none else none) with
  | some (spots, sb) => reserveSpots v.rcore t gs spots sb
  | none => reserveHere s t none

/-- A team of a vacate stops for its save (13 R301); the reservation of a hard stop is made then (13 R302), and the stop is recorded
(15 R331). -/
def drainStop (s : State) (key : Nat) (t : Team) (v : Vacate) (hard : Bool) : State :=
  match t.saving with
  | some _ => s
  | none =>
    let s1 := t.groups.foldl (fun s id => hardStop s false id) (s.modTeam key fun t => { t with saving := some hard })
    if hard then sbRecord { s1 with reserves := freeReserves s1 [t.uid] ++ hardRoom s1 v t } 7 0 t.core 0 0 else s1

/-- A vacate that has ended leaves a team as it was: a stop for its save that has not come to a save ends (log 40). -/
def undrain (s : State) (e : Nat × Team) : State :=
  let s1 := { s.modTeam e.1 fun t => { t with drain := none, saving := none } with reserves := freeReserves s [e.2.uid] }
  if e.2.saving.isNone then s1
  else e.2.groups.foldl (fun s id =>
    match s.group? id with
    | some g =>
      if g.stopped then goOn (s.setGroup id { g with stopped := false }) id
      else s.setGroup id { g with stopping := false, raced := g.raced && g.parking }
    | none => s) s1

/-- Save a draining team to the next image of its vacate (13 R301): its groups stop, the save waits for what R296 names, and the image is chained
to the one before it. A write that fails ends the vacate: the team stays stopped in place, where it keeps its room, and the other teams go
on. -/
def drainSave (s : State) (key : Nat) (t : Team) (v : Vacate) (hard : Bool) : State :=
  let s1 := drainStop s key t v hard
  if !saveReady s1 t then s1
  else
    let area := v.nextArea
    let res := if hard then s1.reserves.filter fun r => r.uid == t.uid else []
    let rc := if hard then some ((res.head?.map (·.core)).getD t.core) else none
    let chained := match v.lastArea with
      | none => some s1
      | some a =>
        (match unitWrite s1 t.part false .h (mkVa s.devNum.toNat 0 (a + 24)) (leBytes 8 area) with
         | (s2, none) => some s2
         | (_, some _) => none)
    match chained.bind fun s2 => (saveTeam s2 key t area hard rc res).map fun s3 => (s3, 64 * imageUnits (stopEngine s2 t)) with
    | some (s2, bytes) =>
      let s3 := { s2 with vacate := some { v with nextArea := area + bytes, lastArea := some area }, vSaved := s2.vSaved + 1,
                          vHard := if hard then s2.vHard + 1 else s2.vHard }
      vacateCheck s3
    | none =>
      let s2 := { s1.modTeam key fun t => { t with stopped := true, drain := none, saving := none } with
                  vacate := none, vState := 2, vRes := 3, vElapsed := elapsedUs s.time v.start, reserves := freeReserves s1 [t.uid] }
      ((vacatedTeams s2 v).filter fun e => e.1 != key).foldl undrain s2

/-- Whether a team drains for the vacate at hand (13 R301). -/
def drainsFor (s : State) (v : Vacate) (key : Nat) (t : Team) : Bool :=
  t.drain.isSome && (vacatedTeams s v).any fun e => e.1 == key

/-- DRAIN_BOUNDARY_SAVE (13 R301). -/
def execDrainBoundarySave (core team : Nat) (s : State) : Host.Outcome State Fault Refusal :=
  match teamOn s core team, s.vacate with
  | some k, some v =>
    (match s.team? k with
     | some t =>
       .next (if drainsFor s v k t && (t.saving == some false || (t.saving.isNone && atJobBoundary s t)) then drainSave s k t v false else s)
     | none => .next s)
  | _, _ => .next s

/-- DRAIN_DEADLINE (13 R301). -/
def execDrainDeadline (core team : Nat) (s : State) : Host.Outcome State Fault Refusal :=
  match teamOn s core team, s.vacate with
  | some k, some v =>
    (match s.team? k with
     | some t =>
       .next (if drainsFor s v k t && (t.saving == some true || (t.saving.isNone && !atJobBoundary s t && decide (v.deadline ≤ s.time))) then
                drainSave s k t v true
              else s)
     | none => .next s)
  | _, _ => .next s

/-- STOP (13 R289); a vacate may be complete when the group's team ends with it. -/
def execStop (s : State) : Host.Outcome State Fault Refusal :=
  issue .stop s fun s id _ => vacateCheck (stopGroup s id)

end Sys2Proof.Machine
end

