-- ==== Sys2Proof/Machine/System.lean ====
section
/-! DEFINITION. What units of the device do on their own for memory and results, and the operations of S and H mode on the device's memory
system: long-latency results, walks, remote accesses, DEVMODE, pinned units, TLB invalidation and the cellar (01 R17 to R21, 02 R36,
03 R56 to R69). -/
namespace Sys2Proof.Machine

/-- The results on their way with the oldest one not yet written taken out, its window kept with its ECC: that result, if any. -/
def takeResult : List Outstanding → Option Outstanding × List Outstanding
  | [] => (none, [])
  | o :: r =>
    if o.vals.isEmpty && o.svals.isEmpty then ((takeResult r).1, o :: (takeResult r).2)
    else (some { o with ecc := none }, { o with vals := [], svals := [] } :: r)

/-- LONG_LATENCY_RESULT (02 R36): the oldest result of a group that is on its way is written; its window stays until it closes, and so does
an ECC (03 R55). -/
def execLongLatencyResult (n : Nat) (s : State) : Host.Outcome State Fault Refusal :=
  match s.group? n with
  | none => .next s
  | some g =>
    match takeResult g.out with
    | (none, _) => .next s
    | (some o, l) => .next (landOne (s.setGroup n { g with out := l }) n o)

/-- PAGE_WALK_COMPLETE (03 R64): a walk that passes fills both TLB levels; a failed one installs nothing. -/
def execPageWalkComplete (unit : Nat) (r : WalkReq) (s : State) : Host.Outcome State Fault Refusal :=
  .next (match combined s r.part r.mode r.grant (vaKind r.va) (vaOff r.va) with
    | .ok _ => tlbFill s unit r.part r.mode (vaKind r.va) (vaOff r.va)
    | .error _ => s)

/-- The grant that an access from outside needs (03 R62). -/
def kindGrant : AccessKind → Grant
  | .read _ => .load
  | _ => .store

/-- An access to memory that has been checked, at a physical place: the state and the bytes that it answers, or the cause of a refusal; an
atomic goes to its teller, which may queue it (12 R269). -/
def placeAccess (s : State) (asker : Asker) (part : Nat) (p : Phys) : AccessKind → State × Option (Except Cause (List Byte))
  | .read n =>
    if (poisonIn s p.kind p.off n).isSome then (linkError s p.kind p.off, some (.error .ecc)) else (s, some (.ok (readMem s p.kind p.off n)))
  | .write l => (writeMem s p.kind p.off l, some (.ok []))
  | .atomic op wide v c =>
    let r : TellerReq := ⟨asker, op, wide, p.kind, p.off, p.shd, part, v, c, s.qepoch⟩
    let h := homeOf p.kind p.off
    if (s.cluster h).teller.isEmpty then
      let (s1, a) := serveAtomic s r
      (s1, some (match a with
        | .ok m => .ok (leBytes (atomicBytes wide) m.toNat)
        | .error e => .error e))
    else (s.modCluster h fun k => { k with teller := k.teller ++ [r] }, none)

/-- The bytes of an access. -/
def kindBytes : AccessKind → Nat
  | .read n => n
  | .write l => l.length
  | .atomic _ wide _ _ => atomicBytes wide

/-- A peer's access at this device (03 R60, 15 R326): bound to a local partition and translated there in S mode with its own grant; a copy
engine's reaches the windows that only copy engines reach (03 R52). A range that passes out of its 64 KiB page, which no request of the
interface does, is refused. -/
def peerAccess (s : State) (r : RemoteReq) : State :=
  let refuse := fun (s : State) (c : Cause) => { s with sent := s.sent ++ [.refusal r.dev c.code] }
  match boundPart s r.dev r.part with
  | none => refuse s .prot
  | some q =>
    let kind := vaKind r.va
    let off := vaOff r.va
    if vaDev r.va ≠ s.devNum.toNat ∨ 65536 < off % 65536 + kindBytes r.kind then refuse s .prot
    else match translate s 384 q r.copy .s (kindGrant r.kind) kind off with
      | .error c => refuse s c
      | .ok p =>
        match placeAccess s (.peer r.dev) q p r.kind with
        | (s1, some (.ok l)) => { s1 with sent := s1.sent ++ [.reply r.dev l] }
        | (s1, some (.error c)) => refuse s1 c
        | (s1, none) => s1

/-- REMOTE_ACCESS (03 R60). -/
def execRemoteAccess (r : RemoteReq) (s : State) : Host.Outcome State Fault Refusal := .next (peerAccess s r)

/-- A write of DEVMODE (01 R18, R19): discarded whole, with BADW set, on a reserved value or a locked change. -/
def devmodeTo (v : Dword) (s : State) : State :=
  let eccm : BitVec 2 := v.extractLsb' 10 2
  let vatx : BitVec 2 := v.extractLsb' 8 2
  let pinf : BitVec 2 := v.extractLsb' 6 2
  let prof : BitVec 2 := v.extractLsb' 0 2
  if 1 < eccm.toNat || vatx == 3#2 || prof == 3#2 ||
      (s.devLock && (eccm != s.devEccm || vatx != s.devVatx || pinf != s.devPinf)) then { s with devBadw := true }
  else
    { s with devEccm := eccm, devVatx := vatx, devPinf := pinf, devProf := prof, devLock := s.devLock || v.getLsbD 31,
             devBadw := s.devBadw && !v.getLsbD 30 }

/-- DEVMODE_WRITE (01 R18). -/
def execDevmodeWrite (v : BitVec 64) (s : State) : Host.Outcome State Fault Refusal := .next (devmodeTo v s)

/-- PROFILE_TRANSITION_COMPLETE (01 R19): PACT takes the newest requested profile. -/
def execProfileTransitionComplete (s : State) : Host.Outcome State Fault Refusal := .next { s with devPact := s.devProf }

/-- The pinned units that a die may have, by VATX and PINF (03 R56). -/
def pinLimit (s : State) : Nat :=
  s.devPinf.toNat * (if s.devVatx = 0#2 then 32 else if s.devVatx = 1#2 then 28 else 24)

/-- The units a request names: die × 96 + unit. -/
def pinUnits (v : Dword) : List Nat :=
  (List.range (v.extractLsb' 35 7).toNat).map fun i => (v.extractLsb' 56 2).toNat * 96 + (v.extractLsb' 42 7).toNat + i

/-- The kind-1 offset of a pinned unit (03 Table 2). -/
def unitOff (u : Nat) : Nat := 0x100000000 + u / 96 * 0x10000000 + u % 96 * 0x100000

/-- The contents of a unit become zero. -/
def zeroUnit (s : State) (u : Nat) : State :=
  clearPoison { s with win := storeClear s.win (unitOff u) (unitOff u + 0x100000) } (unitOff u) (unitOff u + 0x100000)

/-- A request at L2PIN (03 R57, Table 4): op 1 pins, 2 unpins; any other op is BAD. -/
def pinTo (op : BitVec 2) (v : Dword) (s : State) (_ : GroupId) (g : Group) : State :=
  let first := (v.extractLsb' 42 7).toNat
  let count := (v.extractLsb' 35 7).toNat
  let die := (v.extractLsb' 56 2).toNat
  let us := pinUnits v
  let status := fun (n : BitVec 3) (s : State) => s.modPart g.part fun p => { p with pinStatus := n }
  let mine := fun u => tabGet s.pinned u == some g.part
  if (op != 1#2 && op != 2#2) || count == 0 || decide (96 < first + count) then status 4 s
  else if op = 2#2 then
    (if us.all mine then
      status 0 (us.foldl (fun s u => { zeroUnit s u with pinned := tabDel s.pinned u }) s)
     else status 4 s)
  else if pinLimit s < first + count then status 1 s
  else if us.any fun u => (tabGet s.pinned u).isSome then status 2 s
  else if (s.part g.part).pinq.toNat < (s.pinned.filter fun e => e.1 / 96 == die && e.2 == g.part).length + count then status 3 s
  else status 0 (us.foldl (fun s u => { zeroUnit s u with pinned := tabSet s.pinned u g.part }) s)

/-- L2PIN_PIN (03 R57). -/
def execL2pinPin (v : BitVec 64) (s : State) : Host.Outcome State Fault Refusal := csrUnit 0x1C0 (pinTo 1#2 v) s

/-- L2PIN_UNPIN (03 R57). -/
def execL2pinUnpin (v : BitVec 64) (s : State) : Host.Outcome State Fault Refusal := csrUnit 0x1C0 (pinTo 2#2 v) s

/-- A line of an instruction cache as the translation by which it was filled. -/
def lineEnt (e : CodeLine) : TlbEnt :=
  ⟨e.part, e.hyp, 4, e.logSize, e.vline * 64 / 2 ^ e.logSize, e.iline * 64 / 2 ^ e.logSize, e.pline * 64 / 2 ^ e.logSize, false, e.logSize, 0⟩

/-- Remove TLB entries from every unit and every die, and the matching instruction-cache lines of every core (03 R65, R53). -/
def tlbDrop (s : State) (p : TlbEnt → Bool) : State :=
  { s with
    icache := s.icache.filter fun e => !p (lineEnt e),
    cores := s.cores.map fun e => (e.1, { e.2 with tlb := e.2.tlb.filter fun x => !p x }),
    clusters := s.clusters.map fun e => (e.1, { e.2 with tlb := e.2.tlb.filter fun x => !p x }),
    l2tlb := s.l2tlb.map fun e => (e.1, e.2.filter fun x => !p x) }

/-- The 64 KiB page that a TLBI or TLBIG names, as a page number of a size. -/
def namedPage (v : Dword) (logSize : Nat) : Nat := (v.extractLsb' 16 32).toNat * 65536 / 2 ^ logSize

/-- A write of TLBI (03 R65): the entries of the writing partition whose virtual page contains the named one, or all of them. -/
def tlbiTo (mode : BitVec 2) (v : Dword) (s : State) (_ : GroupId) (g : Group) : State :=
  let kind := (v.extractLsb' 59 3).toNat
  if mode = 0#2 then tlbDrop s fun x => x.part == g.part
  else if mode = 1#2 then
    tlbDrop s fun x => x.part == g.part && x.kind == kind && x.vpage == namedPage v x.logSize
  else s

/-- A write of TLBIG (03 R65): the entries of PART whose intermediate page contains the named one, or all of them. -/
def tlbigTo (mode : BitVec 2) (v : Dword) (s : State) (_ : GroupId) (_ : Group) : State :=
  let part := (v.extractLsb' 48 6).toNat
  let kind := (v.extractLsb' 59 3).toNat
  if mode = 0#2 then tlbDrop s fun x => x.part == part
  else if mode = 1#2 then tlbDrop s fun x => x.part == part && x.kind == kind && x.ipage == namedPage v x.logSize
  else s

/-- TLBI_ALL (03 R65). -/
def execTlbiAll (v : BitVec 64) (s : State) : Host.Outcome State Fault Refusal := csrUnit 0x1A1 (tlbiTo 0#2 v) s

/-- TLBI_PAGE (03 R65). -/
def execTlbiPage (v : BitVec 64) (s : State) : Host.Outcome State Fault Refusal := csrUnit 0x1A1 (tlbiTo 1#2 v) s

/-- TLBIG_ALL (03 R65). -/
def execTlbigAll (v : BitVec 64) (s : State) : Host.Outcome State Fault Refusal := csrUnit 0x4A1 (tlbigTo 0#2 v) s

/-- TLBIG_PAGE (03 R65). -/
def execTlbigPage (v : BitVec 64) (s : State) : Host.Outcome State Fault Refusal := csrUnit 0x4A1 (tlbigTo 1#2 v) s

/-- A write of CELADD (03 R68). -/
def celaddTo (v : Dword) (s : State) (_ : GroupId) (g : Group) : State :=
  let z : BitVec 2 := v.extractLsb' 62 2
  let page : BitVec 32 := v.extractLsb' 16 32
  if z == 3#2 || decide (page.toNat * 2 ^ 16 % 2 ^ sizeLog z ≠ 0) || decide (16384 ≤ s.cellar.length) then
    s.modPart g.part fun p => { p with celRef := true }
  else
    { s with cellar := s.cellar ++ [⟨g.part, z, v.extractLsb' 48 3, page, s.qepoch, false⟩], qepoch := (s.qepoch + 1) % 2 ^ 64 }

/-- CELADD (03 R68). -/
def execCeladd (v : BitVec 64) (s : State) : Host.Outcome State Fault Refusal := csrUnit 0x1B0 (celaddTo v) s

/-- The accesses of a matrix command that were translated at its issue (08 R170), in the queue or in the wait for a place in it. -/
def commandStamps : Command → List Nat
  | .tile _ _ l | .drain _ _ l _ _ => l.map Piece.stamp
  | _ => []

/-- QOLD (03 R67): the smallest stamp of an access in flight, or QEPOCH. In flight are copies, requests at tellers and the transfers that
matrix commands have translated, those of saved teams too (log 36); every other access is over when its instruction is. -/
def qold (s : State) : Nat :=
  ((s.cores.flatMap fun e => e.2.copies.map Copy.stamp) ++
    (s.clusters.flatMap fun e => e.2.teller.map TellerReq.stamp ++ e.2.queue.flatMap commandStamps) ++
    (s.images.flatMap fun im => if im.live then (im.matrix.map fun c => c.queue.flatMap commandStamps).getD [] else []) ++
    s.groups.flatMap fun e => match e.2.wait with
      | .matrixQueue c => commandStamps c
      | _ => []).foldl min s.qepoch

/-- CELLAR_RELEASE (03 R68): entries older than every access in flight are released; those of ended partitions are discarded (13 R306). -/
def cellarRelease (s : State) : State :=
  { s with cellar := (s.cellar.map fun e => if e.stamp < qold s then { e with released := true } else e).filter fun e =>
      !(e.released && !s.isLive e.part) }

/-- CELLAR_RELEASE (03 R68). -/
def execCellarRelease (s : State) : Host.Outcome State Fault Refusal := .next (cellarRelease s)

/-- A cellar entry as CELTAKE returns it (03 R69). -/
def cellarWord (e : CellarEnt) : Dword := e.size ++ 0#11 ++ e.kind ++ e.page ++ 1#16

/-- A read of CELTAKE (03 R69): the oldest released entry of the partition, which leaves the cellar; zero if there is none. -/
def celtakeFrom (s : State) (g : Group) : State × Dword :=
  match s.cellar.find? fun e => e.part == g.part && e.released with
  | none => (s, 0)
  | some e => ({ s with cellar := s.cellar.erase e }, cellarWord e)

/-- CELTAKE (03 R69): the CSRR of 0x1B2. -/
def execCeltake (d : BitVec 7) (s : State) : Host.Outcome State Fault Refusal :=
  issue (.csrr d 0x1B2#11) s fun s id g =>
    let (s1, v) := celtakeFrom s g
    retire (writeDst s1 id g g.pre (dstOpnd d 2) g.active fun _ => v.setWidth 128) id

end Sys2Proof.Machine
end

