-- ==== Sys2Proof/Machine/Csr.lean ====
section
/-! DEFINITION. The CSRs (13 R280 to R283, R290 and the CSR tables of every chapter): what a read gives, what a write does, and CSRR and
CSRW (13 R281). -/
namespace Sys2Proof.Machine

/-- A field of a CSR at a bit. -/
def fieldAt {n : Nat} (v : BitVec n) (lo : Nat) : Dword := v.setWidth 64 <<< lo
/-- A flag of a CSR at a bit. -/
def flagAt (b : Bool) (lo : Nat) : Dword := if b then 1#64 <<< lo else 0
/-- A count in a CSR at a bit. -/
def countAt (n lo : Nat) : Dword := BitVec.ofNat 64 n <<< lo

/-- RCFGk (05 Table 6). -/
def rcfgWord (r : Ring) : Dword := flagAt r.en 63 ||| fieldAt r.nm1 56 ||| fieldAt r.sz 40 ||| fieldAt r.base 0
/-- RSTATk (05 Table 7). -/
def rstatWord (r : Ring) : Dword :=
  fieldAt r.ph 48 ||| fieldAt r.st 16 ||| fieldAt r.ch 12 ||| fieldAt r.pt 8 ||| flagAt r.cph 7 ||| flagAt r.badc 5

/-- MSTAT (08 Table 2). -/
def mstatWord (c : Cluster) : Dword :=
  flagAt c.disc 63 ||| flagAt c.eccBit 62 ||| flagAt c.mderr 61 ||| flagAt c.badcfg 60 ||| fieldAt c.atype 32 ||| fieldAt c.jst 24 |||
  countAt c.queue.length 16

/-- MJPOS (08 Table 13): the next iteration of the running job, else where the last one ended. -/
def mjposWord (c : Cluster) : Dword :=
  match c.queue with
  | .job j :: _ => if j.running then countAt (j.next % 2 ^ 40) 0 else fieldAt c.mjCause 40 ||| fieldAt c.mjIter 0
  | _ => fieldAt c.mjCause 40 ||| fieldAt c.mjIter 0

/-- The CSRs of U space (13 Table 1), as a group reads them. -/
def csrReadU (s : State) (id : GroupId) (g : Group) (n : Nat) : Dword :=
  let t := s.team? g.team
  let ring := fun k => match t with
    | some t => ringOf t k
    | none => ⟨false, 0, 0, 0, 0, 0, 0, 0, true, false⟩
  let c := s.cluster (clusterOf id)
  if n < 4 then fieldAt (storeGet g.x n) 0
  else if n = 0x004 then fieldAt g.wb 0
  else if n = 0x005 then flagAt g.spov 0
  else if n = 0x006 then fieldAt g.rbase 6 ||| fieldAt g.rsize 0
  else if n = 0x007 then (match t with
    | some t => flagAt t.paired 19 ||| fieldAt t.sbase 12 ||| fieldAt t.ssize 0
    | none => 0)
  else if n = 0x008 then fieldAt g.fpctl 0
  else if n = 0x009 then fieldAt g.fpstat 0
  else if n = 0x00A then fieldAt g.atcause 0
  else if n = 0x00B then fieldAt g.wto 0
  else if n = 0x00C then 0
  else if n < 0x020 then rcfgWord (ring (n - 0x010))
  else if n < 0x030 then rstatWord (ring (n - 0x020))
  else if n < 0x040 then
    (if n % 2 = 0 then (g.abreg ((n - 0x030) / 2)).extractLsb' 0 64 else fieldAt ((g.abreg ((n - 0x030) / 2)).extractLsb' 64 16) 0)
  else if n < 0x050 then
    (let x := (tabGet c.tctl (n - 0x040)).getD Tctl.reset
     fieldAt x.fmt 16 ||| fieldAt x.rm1 8 ||| fieldAt x.cm1 0)
  else if n = 0x050 then fieldAt c.mtstr 0
  else if n = 0x051 then
    fieldAt c.mdcfg.ofmt 20 ||| flagAt c.mdcfg.nsat 18 ||| fieldAt c.mdcfg.rnd 16 ||| fieldAt c.mdcfg.rm1 8 ||| fieldAt c.mdcfg.cm1 0
  else if n = 0x052 then fieldAt c.mdscl 0
  else if n = 0x053 then mstatWord c
  else if n = 0x054 then mjposWord c
  else if n = 0x055 then c.mjfa
  else 0

/-- A register of a trap set (13 Tables 3 to 5): its offset from the base of the set; the status at 0. -/
def trapRead (p : Partition) (t : TrapRegs) (hyp : Bool) (k : Nat) : Dword :=
  if k = 0 then flagAt t.held 63 ||| fieldAt t.lim 11 ||| fieldAt t.pwb 3 ||| fieldAt t.pm 0
  else if k = 1 then t.epc
  else if k = 2 then fieldAt t.cause 0
  else if k = 3 then t.eval
  else if k = 4 then t.eem
  else if k = 5 then t.tlm
  else if k = 6 then t.edone
  else if k = 7 then (if hyp then p.htvec else p.stvec)
  else if k = 8 then fieldAt (if hyp then p.htwb else p.stwb) 0
  else if 12 ≤ k then storeGet t.scr (k - 12)
  else 0

/-- A table register with EN, a size and a base. -/
def tableWord {n : Nat} (en : Bool) (log : BitVec n) (logAt : Nat) (base : BitVec 48) : Dword :=
  flagAt en 63 ||| fieldAt log logAt ||| fieldAt base 0

/-- KBASE and KLEN of the selected key (12 R261); a selection beyond the partition's keys names none (log 24). -/
def keyRead (s : State) (g : Group) (len : Bool) : Dword :=
  let p := s.part g.part
  if p.kN.toNat ≤ g.ksel.toNat then Config.unnamedKey s.fresh
  else
    let k := s.key (p.kLo.toNat + g.ksel.toNat)
    if len then fieldAt k.lines 0 else flagAt k.v 63 ||| fieldAt k.kind 48 ||| fieldAt k.base 0

/-- XSTAT (04 Table 12). -/
def xstatWord (c : Core) : Dword :=
  flagAt (logFull c && c.logWait.any fun e => e.copy.isSome) 63 ||| flagAt c.lbad 62 |||
  ((List.range 8).foldl (fun v q => v ||| flagAt ((c.queue q).faulted || !(c.queue q).halted.isEmpty) (16 + q)) 0) |||
  countAt (inFlight c) 0

/-- The CSRs of S space, as a group reads them; CELTAKE is apart. -/
def csrReadS (s : State) (id : GroupId) (g : Group) (n : Nat) : Dword :=
  let p := s.part g.part
  let c := s.core (coreOf id)
  if n < 0x110 then trapRead p g.st false (n - 0x100)
  else if n = 0x1A0 then fieldAt p.s1root 15
  else if n = 0x1B1 then
    flagAt p.celRef 63 ||| countAt ((s.cellar.filter fun e => e.part == g.part && !e.released).length) 15 |||
    countAt ((s.cellar.filter fun e => e.part == g.part && e.released).length) 0
  else if n = 0x1B3 then countAt s.qepoch 0
  else if n = 0x1B4 then countAt (qold s) 0
  else if n = 0x1C0 then fieldAt p.pinStatus 0
  else if n = 0x1C8 then fieldAt g.ksel 0
  else if n = 0x1C9 then keyRead s g false
  else if n = 0x1CA then keyRead s g true
  else if n = 0x1CB then fieldAt p.shdStatus 0
  else if n = 0x1D0 then tableWord c.flogEn c.flogLogn 59 c.flogBase
  else if n = 0x1D1 then fieldAt c.xfridx 0
  else if n = 0x1D2 then fieldAt c.xqsel 0
  else if n = 0x1D3 then
    (let q := c.queue c.xqsel.toNat
     tableWord q.en q.logn 59 q.base ||| fieldAt q.team 54)
  else if n = 0x1D4 then xstatWord c
  else if n = 0x1E0 then fieldAt c.gen0 0
  else if n = 0x1E8 then p.feat
  else if n = 0x1E9 then fieldAt g.udgen 0
  else if n = 0x1EA then tableWord p.pubEn p.pubLog 58 p.pubBase
  else if n = 0x1EB then fieldAt p.pubNext 8
  else if n = 0x1ED then fieldAt p.castState 62 ||| fieldAt p.castOk 40 ||| fieldAt p.castBad 32 ||| fieldAt p.castBadh 0
  else if n = 0x1F0 then tableWord p.mtagEn p.mtagLog 58 p.mtagBase
  else if n = 0x1F1 then fieldAt p.mrtout 0
  else if n = 0x1F2 then fieldAt (g.mrsel.extractLsb' 8 3) 8 ||| fieldAt (g.mrsel.extractLsb' 0 6) 0
  else if n = 0x1F3 then
    (if g.mrsel.extractLsb' 8 3 = 7#3 then 0
     else storeGet p.mrcnt ((g.mrsel.extractLsb' 0 6).toNat * 8 + (g.mrsel.extractLsb' 8 3).toNat))
  else if n = 0x1F4 then tableWord p.ttEn p.ttLog 58 p.ttBase
  else if n = 0x1F5 then tableWord p.landEn p.landLog 59 p.landBase
  else if n = 0x1F6 then tableWord p.splEn p.splLog 59 p.splBase
  else if n = 0x1F8 then
    fieldAt p.landRef 48 ||| countAt p.spilled.length 32 ||| flagAt p.badl 31 ||| flagAt p.bads 30 ||| countAt p.landUsed.length 0
  else if n = 0x200 then fieldAt g.tlStatus 0
  else if n = 0x201 then tableWord p.opEn 8#5 58 p.opBase
  else if n = 0x202 then tableWord p.tdEn p.tdLog 58 p.tdBase
  else if n = 0x203 then tableWord p.jcEn p.jcLog 58 p.jcBase
  else if n = 0x204 then
    fieldAt p.bindf 48 ||| fieldAt p.undf 32 ||| fieldAt p.rej 16 ||| countAt (p.evDpn.toNat - p.poolUsed.length) 0
  else if n = 0x205 then flagAt p.lbEn 63 ||| fieldAt p.lbBase 0
  else 0

/-- The debug CSRs of a group (13 Table 8). -/
def debugRead (g : Group) (n : Nat) : Dword :=
  let d := g.dbg
  if n = 0x600 then
    flagAt d.halted 63 ||| flagAt d.haltReq 62 ||| flagAt d.resume 61 ||| flagAt d.single 60 ||| flagAt d.bkptHalts 59 ||| flagAt d.lavCheck 58
  else if n = 0x601 then flagAt d.pendV 63 ||| fieldAt d.pendCause 0
  else if n = 0x602 then d.pendEval
  else if n = 0x603 then d.pendTlm
  else if n = 0x604 then d.done
  else if n = 0x605 then d.pc
  else 0

/-- The CSRs of H and debug space, as a group reads them. -/
def csrReadH (s : State) (g : Group) (n : Nat) : Dword :=
  let p := s.part g.part
  if n < 0x410 then trapRead p g.ht true (n - 0x400)
  else if n = 0x480 then fieldAt p.ctxStatus 0
  else if n = 0x482 then fieldAt s.varea 0
  else if n = 0x483 then fieldAt s.vevt 0
  else if n = 0x484 then
    fieldAt s.vState 62 ||| fieldAt s.vRes 59 ||| fieldAt s.vHard 24 ||| fieldAt s.vSaved 16 ||| fieldAt s.vElapsed 0
  else if n = 0x488 then flagAt s.slEn 63 ||| fieldAt s.slN 56 ||| fieldAt s.slPeriod 36 ||| fieldAt s.slDrn 0
  else if n = 0x489 then s.slEpoch
  else if n = 0x48A then fieldAt s.slSel 0
  else if n = 0x48B then fieldAt (s.core s.slSel.toNat).slmap 0
  else if n = 0x4A0 then fieldAt p.s2root 15
  else if n = 0x4A2 then fieldAt p.hroot 15
  else if n = 0x4C0 then fieldAt p.pinq 0
  else if n = 0x4D0 then fieldAt p.evN 32 ||| fieldAt p.evLo 16 ||| fieldAt p.evDpn 0
  else if n = 0x4D1 then fieldAt p.kN 32 ||| fieldAt p.kLo 0
  else if n = 0x4D8 then flagAt s.pbEn 63 ||| fieldAt s.pbBase 0
  else debugRead g n

/-- A read of a CSR (00 R6): the state, which CELTAKE changes, and the value. -/
def csrRead (s : State) (id : GroupId) (g : Group) (n : Nat) : State × Dword :=
  if n = 0x1B2 then celtakeFrom s g
  else (s, if n < 0x100 then csrReadU s id g n else if n < 0x400 then csrReadS s id g n else csrReadH s g n)

/-- A field of a written value. -/
def cut (v : Dword) (lo w : Nat) : BitVec w := v.extractLsb' lo w

/-- A write of RSTATk: BADC is cleared by a one (05 Table 7). -/
def rstatTo (k : Nat) (v : Dword) (s : State) (g : Group) : State :=
  if v.getLsbD 5 then
    s.modTeam g.team fun t => if (tabGet t.rings k).isSome then { t with rings := tabSet t.rings k { ringOf t k with badc := false } } else t
  else s

/-- A write of MSTAT: its flags are cleared by ones (08 Table 2). -/
def mstatTo (v : Dword) (s : State) (id : GroupId) : State :=
  s.modCluster (clusterOf id) fun c =>
    { c with disc := c.disc && !v.getLsbD 63, eccBit := c.eccBit && !v.getLsbD 62, mderr := c.mderr && !v.getLsbD 61,
             badcfg := c.badcfg && !v.getLsbD 60 }

/-- A write to U space; WB has been checked (02 R30). -/
def csrWriteU (n : Nat) (v : Dword) (s : State) (id : GroupId) (g : Group) : State :=
  if n < 4 then s.modGroup id fun x => { x with x := storeSet x.x n (cut v 0 9) }
  else if n = 0x004 then s.modGroup id fun x => { x with wb := cut v 3 6 ++ 0#3 }
  else if n = 0x005 then s.modGroup id fun x => { x with spov := x.spov && !v.getLsbD 0 }
  else if n = 0x008 then s.modGroup id fun x => { x with fpctl := cut v 0 9 &&& 0x11F#9 }
  else if n = 0x009 then s.modGroup id fun x => { x with fpstat := x.fpstat &&& ~~~(cut v 0 5) }
  else if n = 0x00B then s.modGroup id fun x => { x with wto := cut v 0 32 }
  else if n = 0x00C then pendingAdd v s id g
  else if 0x020 ≤ n ∧ n < 0x030 then rstatTo (n - 0x020) v s g
  else if 0x030 ≤ n ∧ n < 0x040 then
    (let k := (n - 0x030) / 2
     s.modGroup id fun x =>
       let new : VAddr := if n % 2 = 0 then (x.abreg k).extractLsb' 64 16 ++ v else cut v 0 16 ++ (x.abreg k).extractLsb' 0 64
       { x with ab := storeSet x.ab k new })
  else if 0x040 ≤ n ∧ n < 0x050 then tctlWriteTo (n - 0x040) v s id g
  else if n = 0x050 then s.modCluster (clusterOf id) fun c => { c with mtstr := cut v 0 32 }
  else if n = 0x051 then mdcfgWriteTo v s id g
  else if n = 0x052 then s.modCluster (clusterOf id) fun c => { c with mdscl := cut v 0 32 }
  else if n = 0x053 then mstatTo v s id
  else s

/-- A write of a group's own register of a trap set (13 Tables 3 to 5): a limit above 16 and PM 3 discard a write of the status. -/
def trapWrite (t : TrapRegs) (hyp : Bool) (k : Nat) (v : Dword) : TrapRegs :=
  if k = 0 then
    (let pm : BitVec 2 := if hyp then cut v 0 2 else (cut v 0 1).setWidth 2
     if 16 < (cut v 11 5).toNat ∨ pm = 3#2 then t
     else { t with held := v.getLsbD 63, lim := cut v 11 5, pwb := cut v 3 6, pm := pm })
  else if k = 1 then { t with epc := v &&& ~~~3#64 }
  else if k = 2 then { t with cause := cut v 0 8 }
  else if k = 3 then { t with eval := v }
  else if k = 4 then { t with eem := v }
  else if k = 5 then { t with tlm := v }
  else if k = 6 then { t with edone := v }
  else if 12 ≤ k then { t with scr := storeSet t.scr (k - 12) v }
  else t

/-- KLEN (12 R261): zero is discarded. -/
def klenTo (v : Dword) (s : State) (id : GroupId) : State :=
  if cut v 0 32 = 0#32 then s else s.modGroup id fun x => { x with klen := cut v 0 32 }

/-- UDGEN (14 R313). -/
def udgenTo (v : Dword) (s : State) (id : GroupId) : State :=
  let n : BitVec 2 := cut v 0 2
  if n = 0#2 ∨ (n = 1#2 ∧ !s.featen.getLsbD 1) ∨ (n = 2#2 ∧ !s.featen.getLsbD 2) then s
  else s.modGroup id fun x => { x with udgen := n }

/-- OPCFG, TDCFG and JCCFG (10 Table 8). -/
def opcfgTo (v : Dword) (s : State) (g : Group) : State :=
  if cut v 58 5 ≠ 8#5 ∨ cut v 5 8 ≠ 0#8 then s
  else s.modPart g.part fun p => { p with opEn := v.getLsbD 63, opBase := cut v 5 43 ++ 0#5 }
def tdcfgTo (v : Dword) (s : State) (g : Group) : State :=
  if 16 < (cut v 58 5).toNat then s
  else s.modPart g.part fun p => { p with tdEn := v.getLsbD 63, tdLog := cut v 58 5, tdBase := cut v 5 43 ++ 0#5 }
def jccfgTo (v : Dword) (s : State) (g : Group) : State :=
  if 16 < (cut v 58 5).toNat then s
  else s.modPart g.part fun p => { p with jcEn := v.getLsbD 63, jcLog := cut v 58 5, jcBase := cut v 5 43 ++ 0#5 }

/-- A write to S space (the tables of each CSR). -/
def csrWriteS (n : Nat) (v : Dword) (s : State) (id : GroupId) (g : Group) : State :=
  if n = 0x107 then s.modPart g.part fun p => { p with stvec := v &&& ~~~2#64 }
  else if n = 0x108 then s.modPart g.part fun p => { p with stwb := cut v 3 6 ++ 0#3 }
  else if n < 0x110 then s.modGroup id fun x => { x with st := trapWrite x.st false (n - 0x100) v }
  else if n = 0x1A0 then s.modPart g.part fun p => { p with s1root := cut v 15 33 }
  else if n = 0x1A1 then tlbiTo (cut v 62 2) v s id g
  else if n = 0x1B0 then celaddTo v s id g
  else if n = 0x1B1 then s.modPart g.part fun p => { p with celRef := p.celRef && !v.getLsbD 63 }
  else if n = 0x1C0 then pinTo (cut v 62 2) v s id g
  else if n = 0x1C8 then s.modGroup id fun x => { x with ksel := cut v 0 14 }
  else if n = 0x1C9 then bindKey v s id g
  else if n = 0x1CA then klenTo v s id
  else if n = 0x1CB then shadowControl (cut v 62 2) v s id g
  else if n = 0x1D0 then xflogWriteTo v s id g
  else if n = 0x1D1 then s.modCore (coreOf id) fun c => { c with xfridx := cut v 0 16 }
  else if n = 0x1D2 then s.modCore (coreOf id) fun c => { c with xqsel := cut v 0 3 }
  else if n = 0x1D3 then xqcfgWriteTo v s id g
  else if n = 0x1D5 then xfresWriteTo v s id g
  else if n = 0x1E0 then srseedWriteTo v s id g
  else if n = 0x1E9 then udgenTo v s id
  else if n = 0x1EA then pubwinTo v s id g
  else if n = 0x1EB then pubnextTo v s id g
  else if n = 0x1EC then ccastTo v s id g
  else if n = 0x1F0 then mtagtWriteTo v s id g
  else if n = 0x1F1 then (if cut v 0 16 = 0#16 then s else s.modPart g.part fun p => { p with mrtout := cut v 0 16 })
  else if n = 0x1F2 then s.modGroup id fun x => { x with mrsel := cut v 0 11 &&& 0x73F#11 }
  else if n = 0x1F4 then
    (if 16 < (cut v 58 5).toNat then s
     else s.modPart g.part fun p => { p with ttEn := v.getLsbD 63, ttLog := cut v 58 5, ttBase := cut v 6 42 ++ 0#6 })
  else if n = 0x1F5 then
    s.modPart g.part fun p => { p with landEn := v.getLsbD 63, landLog := cut v 59 4, landBase := cut v 12 36 ++ 0#12 }
  else if n = 0x1F6 then
    s.modPart g.part fun p => { p with splEn := v.getLsbD 63, splLog := cut v 59 4, splBase := cut v 6 42 ++ 0#6 }
  else if n = 0x1F7 then landfreeTo v s id g
  else if n = 0x1F8 then s.modPart g.part fun p => { p with badl := p.badl && !v.getLsbD 31, bads := p.bads && !v.getLsbD 30 }
  else if n = 0x200 then tlaunchTo v s id g
  else if n = 0x201 then opcfgTo v s g
  else if n = 0x202 then tdcfgTo v s g
  else if n = 0x203 then jccfgTo v s g
  else if n = 0x205 then s.modPart g.part fun p => { p with lbEn := v.getLsbD 63, lbBase := cut v 5 43 ++ 0#5 }
  else s

/-- A write of SLMAP (13 R298): what would take a valid byte from its partition discards the write. -/
def slmapTo (v : Dword) (s : State) : State :=
  let c := s.slSel.toNat
  let m : BitVec 32 := cut v 0 32 &&& 0xBFBFBFBF#32
  let old := (s.core c).slmap
  if (List.range 4).any fun i => (slByte old i).getLsbD 7 && slByte m i != slByte old i then s
  else s.modCore c fun k => { k with slmap := m }

/-- SLCFG (13 Table 12): a PERIOD below 100 discards the write. -/
def slcfgTo (v : Dword) (s : State) : State :=
  if (cut v 36 20).toNat < 100 then s
  else { s with slEn := v.getLsbD 63, slN := cut v 56 2, slPeriod := cut v 36 20, slDrn := cut v 0 16 }

/-- EVRNG's own write rule (10 Table 15). -/
def evrngOk (v : Dword) : Bool :=
  decide ((cut v 16 16).toNat + (cut v 32 17).toNat ≤ 65536 ∧ (cut v 0 16).toNat ≤ (cut v 32 17).toNat)
/-- KRNG's own write rule (12 Table 3). -/
def krngOk (v : Dword) : Bool := decide ((cut v 0 14).toNat + (cut v 32 15).toNat ≤ 16384)

/-- EVRNG (10 R227). -/
def evrngTo (v : Dword) (s : State) (part : Nat) : State :=
  if evrngOk v then s.modPart part fun p => { p with evN := cut v 32 17, evLo := cut v 16 16, evDpn := cut v 0 16 } else s
/-- KRNG (12 R261). -/
def krngTo (v : Dword) (s : State) (part : Nat) : State :=
  if krngOk v then s.modPart part fun p => { p with kN := cut v 32 15, kLo := cut v 0 14 } else s

/-- A write of a debug CSR of a group (13 Table 8). -/
def debugWrite (n : Nat) (v : Dword) (s : State) (id : GroupId) : State :=
  if n = 0x600 then
    (let s1 := s.modGroup id fun x =>
       { x with dbg := { x.dbg with haltReq := x.dbg.haltReq || v.getLsbD 62, single := v.getLsbD 60, armed := x.dbg.armed && v.getLsbD 60,
                                    bkptHalts := v.getLsbD 59, lavCheck := v.getLsbD 58 } }
     if v.getLsbD 61 then resumeDebug s1 id else s1)
  else if n = 0x601 then s.modGroup id fun x => { x with dbg := { x.dbg with pendV := x.dbg.pendV && !v.getLsbD 63 } }
  else if n = 0x605 then s.modGroup id fun x => { x with dbg := { x.dbg with pc := v &&& ~~~3#64 } }
  else s

/-- A write of CTXOP by its OP (13 R296): the state, and whether the operation has finished. -/
def ctxTo (v : Dword) (s : State) (g : Group) : State × Bool :=
  if cut v 62 2 = 1#2 then ctxSave v s g
  else if cut v 62 2 = 2#2 then (ctxRestore v s g, true)
  else if cut v 62 2 = 3#2 then (ctxDrop v s g, true)
  else (s, true)

/-- A write to H space, CTXOP apart (the tables of each CSR). A group that asks for its own halt halts at the next boundary: the CSRW has acted
before anything of it issues again (13 R281, R290). -/
def csrWriteH (n : Nat) (v : Dword) (s : State) (id : GroupId) (g : Group) : State :=
  if n = 0x407 then s.modPart g.part fun p => { p with htvec := v &&& ~~~2#64 }
  else if n = 0x408 then s.modPart g.part fun p => { p with htwb := cut v 3 6 ++ 0#3 }
  else if n < 0x410 then s.modGroup id fun x => { x with ht := trapWrite x.ht true (n - 0x400) v }
  else if n = 0x481 then vacateTo v s
  else if n = 0x482 then { s with varea := cut v 6 42 ++ 0#6 }
  else if n = 0x483 then { s with vevt := cut v 0 32 }
  else if n = 0x488 then slcfgTo v s
  else if n = 0x489 then { s with slEpoch := v }
  else if n = 0x48A then { s with slSel := cut v 0 8 }
  else if n = 0x48B then slmapTo v s
  else if n = 0x4A0 then s.modPart g.part fun p => { p with s2root := cut v 15 33 }
  else if n = 0x4A1 then tlbigTo (cut v 62 2) v s id g
  else if n = 0x4A2 then s.modPart g.part fun p => { p with hroot := cut v 15 33 }
  else if n = 0x4C0 then s.modPart g.part fun p => { p with pinq := cut v 0 7 }
  else if n = 0x4D0 then evrngTo v s g.part
  else if n = 0x4D1 then krngTo v s g.part
  else if n = 0x4D8 then { s with pbEn := v.getLsbD 63, pbBase := cut v 16 32 ++ 0#16 }
  else (debugWrite n v s id).modGroup id fun x => { x with dbg := { x.dbg with armed := x.dbg.armed || (n == 0x600 && x.dbg.haltReq) } }

/-- A write of a CSR (00 R6): the state, and whether what it starts has finished (13 R281). -/
def csrWrite (n : Nat) (v : Dword) (s : State) (id : GroupId) (g : Group) : State × Bool :=
  if n = 0x480 then ctxTo v s g
  else (if n < 0x100 then csrWriteU n v s id g else if n < 0x400 then csrWriteS n v s id g else csrWriteH n v s id g, true)

/-- CSRR (13 R281). -/
def execCsrr (d : BitVec 7) (c : BitVec 11) (s : State) : Host.Outcome State Fault Refusal :=
  issue (.csrr d c) s fun s id g =>
    let (s1, v) := csrRead s id g c.toNat
    retire (writeDst s1 id g g.pre (dstOpnd d 2) g.active fun _ => v.setWidth 128) id

/-- CSRW (13 R281): a WB that the view does not admit has trapped WIN before issue. -/
def execCsrw (d : BitVec 7) (c : BitVec 11) (a : BitVec 7) (s : State) : Host.Outcome State Fault Refusal :=
  issue (.csrw d c a) s fun s id g =>
    let v := csrwValue s id g a
    let (s1, old) := csrRead s id g c.toNat
    match csrWrite c.toNat v s1 id g with
    | (s2, true) => retire (writeDst s2 id g g.pre (dstOpnd d 2) g.active fun _ => old.setWidth 128) id
    | (s2, false) => waitIn s2 id (.context ((cut v 49 8).toNat * 32 + (cut v 57 5).toNat))

end Sys2Proof.Machine
end

