-- ==== Sys2Proof/Machine/QueueProc.lean ====
section
/-! DEFINITION. Command queues: registers (11 R236), wakes and coins (11 R237 to R240), packets (11 R242 to R249), errors (11 R250, R251), and
earliest-deadline-first periods (13 R303, R304). -/
namespace Sys2Proof.Machine

/-- The packet in a header word and its payload words (11 R242). -/
def packetOf (h : Word) (payload : List Word) : Packet :=
  ⟨h.extractLsb' 16 8, h.extractLsb' 0 16, h.extractLsb' 24 8, payload⟩

/-- The row of a packet's TYPE (11 Table 9). -/
def decodePacket (p : Packet) : Instr :=
  match p.typ.toNat with
  | 0x00 => .packetNop p
  | 0x01 => .nopwrap p
  | 0x02 => .indirect p
  | 0x03 => .packetWait p
  | 0x04 => .pred p
  | 0x05 => .loop p
  | 0x06 => .ffence p
  | 0x07 => .packetWrite p
  | 0x08 => .packetEvsig p
  | 0x09 => .runops p
  | 0x0A => .report p
  | _ => .packetReserved p

/-- N, the words of a queue's ring (11 R236). -/
def ringWords (q : Queue) : Nat := 2 ^ q.logw.toNat
/-- The level at which a queue stands: 0 the ring, 1 to 4 buffers. -/
def levelOf (q : Queue) : Nat := q.levels.length - 1
/-- The position at the current level. -/
def curPos (q : Queue) : Nat :=
  match q.levels with
  | l :: _ :: _ => l.pos
  | _ => q.rptr.toNat
/-- Words of the current level: N for the ring, else the buffer's length. -/
def curLen (q : Queue) : Nat :=
  match q.levels with
  | l :: _ :: _ => l.len
  | _ => ringWords q
/-- The current level's loop. -/
def curLoop (q : Queue) : Option (Nat × Nat × Nat) := q.levels.head?.bind (·.loop)
/-- The packets still to be skipped at the current level. -/
def curSkip (q : Queue) : Nat := (q.levels.head?.map (·.skip)).getD 0
/-- Change the current level. -/
def modLevel (q : Queue) (f : QLevel → QLevel) : Queue :=
  match q.levels with
  | l :: r => { q with levels := f l :: r }
  | [] => q
/-- Go to a position at the current level. -/
def setPos (q : Queue) (n : Nat) : Queue :=
  match q.levels with
  | l :: m :: r => { q with levels := { l with pos := n } :: m :: r }
  | _ => { q with rptr := BitVec.ofNat 64 n }

/-- The ring level. -/
def ringLevel : QLevel := ⟨0, 0, 0, none, 0⟩

/-- The address of a word at the current level (11 R236). -/
def wordVa (s : State) (q : Queue) (pos : Nat) : VAddr :=
  match q.levels with
  | l :: _ :: _ => vaAdd l.base (4 * pos)
  | _ => mkVa s.devNum.toNat q.kind.toNat (q.base.toNat + 64 + 4 * (pos % ringWords q))

/-- What QEPOS records of a header: its ring position, or its virtual offset (11 R251). -/
def headerPos (s : State) (q : Queue) : Dword :=
  match q.levels with
  | _ :: _ :: _ => BitVec.ofNat 64 (vaOff (wordVa s q (curPos q)))
  | _ => q.rptr

/-- Words of the ring from a position on that a wake has covered (11 R240). -/
def covered (q : Queue) (pos : Nat) : Nat :=
  let n := (q.wptr - BitVec.ofNat 64 pos).toNat
  if n < 2 ^ 63 then n else 0
/-- Words available at the current level from a position on. -/
def available (q : Queue) (pos : Nat) : Nat :=
  match q.levels with
  | l :: _ :: _ => l.len - pos
  | _ => covered q pos

/-- A queue stops at an error (11 R251, R253): a stopped queue reports nothing further. A HALT that waits for the boundary has what it asked
for (log 53). -/
def queueErrorAt (s : State) (q : Nat) (code : BitVec 8) (level : BitVec 3) (epos : Dword) (value : Nat) : State :=
  let x := s.queue q
  if x.stop then s
  else
    let lost := ringFull s x.evr.toNat || ringBad s x.evr.toNat
    ringWrite (s.modQueue q fun x => { x with code := code, level := level, epos := epos, lost := lost, stop := true, run := false,
                                              haltReq := false, slots := none, wait := .none, packet := none })
      x.evr.toNat 1 q code.toNat level.toNat epos.toNat value

/-- What a queue's read of uncorrectable data at a packed address leaves in the counters and the strongbox while the pool's link is down
(15 R327, R331). -/
def queueNote (s : State) (q : Nat) (va : Dword) : State :=
  linkNote s (s.queue q).owner.toNat false .s (va.extractLsb' 48 16 ++ (va.extractLsb' 0 48).setWidth 64)

/-- An error of the packet at hand. -/
def queueError (s : State) (q : Nat) (code : BitVec 8) (value : Nat) : State :=
  queueErrorAt (if code = 0x0C then queueNote s q (BitVec.ofNat 64 value) else s) q code (BitVec.ofNat 3 (levelOf (s.queue q)))
    (headerPos s (s.queue q)) value

/-- The code of an access of a queue that fails: PKT_FAULT, or PKT_ECC where its walk meets uncorrectable data (11 Table 10, 03 R54). -/
def accessCode (c : Cause) : BitVec 8 := if c = .ecc then 0x0C else 0x07

/-- Read bytes for a queue, in S mode of its owner partition (03 R358): the bytes, or the error code and VALUE (11 R243). -/
def queueRead (s : State) (q : Nat) (va : VAddr) (n : Nat) : Except (BitVec 8 × Nat) (List Byte) :=
  match unitRead s (s.queue q).owner.toNat false .s va n with
  | .error (c, a) => .error (accessCode c, (packVa a).toNat)
  | .ok (_, some a) => .error (0x0C, (packVa a).toNat)
  | .ok (l, none) => .ok l

/-- A word at the current level: as it was read ahead, else as memory holds it now (11 R249). -/
def queueWord (s : State) (q pos : Nat) : Except (BitVec 8 × Nat) Word :=
  let x := s.queue q
  let key : Option Nat × VAddr := if levelOf x = 0 then (some (pos % 2 ^ 64), 0) else (none, wordVa s x pos)
  match x.ahead.find? (fun e => e.1 == key.1 && e.2.1 == key.2) with
  | some e => .ok e.2.2
  | none =>
    match queueRead s q (wordVa s x pos) 4 with
    | .error e => .error e
    | .ok l => .ok (BitVec.ofNat 32 (leNat l))

/-- n words from a position on. -/
def queueWords (s : State) (q : Nat) : Nat → Nat → Except (BitVec 8 × Nat) (List Word)
  | 0, _ => .ok []
  | n + 1, pos =>
    match queueWord s q pos with
    | .error e => .error e
    | .ok w => match queueWords s q n (pos + 1) with
      | .error e => .error e
      | .ok l => .ok (w :: l)

/-- The check of a header (11 R242, checks 1 to 4 as far as the header word decides them, and the body rule of R245). -/
def headerCode (q : Queue) (p : Packet) : Option (BitVec 8) :=
  let size := 1 + p.count.toNat
  let pos := curPos q
  let n := curLen q
  let c := p.count.toNat
  let allowed : BitVec 8 × Bool :=
    match p.typ.toNat with
    | 0x00 => (0, true)
    | 0x01 => (0, c == 0)
    | 0x02 => (0, c == 4)
    | 0x03 | 0x04 => (0x0F, c == 8)
    | 0x05 => (0, c == 2)
    | 0x06 => (1, c == 0)
    | 0x07 => (0, decide (4 ≤ c))
    | 0x08 => (1, c == 2)
    | 0x09 => (1, c == 4)
    | _ => (0, c == 1)
  if 0x0B ≤ p.typ.toNat then some 0x01
  else if n < size then some 0x04
  else if levelOf q = 0 ∧ n < pos % n + size then some 0x03
  else if levelOf q ≠ 0 ∧ n < pos + size then some 0x04
  else if p.flags &&& ~~~allowed.1 ≠ 0 ∨ !allowed.2 then some 0x02
  else none

/-- Payload word k, from 1 on. -/
def pw (p : Packet) (k : Nat) : Nat := ((p.payload[k - 1]?).getD 0).toNat
/-- An address in payload words 1 to 3 (11 R243). -/
def pktVa (p : Packet) : VAddr := BitVec.ofNat 80 (pw p 1 + pw p 2 * 2 ^ 32 + pw p 3 % 65536 * 2 ^ 64)

/-- The payload bits and values that 11 Table 9 and R246 rule out. -/
def payloadBad (p : Packet) : Bool :=
  let cmp := p.flags.toNat % 8
  let condBad := decide (4 < cmp) ||
    (if cmp = 4 then (List.range 6).any (fun k => pw p (2 + k) != 0)
     else decide (65536 ≤ pw p 3) || (!p.flags.getLsbD 3 && (pw p 5 != 0 || pw p 7 != 0)))
  match p.typ.toNat with
  | 0x02 | 0x09 => decide (65536 ≤ pw p 3) || pw p 4 == 0 || decide (2 ^ 24 < pw p 4)
  | 0x03 => condBad
  | 0x04 => condBad || pw p 8 == 0 || decide (65536 ≤ pw p 8)
  | 0x05 => pw p 1 == 0 || decide (65536 ≤ pw p 1)
  | 0x07 => decide (65536 ≤ pw p 3)
  | _ => false

/-- Words from one position to another: ring positions count modulo 2^64 (11 R236). -/
def wordsTo (a b : Nat) : Nat := (b + 2 ^ 64 - a) % 2 ^ 64

/-- Loops and buffers that end where the queue has come to: a body's end starts the next pass or ends the loop, a buffer's end completes
its INDIRECT (11 R245); a skip ends with the pass or the buffer (11 R246). -/
def settle : Nat → Queue → Queue
  | 0, q => q
  | fuel + 1, q =>
    let p := curPos q
    match curLoop q with
    | some (a, b, n) =>
      if p = b then
        settle fuel (if 1 < n ∧ a ≠ b then modLevel (setPos q a) fun l => { l with loop := some (a, b, n - 1), skip := 0 }
                     else modLevel q fun l => { l with loop := none, skip := 0 })
      else q
    | none =>
      match q.levels with
      | l :: m :: r =>
        if l.len ≤ p then
          let q' := { q with levels := m :: r }
          settle fuel (setPos q' (curPos q' + 5))
        else q
      | _ => q

/-- A packet completes at its level: the queue goes on at a position, and QRPTR is written into the ring header (11 R236). -/
def completeAt (s : State) (q pos : Nat) : State :=
  let x := s.queue q
  let x1 := { x with wait := .none, packet := none, slots := none }
  let x2 := settle 16 (setPos x1 pos)
  let s1 := s.modQueue q fun _ => x2
  let va := mkVa s.devNum.toNat x.kind.toNat x.base.toNat
  match unitWrite s1 x.owner.toNat false .s va (leBytes 8 x2.rptr.toNat) with
  | (s2, none) => s2
  | (_, some (c, a)) => queueErrorAt s1 q (accessCode c) 0 x2.rptr (packVa a).toNat

/-- The packet at hand completes, and its words are passed. -/
def packetDone (s : State) (q : Nat) (p : Packet) : State := completeAt s q (curPos (s.queue q) + 1 + p.count.toNat)

/-- The packet at hand waits. -/
def packetWaits (s : State) (q : Nat) (p : Packet) (w : QWait) : State :=
  s.modQueue q fun x => { x with wait := w, packet := some p }

/-- Where NOPWRAP goes: the next multiple of N (11 R244). -/
def wrapPos (q : Queue) : Nat := (curPos q / ringWords q + 1) * ringWords q

/-- A packet of the queue in turn (11 R242, R246): its checks, then a skip that is under way, then its own effect. The payload of a NOP is not
read (11 R244). -/
def packetStep (p : Packet) (f : State → Nat → Queue → State) (s : State) : Host.Outcome State Fault Refusal :=
  let q := s.curQueue
  let x := s.queue q
  let body := match curLoop x with
    | some (_, b, _) => decide (wordsTo (curPos x) b < 1 + p.count.toNat)
    | none => false
  if !(x.en || x.closing) || x.stop then .next s
  else match headerCode x p with
    | some c => .next (queueError s q c 0)
    | none =>
      if p.typ ≠ 0 ∧ p.payload.length < p.count.toNat then .next s
      else if payloadBad p then .next (queueError s q 0x02 0)
      else if body then .next (queueError s q 0x04 0)
      else if p.typ = 1 ∧ (levelOf x ≠ 0 ∨ (curLoop x).isSome) then .next (queueError s q 0x03 0)
      else if curSkip x ≠ 0 then
        .next (completeAt (s.modQueue q fun y => modLevel y fun l => { l with skip := l.skip - 1 }) q
          (if p.typ = 1 then wrapPos x else curPos x + 1 + p.count.toNat))
      else .next (f s q x)

/-- The check of a packet's address: aligned, of this device and of kind 0, 2 or 3 (11 R243). -/
def addrCode (s : State) (va : VAddr) (align : Nat) : Option (BitVec 8) :=
  if vaOff va % align ≠ 0 then some 0x06
  else if !isLocal s va || !(vaKind va == 0 || vaKind va == 2 || vaKind va == 3) then some 0x07
  else none

/-- PACKET_NOP (11 R244). -/
def execPacketNop (p : Packet) (s : State) : Host.Outcome State Fault Refusal :=
  packetStep p (fun s q _ => packetDone s q p) s

/-- NOPWRAP (11 R244). -/
def execNopwrap (p : Packet) (s : State) : Host.Outcome State Fault Refusal :=
  packetStep p (fun s q x => completeAt s q (wrapPos x)) s

/-- INDIRECT (11 R245): it completes at the end of its buffer. -/
def execIndirect (p : Packet) (s : State) : Host.Outcome State Fault Refusal :=
  packetStep p (fun s q x =>
    match addrCode s (pktVa p) 4 with
    | some c => queueError s q c (packVa (pktVa p)).toNat
    | none =>
      if 4 ≤ levelOf x then queueError s q 0x05 0
      else s.modQueue q fun y => { y with levels := ⟨pktVa p, pw p 4, 0, none, 0⟩ :: y.levels }) s

/-- The condition of WAIT and PRED (11 R246), or the error it meets. -/
def condition (s : State) (q : Nat) (p : Packet) : State × Except (BitVec 8 × Nat) Bool :=
  let cmp := p.flags.toNat % 8
  if cmp = 4 then
    let h := BitVec.ofNat 32 (pw p 1)
    let part := (s.queue q).owner.toNat
    let (s1, st) :=
      if handleCls h < 4 ∧ handleDev h = s.devNum.toNat ∧ !evtNamed (s.part part) (handleIdx h) then (s, 0x80000001#32)
      else signalEvent s part 2 h 0
    (s1, if st.getLsbD 31 then .error (0x09, st.toNat) else .ok (st == 0))
  else
    let n := if p.flags.getLsbD 3 then 8 else 4
    match addrCode s (pktVa p) n with
    | some c => (s, .error (c, (packVa (pktVa p)).toNat))
    | none =>
      match queueRead s q (pktVa p) n with
      | .error e => (s, .error e)
      | .ok l =>
        let mask := pw p 6 + pw p 7 * 2 ^ 32
        let ref := pw p 4 + pw p 5 * 2 ^ 32
        let v := (BitVec.ofNat 64 (leNat l) &&& BitVec.ofNat 64 mask).toNat
        (s, .ok (if cmp = 0 then v == ref else if cmp = 1 then v != ref else if cmp = 2 then decide (ref ≤ v) else decide (v < ref)))

/-- PACKET_WAIT (11 R246). -/
def execPacketWait (p : Packet) (s : State) : Host.Outcome State Fault Refusal :=
  packetStep p (fun s q _ =>
    match condition s q p with
    | (s1, .error (c, v)) => queueError s1 q c v
    | (s1, .ok true) => packetDone s1 q p
    | (s1, .ok false) => packetWaits s1 q p (.cond (if pw p 8 = 0 then none else some (s.time + pw p 8 * 1000)))) s

/-- The time limit of a WAIT has come (11 R246). -/
def waitExpired (s : State) (q : Nat) : Bool :=
  match (s.queue q).wait with
  | .cond (some t) => decide (t ≤ s.time)
  | _ => false

/-- A WAIT evaluates its condition again (11 R246); one whose time has come first stops the queue. -/
def waitAgain (s : State) (q : Nat) : State :=
  if waitExpired s q then queueError s q 0x0A 0
  else match (s.queue q).wait, (s.queue q).packet with
  | .cond _, some p =>
    (match condition s q p with
     | (s1, .error (c, v)) => queueError s1 q c v
     | (s1, .ok true) => packetDone s1 q p
     | (s1, .ok false) => s1)
  | _, _ => s

/-- Every WAIT evaluates its condition again: whatever has been written is seen before time passes (11 R246, log 21). -/
def waitsAgain (s : State) : State := s.queues.foldl (fun s e => waitAgain s e.1) s

/-- WAIT_REEVALUATE (11 R246). -/
def execWaitReevaluate (q : Nat) (s : State) : Host.Outcome State Fault Refusal := .next (waitAgain s q)

/-- Every WAIT whose time has come stops its queue (11 R246). -/
def waitsExpire (s : State) : State := s.queues.foldl (fun s e => if waitExpired s e.1 then queueError s e.1 0x0A 0 else s) s

/-- WAIT_TIMEOUT (11 R246): a timeout that has expired before the condition holds stops the queue. -/
def execWaitTimeout (q : Nat) (s : State) : Host.Outcome State Fault Refusal :=
  .next (if waitExpired s q then queueError s q 0x0A 0 else s)

/-- PRED (11 R246). -/
def execPred (p : Packet) (s : State) : Host.Outcome State Fault Refusal :=
  packetStep p (fun s q _ =>
    match condition s q p with
    | (s1, .error (c, v)) => queueError s1 q c v
    | (s1, .ok true) => packetDone s1 q p
    | (s1, .ok false) => packetDone (s1.modQueue q fun y => modLevel y fun l => { l with skip := pw p 8 }) q p) s

/-- LOOP (11 R245). -/
def execLoop (p : Packet) (s : State) : Host.Outcome State Fault Refusal :=
  packetStep p (fun s q x =>
    let start := curPos x + 3
    if (curLoop x).isSome then queueError s q 0x05 0
    else if levelOf x ≠ 0 ∧ curLen x < start + pw p 2 then queueError s q 0x04 0
    else if levelOf x = 0 ∧ ringWords x < start % ringWords x + pw p 2 then queueError s q 0x03 0
    else packetDone (s.modQueue q fun y => modLevel y fun l => { l with loop := some (start % 2 ^ 64, (start + pw p 2) % 2 ^ 64, pw p 1) }) q p) s

/-- Every earlier stream of a queue has run (11 R247). -/
def streamsRun (s : State) (q : Nat) : Bool :=
  (s.part (s.queue q).owner.toNat).streams.all fun x => x.queue != q || (x.ended && x.ops.all (·.complete))

/-- FFENCE (11 R247, R249): with DRAIN it waits until every earlier stream has completed; then it discards every fetched word. -/
def execFfence (p : Packet) (s : State) : Host.Outcome State Fault Refusal :=
  packetStep p (fun s q _ =>
    if p.flags.getLsbD 0 && !streamsRun s q then packetWaits s q p .drain
    else packetDone (s.modQueue q fun y => { y with ahead := [] }) q p) s

/-- PACKET_WRITE (11 R244): a write that fails a check has no effect. -/
def execPacketWrite (p : Packet) (s : State) : Host.Outcome State Fault Refusal :=
  packetStep p (fun s q x =>
    if !x.rights.getLsbD 2 then queueError s q 0x08 0
    else match addrCode s (pktVa p) 4 with
      | some c => queueError s q c (packVa (pktVa p)).toNat
      | none =>
        match unitWrite s x.owner.toNat false .s (pktVa p) ((p.payload.drop 3).flatMap fun w => leBytes 4 w.toNat) with
        | (_, some (c, a)) => queueError s q (accessCode c) (packVa a).toNat
        | (s1, none) => packetDone s1 q p) s

/-- PACKET_EVSIG (11 R244). -/
def execPacketEvsig (p : Packet) (s : State) : Host.Outcome State Fault Refusal :=
  packetStep p (fun s q x =>
    if !x.rights.getLsbD 2 then queueError s q 0x08 0
    else
      let (s1, st) := signalEvent s x.owner.toNat (p.flags.toNat % 2) (BitVec.ofNat 32 (pw p 1)) (BitVec.ofNat 32 (pw p 2))
      if st ≠ 0 then queueError s1 q 0x09 st.toNat else packetDone s1 q p) s

/-- RUNOPS (11 R247): it waits while eight streams decode, then hands its stream over. -/
def execRunops (p : Packet) (s : State) : Host.Outcome State Fault Refusal :=
  packetStep p (fun s q x =>
    let part := x.owner.toNat
    if !x.rights.getLsbD 1 then queueError s q 0x08 0
    else match addrCode s (pktVa p) 16 with
      | some c => queueError s q c (packVa (pktVa p)).toNat
      | none =>
        let s0 := pruneStreams s part
        if 8 ≤ ((s0.part part).streams.filter (fun y => !y.ended)).length then packetWaits s0 q p .slot
        else
          let id := (s0.part part).nextStream
          let st : Stream :=
            { id := id, queue := q, qpos := headerPos s x, qlevel := levelOf x, waitDone := p.flags.getLsbD 0,
              levels := [⟨pktVa p, pw p 4, 0⟩], seq := 0, prev := none, waits := [], fence := none, ops := [], ended := false, error := 0 }
          let s1 := s0.modPart part fun y => { y with streams := y.streams ++ [st], nextStream := id + 1 }
          if p.flags.getLsbD 0 then packetWaits s1 q p (.stream id) else packetDone s1 q p) s

/-- The error of a stream is reported: the queue stops (11 R247). -/
def reportStream (s : State) (q part : Nat) (x : Stream) : State :=
  queueErrorAt (modStream s part x.id fun y => { y with error := 0 }) q x.error (BitVec.ofNat 3 x.qlevel) x.qpos 0

/-- RUNOPS_COMPLETE (11 R247): the stream of a waiting RUNOPS is complete, or has met its error. -/
def execRunopsComplete (q : Nat) (s : State) : Host.Outcome State Fault Refusal :=
  let part := (s.queue q).owner.toNat
  match (s.queue q).wait, (s.queue q).packet with
  | .stream id, some p =>
    (match findStream s part id with
     | none => .next (packetDone s q p)
     | some x =>
       if x.error ≠ 0 then .next (reportStream s q part x)
       else if streamDone x then .next (packetDone (pruneStreams s part) q p)
       else .next s)
  | _, _ => .next s

/-- REPORT (11 R244): it waits while the queue's event ring is full or disabled. -/
def execReport (p : Packet) (s : State) : Host.Outcome State Fault Refusal :=
  packetStep p (fun s q x =>
    if ringFull s x.evr.toNat then packetWaits s q p .report
    else packetDone (ringWrite s x.evr.toNat 2 q 0 (levelOf x) (headerPos s x).toNat (pw p 1)) q p) s

/-- PACKET_RESERVED (11 R242): PKT_TYPE. -/
def execPacketReserved (p : Packet) (s : State) : Host.Outcome State Fault Refusal :=
  packetStep p (fun s q _ => queueError s q 0x01 0) s

/-- The thread has spent its budget of the period (13 R303). -/
def spent (x : Queue) : Bool := decide (x.budget.toNat * 256 ≤ x.used)

/-- A thread whose budget is spent overruns (13 R304): it is throttled, and the overrun stays in OVRF and is recorded. It does so before anything
else renews the budget or ends the period. -/
def overrun (s : State) (q : Nat) : State :=
  let x := s.queue q
  if s.edf && (x.en || x.closing) && !x.stop && x.period != 0 && !x.throt && spent x then
    ringWrite (s.modQueue q fun x => { x with throt := true, ovrf := true }) x.evr.toNat 3 q 0x14 0 x.rptr.toNat x.periodIdx
  else s

/-- A queue whose EN is clear holds nothing of what it was doing (11 R236). -/
def closeQueue (s : State) (q : Nat) : State :=
  (overrun s q).modQueue q fun x =>
    { x with en := false, closing := false, haltReq := false, slots := none, wait := .none, packet := none, levels := [], ahead := [],
             badWptr := none }

/-- What stops a queue at a packet boundary: a clear of EN, HALT, a WPTR_BAD, or the error of a stream handed over earlier (11 R247, R248,
R251). A waiting FFENCE is none; a waiting WAIT, RUNOPS or REPORT ends unexecuted for the first three. -/
def boundary (s : State) (q : Nat) : Option State :=
  let x := s.queue q
  if x.wait == .drain then none
  else if x.closing then some (closeQueue s q)
  else if !x.en || x.stop then none
  else match x.badWptr with
    | some w => some (queueErrorAt (s.modQueue q fun y => { y with badWptr := none, wait := .none, packet := none }) q 0x0B 0 x.rptr w.toNat)
    | none =>
      if x.haltReq then
        some (s.modQueue q fun y => { y with haltReq := false, stop := true, run := false, slots := none, wait := .none, packet := none })
      else if x.wait == .none then
        ((s.part x.owner.toNat).streams.find? (fun y => y.queue == q && y.error != 0)).map fun y => reportStream s q x.owner.toNat y
      else none

/-- Stop at once where the thread stands at a boundary. -/
def atBoundary (s : State) (q : Nat) : State := (boundary s q).getD s

/-- A queue whose EN is set starts at position 0, with QEPOS clear as well (11 R236, log 49); its periods run from here (13 R303). Errors of
streams handed over before no longer reach it, and a HALT that has been asked for stops it at its first boundary (log 53). -/
def startQueue (s0 : State) (q : Nat) : State :=
  let s := overrun s0 q
  let s1 := s.modPart (s.queue q).owner.toNat fun p =>
    { p with streams := p.streams.map fun x => if x.queue == q then { x with error := 0 } else x }
  s1.modQueue q fun x =>
    { x with en := true, closing := false, stop := false, run := false, rptr := 0, wptr := 0, code := 0, level := 0,
             lost := false, epos := 0, used := 0, slots := none, levels := [ringLevel], ahead := [], wait := .none, packet := none, badWptr := none,
             throt := false, rights := 0, periodStart := s.time, periodIdx := 0 }

/-- A write of QCTL (11 R236, R248, R251, Table 2). The restart clears QEPOS with QERR, as the corrected run of 18 R340 ends with it clear;
RUN reads as set until the thread's next turn, and HALT until the queue comes to a boundary, whether it runs now or is started later
(00 R6, log 53). -/
def qctlWrite (q : Nat) (v : Dword) (s : State) : State :=
  let x := s.queue q
  let s1 := s.modQueue q fun x =>
    { x with nonce := v.extractLsb' 0 48,
             owner := if x.en then x.owner else v.extractLsb' 48 6,
             evr := if x.en then x.evr else v.extractLsb' 57 3 }
  let s2 :=
    if v.getLsbD 63 && !x.en then startQueue s1 q
    else if !v.getLsbD 63 && x.en then
      (if x.wait == .drain then s1.modQueue q fun x => { x with en := false, closing := true } else closeQueue s1 q)
    else s1
  let s3 :=
    if v.getLsbD 61 && (s2.queue q).stop && (s2.queue q).en then
      s2.modQueue q fun x => { x with code := 0, level := 0, lost := false, epos := 0, stop := false, run := true, slots := none,
                                      levels := [ringLevel], ahead := [], wait := .none, packet := none, badWptr := none }
    else if v.getLsbD 61 then s2.modQueue q fun x => { x with run := true }
    else s2
  if v.getLsbD 60 then atBoundary (s3.modQueue q fun x => { x with haltReq := true }) q else s3

/-- QUEUE_ENABLE (11 R236). -/
def execQueueEnable (q : Nat) (v : BitVec 64) (s : State) : Host.Outcome State Fault Refusal :=
  .next (if v.getLsbD 63 && !(s.queue q).en then qctlWrite q v s else s)
/-- QUEUE_DISABLE (11 R236). -/
def execQueueDisable (q : Nat) (v : BitVec 64) (s : State) : Host.Outcome State Fault Refusal :=
  .next (if !v.getLsbD 63 && (s.queue q).en then qctlWrite q v s else s)
/-- QUEUE_RUN (11 R251). -/
def execQueueRun (q : Nat) (v : BitVec 64) (s : State) : Host.Outcome State Fault Refusal :=
  .next (if v.getLsbD 61 && (s.queue q).stop then qctlWrite q v s else s)
/-- QUEUE_HALT (11 R248). -/
def execQueueHalt (q : Nat) (v : BitVec 64) (s : State) : Host.Outcome State Fault Refusal :=
  .next (if v.getLsbD 60 then qctlWrite q v s else s)

/-- QBASE as software reads it (11 Table 3). -/
def qbaseOf (x : Queue) : Dword := x.kind ++ x.logw ++ 0#8 ++ x.base

/-- A rejected wake (11 R239). -/
def rejectWake (s : State) (q : Nat) (why : BitVec 4) : State :=
  s.modQueue q fun x => { x with why := why, rejCount := if x.rejCount = 0xFFFFFFFF#32 then x.rejCount else x.rejCount + 1 }

/-- WAKE (11 R239, R240). -/
def execWake (w : WakeMsg) (s : State) : Host.Outcome State Fault Refusal :=
  let q := w.q
  let x := s.queue q
  let l := w.data
  let rights := byteAt l 8
  let form := w.whole && l.length == 64 && (l.drop 40).all (· == 0) && decide (rights < 8) && decide (byteAt l 9 < 64) &&
    decide (byteAt l 10 < 128) && byteAt l 11 == 0 && leField l 18 6 == 0
  let wptr := BitVec.ofNat 64 (leField l 32 8)
  if !form then .next (rejectWake s q 1)
  else if leField l 24 8 ≠ (sealOf s (l.take 24)).toNat then .next (rejectWake s q 2)
  else if !(x.en && byteAt l 10 == q && leField l 0 8 == (qbaseOf x).toNat && byteAt l 9 == x.owner.toNat &&
            leField l 12 6 == x.nonce.toNat) then .next (rejectWake s q 3)
  else if rights % 2 = 0 then .next (rejectWake s q 4)
  else if ringWords x < (wptr - x.rptr).toNat then
    .next (if x.stop then s else atBoundary (s.modQueue q fun y => { y with badWptr := some (y.badWptr.getD wptr) }) q)
  else
    let d := (wptr - x.wptr).toNat
    .next (s.modQueue q fun y => { y with rights := BitVec.ofNat 8 rights, wptr := if 1 ≤ d ∧ d < 2 ^ 63 then wptr else y.wptr })

/-- The end of a thread's period has come (13 R303). -/
def periodDue (s : State) (x : Queue) : Bool :=
  s.edf && (x.en || x.closing) && x.period != 0 && decide (x.periodStart + x.period.toNat * 1000 ≤ s.time)

/-- QP_PERIOD_START (13 R303): the period's end has come, and the next begins with its budget renewed; a budget that was spent before is an
overrun first (13 R304). -/
def execQpPeriodStart (q : Nat) (s : State) : Host.Outcome State Fault Refusal :=
  .next (if periodDue s (s.queue q) then
      (overrun s q).modQueue q fun x =>
        { x with periodStart := x.periodStart + x.period.toNat * 1000, periodIdx := x.periodIdx + 1, used := 0, throt := false }
    else s)

/-- QP_OVERRUN (13 R304): the budget is spent before the period ends. -/
def execQpOverrun (q : Nat) (s : State) : Host.Outcome State Fault Refusal := .next (overrun s q)

/-- The front end reads a word and keeps it until FFENCE, RUN or enable, or until it reads it again (11 R249): a ring word that a wake has
covered, or a word of a buffer. -/
def readAheadAt (s : State) (q : Nat) (pos : Option Nat) (va : VAddr) : State :=
  let x := s.queue q
  let base : Queue := { x with levels := [ringLevel] }
  let (key, at_, ok) : (Option Nat × VAddr) × VAddr × Bool :=
    match pos with
    | some p => ((some p, 0), wordVa s base p, decide (0 < covered x p ∧ covered x p ≤ ringWords x))
    | none => ((none, va), va, decide (vaOff va % 4 = 0))
  if !x.en || x.stop || !ok then s
  else match queueRead s q at_ 4 with
    | .ok l => s.modQueue q fun y =>
        { y with ahead := y.ahead.filter (fun e => !(e.1 == key.1 && e.2.1 == key.2)) ++ [(key.1, key.2, BitVec.ofNat 32 (leNat l))] }
    | .error (c, v) => if c = 0x0C then queueNote s q (BitVec.ofNat 64 v) else s

/-- The next packet of a queue that can be looked at: an error met in reading it, or the packet, with no payload where its header already
fails its check and for a NOP, whose payload is skipped unread (11 R244); nothing while a word of it is not covered (11 R240, R242). -/
def fetchPacket (s : State) (q : Nat) : Option (Except (BitVec 8 × Nat) Packet) :=
  let x := s.queue q
  let pos := curPos x
  if available x pos = 0 then none
  else match queueWord s q pos with
    | .error e => some (.error e)
    | .ok h =>
      let p := packetOf h []
      if (headerCode x p).isSome then some (.ok p)
      else if available x pos < 1 + p.count.toNat then none
      else if p.typ = 0 then some (.ok p)
      else match queueWords s q p.count.toNat (pos + 1) with
        | .error e => some (.error e)
        | .ok l => some (.ok { p with payload := l })

/-- A thread that could take an issue slot now: it has a packet to look at, or its wait is over; a WAIT takes none (11 R235). -/
def threadReady (s : State) (q : Nat) : Bool :=
  let x := s.queue q
  let p := s.part x.owner.toNat
  (x.en || x.closing) && !x.stop &&
  (match x.wait with
   | .none => (fetchPacket s q).isSome
   | .cond _ => false
   | .slot => decide ((((pruneStreams s x.owner.toNat).part x.owner.toNat).streams.filter fun (y : Stream) => !y.ended).length < 8)
   | .stream id => (p.streams.find? fun y => y.id == id).all fun y => y.error != 0 || streamDone y
   | .drain => streamsRun s q
   | .report => !ringFull s x.evr.toNat)

/-- Whether a thread's period comes before another's: the earlier deadline, then the lower number (13 R303). -/
def dueBefore (a b : Nat × Queue) : Bool :=
  let d := fun (x : Queue) => x.periodStart + x.period.toNat * 1000
  decide (d a.2 < d b.2) || (d a.2 == d b.2 && decide (a.1 < b.1))

/-- How far a queue's thread stands behind the one that its processor served last in its round (11 R235): 0 for the next; a processor that has
served none begins with thread 0 (log 21). -/
def roundPlace (s : State) (q : Nat) : Nat := (q % 32 + 63 - (tabGet s.qserved (q / 32)).getD 31) % 32

/-- Whether a queue processor picks a thread in this clock (11 R235, 13 R303): while EDF is set, the ready thread with budget whose deadline is
earliest, and where there is none the next in the round of those without a period; while EDF is clear, the next in the round of all. -/
def mayPick (s : State) (q : Nat) : Bool :=
  let x := s.queue q
  let rivals := s.queues.filter fun e => e.1 / 32 == q / 32 && e.1 != q && threadReady s e.1
  let timed := rivals.filter fun e => e.2.period != 0 && !e.2.throt && !spent e.2
  let first := fun (l : Tab Queue) => l.all fun e => decide (roundPlace s q < roundPlace s e.1)
  if !s.edf then first rivals
  else if x.period = 0 then timed.isEmpty && first (rivals.filter fun e => e.2.period == 0)
  else !x.throt && !spent x && timed.all fun e => dueBefore (q, x) e

/-- A thread takes an issue slot (13 R303): of its budget, and in the round where it was picked by the round. What is left says whether the packet
at hand takes effect in this slot, which is its last (log 21). A budget that this slot spends is overrun at once (13 R304). -/
def issueSlot (s : State) (q : Nat) : State × Bool :=
  let x := s.queue q
  let n := x.slots.getD (Config.packetSlots s.fresh)
  let s1 := s.modQueue q fun y => { y with used := y.used + 1, slots := if n = 0 then none else some (n - 1) }
  let s2 := { s1 with curQueue := q, fresh := s.fresh + 1,
                      qserved := if !s.edf || x.period == 0 then tabSet s.qserved (q / 32) (q % 32) else s.qserved }
  (overrun s2 q, n == 0)

end Sys2Proof.Machine
end

