-- ==== Sys2Proof/Machine/SlhDsa.lean ====
section
/-! DEFINITION. Verification of an SLH-DSA-SHAKE-256s signature of FIPS 205, by which step 4 of a start passes the firmware (00 R9, 15 R328; log 57).
The parameters of the set: n 32, h 64, d 8, h' 8, a 14, k 22, lg w 4, m 47; a key of 64 bytes and a signature of 29,792. -/
namespace Sys2Proof.Machine

/-- The number that bytes hold with the first one highest. -/
def slhNat (l : List Byte) : Nat := leNat l.reverse

/-- A number in n bytes, the highest first. -/
def slhBytes (n v : Nat) : List Byte := (leBytes n v).reverse

/-- Part i of n bytes of a list. -/
def slhPart (l : List Byte) (n i : Nat) : List Byte := (l.drop (n * i)).take n

/-- An address (ADRS): its layer, tree and type, and the three words that the type gives a meaning: key pair; chain or tree height; hash or
tree index. -/
structure SlhAddr where
  layer : Nat
  tree : Nat
  kind : Nat
  pair : Nat
  height : Nat
  index : Nat
  deriving DecidableEq, Repr

/-- The 32 bytes of an address. -/
def slhAddrBytes (x : SlhAddr) : List Byte :=
  slhBytes 4 x.layer ++ slhBytes 12 x.tree ++ slhBytes 4 x.kind ++ slhBytes 4 x.pair ++ slhBytes 4 x.height ++ slhBytes 4 x.index

/-- The functions F, H and T of the set: SHAKE256 over the public seed, the address and the message. -/
def slhHash (seed : List Byte) (x : SlhAddr) (m : List Byte) : List Byte := shake256 (seed ++ slhAddrBytes x ++ m) 32

/-- The first n digits of b bits of a byte string, from its highest bit on (base_2b). -/
def slhDigits (l : List Byte) (b n : Nat) : List Nat :=
  (List.range n).map fun i => slhNat l / 2 ^ (8 * l.length - b * (i + 1)) % 2 ^ b

/-- s steps of a chain of WOTS+ from step i on. -/
def slhChain (seed : List Byte) (x : SlhAddr) : Nat → Nat → List Byte → List Byte
  | 0, _, m => m
  | s + 1, i, m => slhChain seed x s (i + 1) (slhHash seed { x with index := i } m)

/-- The 67 digits that a WOTS+ signature covers: 64 of the message and 3 of its checksum. -/
def slhWotsDigits (m : List Byte) : List Nat :=
  let d := slhDigits m 4 64
  d ++ slhDigits (slhBytes 2 ((d.map fun v => 15 - v).sum * 16)) 4 3

/-- The WOTS+ public key that a signature gives (wots_pkFromSig), at the layer, tree and key pair of an address. -/
def slhWots (seed : List Byte) (x : SlhAddr) (sig m : List Byte) : List Byte :=
  let ends := (slhWotsDigits m).zipIdx.flatMap fun e =>
    slhChain seed { x with kind := 0, height := e.2 } (15 - e.1) e.1 (slhPart sig 32 e.2)
  slhHash seed { x with kind := 1, height := 0, index := 0 } ends

/-- The root above a leaf by its authentication path, the nodes of which lie beside the path at heights 0, 1 and on. -/
def slhClimb (seed : List Byte) (x : SlhAddr) (auth : List Byte) : Nat → Nat → Nat → List Byte → List Byte
  | 0, _, _, node => node
  | n + 1, h, idx, node =>
    let y : SlhAddr := { x with height := h + 1, index := idx / 2 }
    let beside := slhPart auth 32 h
    slhClimb seed x auth n (h + 1) (idx / 2) (slhHash seed y (if idx % 2 = 0 then node ++ beside else beside ++ node))

/-- The root of an XMSS tree that a signature gives (xmss_pkFromSig). -/
def slhXmss (seed : List Byte) (layer tree leaf : Nat) (sig m : List Byte) : List Byte :=
  slhClimb seed ⟨layer, tree, 2, 0, 0, 0⟩ (sig.drop 2144) 8 0 leaf (slhWots seed ⟨layer, tree, 0, leaf, 0, 0⟩ sig m)

/-- The root of the hypertree that a signature gives, from a layer on (ht_verify): each XMSS signature of 2,400 bytes signs the root below. -/
def slhTree (seed : List Byte) : Nat → Nat → Nat → Nat → List Byte → List Byte → List Byte
  | 0, _, _, _, _, m => m
  | n + 1, layer, tree, leaf, sig, m =>
    slhTree seed n (layer + 1) (tree / 256) (tree % 256) (sig.drop 2400) (slhXmss seed layer tree leaf (sig.take 2400) m)

/-- The FORS public key that a signature gives (fors_pkFromSig): 22 trees of height 14, each with its value and its path in 480 bytes. -/
def slhFors (seed : List Byte) (tree leaf : Nat) (sig md : List Byte) : List Byte :=
  let x : SlhAddr := ⟨0, tree, 3, leaf, 0, 0⟩
  let roots := (slhDigits md 14 22).zipIdx.flatMap fun e =>
    let part := slhPart sig 480 e.2
    let idx := e.2 * 16384 + e.1
    slhClimb seed x (part.drop 32) 14 0 idx (slhHash seed { x with index := idx } (part.take 32))
  slhHash seed { x with kind := 4 } roots

/-- Whether a signature over a message verifies under a key (slh_verify_internal). -/
def slhVerify (key m sig : List Byte) : Bool :=
  let seed := key.take 32
  let root := key.drop 32
  let digest := shake256 (sig.take 32 ++ seed ++ root ++ m) 47
  let tree := slhNat ((digest.drop 39).take 7)
  let leaf := slhNat (digest.drop 46)
  key.length == 64 && sig.length == 29792 &&
    slhTree seed 8 0 tree leaf (sig.drop 10592) (slhFors seed tree leaf ((sig.drop 32).take 10560) (digest.take 39)) == root

end Sys2Proof.Machine
end

