-- ==== Sys2Proof/Machine/Hub.lean ====
section
/-! DEFINITION. The device boundary (15): the hub's registers, partitions (13 R306), features (14 R311), the network, links, starts, throttling and
the strongbox, and the host complex's accesses. -/
namespace Sys2Proof.Machine

/-- Freeze the strongbox with a cause; a frozen one keeps its cause (15 R331). -/
def freeze (s : State) (cause : BitVec 3) : State := if s.sbFrozen then s else { s with sbFrozen := true, sbCause := cause }

/-- A write of SBCTL (15 Table 11): FREEZE, which reads as set until FROZEN is cleared (log 53). -/
def sbctlTo (v : Dword) (s : State) : State := if v.getLsbD 0 then { freeze s 4 with sbFreeze := true } else s
/-- SBCTL_FREEZE (15 R331). -/
def execSbctlFreeze (v : BitVec 64) (s : State) : Host.Outcome State Fault Refusal := .next (sbctlTo v s)

/-- A write of SBSTAT: FROZEN is cleared by a one (15 Table 11). -/
def sbstatTo (v : Dword) (s : State) : State := if v.getLsbD 63 then { s with sbFrozen := false, sbFreeze := false } else s
/-- SBSTAT_UNFREEZE (15 R331). -/
def execSbstatUnfreeze (v : BitVec 64) (s : State) : Host.Outcome State Fault Refusal := .next (sbstatTo v s)

/-- A write of FEATEN (14 R311). -/
def featenTo (v : Dword) (s : State) : State :=
  if s.firstStart then s else { s with featen := (v &&& Config.featCap ||| 1#64).setWidth 11 }
/-- FEATEN_WRITE (14 R311). -/
def execFeatenWrite (v : BitVec 64) (s : State) : Host.Outcome State Fault Refusal := .next (featenTo v s)

/-- PSTAT.STATUS after a request (13 Table 22): LSTAT stays that of the last first launch that was refused (log 46). -/
def pstat (s : State) (status : Nat) : State := { s with psStatus := BitVec.ofNat 3 status }

/-- A value of the start record has no reserved bit set: mask names the bits of the CSR (13 R306). -/
def onlyBits (v mask : Dword) : Bool := v &&& ~~~mask == 0

/-- A start record is malformed (13 R306, Table 23). -/
def startBad (l : List Byte) : Bool :=
  let w := fun k => BitVec.ofNat 64 (leField l (8 * k) 8)
  !(onlyBits (w 0) 0x0000FFFFFFFF8000#64 && onlyBits (w 1) 0x0000FFFFFFFF8000#64 && onlyBits (w 2) 0x0000FFFFFFFF8000#64 &&
    onlyBits (w 3) 0xFFFFFFFFFFFFFFFD#64 && onlyBits (w 4) 0x1F8#64 && onlyBits (w 5) 0xFFFFFFFFFFFFFFFD#64 && onlyBits (w 6) 0x1F8#64 &&
    onlyBits (w 7) 0x0001FFFFFFFFFFFF#64 && onlyBits (w 8) 0x00007FFF00003FFF#64 && onlyBits (w 9) 0x7F#64 &&
    onlyBits (w 10) 0x0000FFFFFFFFFFC0#64 && leField l 120 8 == 0 && evrngOk (w 7) && krngOk (w 8))

/-- The cores that a start record names. -/
def startCores (l : List Byte) : List Nat :=
  let m := leField l 88 32
  (List.range 256).filter fun n => m.testBit n

/-- The per-partition registers that a start record gives (13 R306). -/
def startRegs (s : State) (l : List Byte) : Partition :=
  let w := fun k => BitVec.ofNat 64 (leField l (8 * k) 8)
  { Partition.start with
    s1root := cut (w 0) 15 33, s2root := cut (w 1) 15 33, hroot := cut (w 2) 15 33, stvec := w 3, stwb := cut (w 4) 0 9, htvec := w 5,
    htwb := cut (w 6) 0 9, evN := cut (w 7) 32 17, evLo := cut (w 7) 16 16, evDpn := cut (w 7) 0 16, kN := cut (w 8) 32 15,
    kLo := cut (w 8) 0 14, pinq := cut (w 9) 0 7, feat := s.featen.setWidth 64 }

/-- Steps 1 to 4 of an accepted start (13 R306). -/
def beginPart (s : State) (part : Nat) (l : List Byte) : State :=
  let p := startRegs s l
  let s1 := { s with parts := tabSet s.parts part p,
                     events := storeClear s.events p.evLo.toNat (p.evLo.toNat + p.evN.toNat),
                     keys := s.keys.filter (fun e => decide (e.1 < p.kLo.toNat ∨ p.kLo.toNat + p.kN.toNat ≤ e.1)),
                     pairs := s.pairs.filter (fun q => q.part != part),
                     live := s.live ||| (1#64 <<< part), devLock := true, idLock := true, firstStart := true }
  tlbDrop ((startCores l).foldl (fun s c =>
    s.modCore c fun k => { k with slmap := (k.slmap &&& 0xFFFFFF00#32) ||| BitVec.ofNat 32 (0x80 + part) }) s1) fun e => e.part == part

/-- Step 5 of an accepted start: the first team's launch (13 R306). The record's CORE must be named in CORES; the other core of a pair need not. -/
def firstLaunch (s : State) (part : Nat) (l : List Byte) : State :=
  let lrec := leField l 80 8
  let named := match tableRead s part lrec 320 with
    | some r => (startCores l).contains (byteAt r 2)
    | none => true
  match launch s part lrec with
  | (s1, 0) => if named then pstat s1 0 else { pstat s 4 with psLstat := 2 }
  | (_, n) => { pstat s 4 with psLstat := if !named ∧ 2 < n ∧ n < 6 then 2 else BitVec.ofNat 3 n }

/-- PSTART with OP 1 (13 R306). -/
def partStart (v : Dword) (s : State) : State :=
  let part := (v.extractLsb' 56 6).toNat
  let off := (v.extractLsb' 6 42).toNat * 64
  if s.psPend then s
  else if s.isLive part then pstat s 2
  else if hbmSize s < off + 128 || (poisonIn s 0 off 128).isSome then pstat s 3
  else
    let l := readMem s 0 off 128
    if startBad l then pstat s 1
    else if (startCores l).any fun c => (s.core c).slmap.getLsbD 7 then pstat s 2
    else firstLaunch (beginPart s part l) part l

/-- PARTITION_START (13 R306). -/
def execPartitionStart (v : BitVec 64) (s : State) : Host.Outcome State Fault Refusal := .next (partStart v s)

/-- What an accepted end does (13 R306). -/
def endPart (s : State) (part : Nat) : State :=
  let p := s.part part
  let us := (s.pinned.filter fun e => e.2 == part).map (·.1)
  let s1 := us.foldl (fun s u => { zeroUnit s u with pinned := tabDel s.pinned u }) s
  let s2 := s1.cores.foldl (fun s e => clearSlots s part e.1) s1
  let s3 := { s2 with
    keys := s2.keys.map fun (e : Nat × Key) => if p.kLo.toNat ≤ e.1 ∧ e.1 < p.kLo.toNat + p.kN.toNat then (e.1, { e.2 with v := false }) else e,
    pairs := s2.pairs.filter (fun q => q.part != part),
    cellar := s2.cellar.filter (fun e => !(e.part == part && e.released)),
    cores := s2.cores.map fun (e : Nat × Core) => (e.1, { e.2 with mailbox := e.2.mailbox.filter (fun r => r.1 != part) }),
    clusters := s2.clusters.map fun (e : Nat × Cluster) => (e.1, { e.2 with mailbox := e.2.mailbox.filter (fun r => r.1 != part) }),
    live := s2.live &&& ~~~(1#64 <<< part) }
  pstat (s3.modPart part fun p => { p with tags := [] }) 0

/-- PSTART with OP 2 (13 R306). -/
def partEnd (v : Dword) (s : State) : State :=
  let part := (v.extractLsb' 56 6).toNat
  if s.psPend then s
  else if !s.isLive part then pstat s 1
  else if (s.teams.any fun e => e.2.part == part) ||
      (s.reserves.any fun r => s.images.any fun im => im.team.uid == r.uid && im.part == part) ||
      (s.queues.any fun e => e.2.en && e.2.owner.toNat == part) ||
      (match s.vacate with | some x => x.part == part | none => false) then pstat s 2
  else endPart s part

/-- PARTITION_END (13 R306). -/
def execPartitionEnd (v : BitVec 64) (s : State) : Host.Outcome State Fault Refusal := .next (partEnd v s)

/-- A write of PSTART by its OP (13 R306). -/
def pstartTo (v : Dword) (s : State) : State :=
  if s.psPend then s
  else if cut v 62 2 = 1#2 then partStart v s
  else if cut v 62 2 = 2#2 then partEnd v s
  else if cut v 62 2 = 3#2 then pstat s 1
  else s

/-- THROTTLE_STEP (15 R330): one step down while the condition lasts, one back up once temperature and current are below their limits. -/
def execThrottleStep (s : State) : Host.Outcome State Fault Refusal :=
  let down := s.thrHot || s.thrCur
  let up := decide (s.thrTemp.toNat < 100) && !s.thrCur
  .next (if down && decide (s.thrLvl.toNat < 8) then sbRecord { s with thrLvl := s.thrLvl + 1 } 5 0 0 0 0
    else if !down && up && decide (0 < s.thrLvl.toNat) then sbRecord { s with thrLvl := s.thrLvl - 1 } 5 0 0 0 0
    else s)

/-- THERMAL_TRIP (15 R330). -/
def execThermalTrip (s : State) : Host.Outcome State Fault Refusal :=
  .next (if 115 ≤ s.thrTemp.toNat then { freeze s 3 with inReset := true } else s)

/-- The steps that a start runs (15 Table 10): a warm start skips the self test. -/
def startSteps (warm : Bool) : List Nat := if warm then [1, 3, 4, 5, 6] else [1, 2, 3, 4, 5, 6]

/-- The strongbox records of a start: one of source 6 for each step that has been run, the failing one too (15 R328, R331). -/
def startRecords (s : State) (warm : Bool) (fail : Nat) : State :=
  ((startSteps warm).filter fun i => decide (fail = 0 ∨ i ≤ fail)).foldl (fun s _ => sbRecord s 6 0 0 0 0) s

/-- What a start leaves (15 R328, R329): everything at reset but what is kept; a start that fails before the memory clear has cleared
nothing. A cold start numbers the strongbox's records from 0 again, and the records themselves are cleared by no step. -/
def startFrom (s : State) (warm : Bool) (b : BootInput) (fail : Nat) : State :=
  let r := State.reset
  let cleared := fail = 0 ∨ 6 ≤ fail
  let m : State := { r with
    time := s.time, fresh := s.fresh, turns := s.turns, agenda := s.agenda, sent := s.sent, naks := s.naks, cxl := s.cxl,
    thrTemp := s.thrTemp, starts := s.starts + 1, nextUid := s.nextUid, nextCopy := s.nextCopy, nextXid := s.nextXid,
    poison := s.poison.filter (fun p => p.1 == 3), strongbox := s.strongbox, sbWidx := s.sbWidx, sbFrozen := s.sbFrozen, sbCause := s.sbCause,
    sbDrop := s.sbDrop, devNum := s.devNum, devEccm := s.devEccm, devVatx := s.devVatx, devPinf := s.devPinf, eccMode := s.devEccm,
    bootKind := 2, bootRetrain := !b.storedOk, warms := s.warms + 1,
    bootStep := if fail = 0 then 6 else if fail = 3 then 1 else BitVec.ofNat 3 (fail - 1), bootFail := BitVec.ofNat 8 fail,
    bfail := fail ≠ 0,
    poolSz := if fail = 0 then b.poolSz else 0, cxlUp := fail = 0 ∧ b.poolSz ≠ 0, inReset := fail ≠ 0 }
  let n : State := if warm then m else
    { m with
      sbWidx := 0, sbFrozen := false, sbCause := 0, sbDrop := 0, devNum := r.devNum, devEccm := r.devEccm,
      devVatx := r.devVatx, devPinf := r.devPinf, eccMode := r.eccMode, bootKind := 1, bootRetrain := false, warms := 0,
      bootStep := if fail = 0 then 6 else BitVec.ofNat 3 (fail - 1) }
  let n : State := if cleared then n else
    { n with hbm := s.hbm, win := s.win, vregs := s.vregs, sregs := s.sregs, accs := s.accs, lpddr := s.lpddr, poison := s.poison }
  let n : State := startRecords n warm fail
  if fail = 0 then n else freeze n 1

/-- The conditions of step 4 (15 R328): the hash of the image's key, its security version, its SLH-DSA-SHAKE-256s signature (log 57). -/
def imageOk (b : BootInput) : Bool :=
  leNat (shake256 b.key 32) == b.fusedHash.toNat && decide (b.fusedVersion ≤ b.version) &&
  slhVerify b.key (Config.signedMessage b.key b.version b.image) b.signature

/-- The step at which a start fails: 0 none; the self test is skipped by a warm start, and training by a warm start whose stored parameters
pass (15 Table 10). Step 4 fails by its own conditions too, unless an earlier step has failed. -/
def failStep (warm : Bool) (b : BootInput) : Nat :=
  let n := if 6 < b.failAt ∨ (warm ∧ (b.failAt = 2 ∨ (b.failAt = 1 ∧ b.storedOk))) then 0 else b.failAt
  if !imageOk b && (n == 0 || decide (4 < n)) then 4 else n

/-- COLD_START (15 R328). -/
def execColdStart (b : BootInput) (s : State) : Host.Outcome State Fault Refusal := .next (startFrom s false b (failStep false b))

/-- WARM_START (15 R328, R329): the strongbox freezes first; a device that has tripped waits for a cold start (15 R330). -/
def execWarmStart (b : BootInput) (s : State) : Host.Outcome State Fault Refusal :=
  .next (if s.inReset && s.bootFail == 0 then s else startFrom (freeze s 2) true b (failStep true b))

/-- LINK_CHANGE (15 R325, R327): ports 0 to 17 are UALink, 18 is the CXL port. -/
def execLinkChange (port : Nat) (up : Bool) (s : State) : Host.Outcome State Fault Refusal :=
  .next (if port < 18 then
      (if s.portUp.getLsbD port == up then s
       else sbRecord { s with portUp := if up then s.portUp ||| (1#18 <<< port) else s.portUp &&& ~~~(1#18 <<< port) } 4 0 port 0 0)
    else if port = 18 then (if s.cxlUp == up then s else sbRecord { s with cxlUp := up } 4 0 port 0 0)
    else s)

/-- The network region with a key (15 R324): its number. -/
def regionKey (s : State) (rkey : BitVec 32) : Option Nat :=
  (List.range 64).find? fun r => (storeGet s.nrctl r).getLsbD 63 && cut (storeGet s.nrctl r) 0 32 == rkey

/-- Whether every page of a range may be written for a partition (15 R324). -/
def pagesOk (s : State) (part kind off n : Nat) : Bool :=
  (piecesOf (mkVa s.devNum.toNat kind off) n).all fun e =>
    match translate s 384 part false .s .store kind (vaOff e.1) with
    | .ok _ => true
    | .error _ => false

/-- A message is answered with a remote access error NAK (15 R323). -/
def nak (s : State) : State := { s with naks := s.naks + 1 }

/-- A write that reaches the doorbell aperture (11 R239, R241): a wake where it is one aligned write of 64 bytes. -/
def doorbell (s : State) (off : Nat) (l : List Byte) : Host.Outcome State Fault Refusal :=
  execWake ⟨off / 64, off % 64 == 0 && l.length == 64, l⟩ s

/-- RDMA_WRITE (15 R324): checked whole, then written or refused. A message of no bytes to a doorbell is FORM (11 R241); at the end of the
aperture it names none. -/
def execRdmaWrite (m : RdmaMsg) (s : State) : Host.Outcome State Fault Refusal :=
  match regionKey s m.rkey with
  | none => .next (nak s)
  | some r =>
    let c := storeGet s.nrctl r
    let b := storeGet s.nrbase r
    let n := m.data.length
    if c.getLsbD 62 then
      (let kind := (cut c 59 3).toNat
       let part := (cut c 48 6).toNat
       let base := (cut b 16 32).toNat * 65536 + m.off
       if (cut b 48 16).toNat * 65536 < m.off + n || !(kind == 0 || kind == 2) || !pagesOk s part kind base n then .next (nak s)
       else .next (unitWrite s part false .s (mkVa s.devNum.toNat kind base) m.data).1)
    else if 8192 < m.off + n then .next (nak s)
    else if 8192 ≤ m.off then .next s
    else doorbell s m.off m.data

/-- ROCE_REFUSED_OPERATION (15 R323). -/
def execRoceRefusedOperation (_m : RdmaMsg) (s : State) : Host.Outcome State Fault Refusal := .next (nak s)

/-- The registers of the housekeeping block (15 Table 2). -/
def hkRead (s : State) (off : Nat) : Dword :=
  if off = 0x0000 then flagAt s.idLock 63 ||| fieldAt s.portUp 14 ||| fieldAt s.devNum 0
  else if off = 0x0008 then
    fieldAt s.bootKind 62 ||| flagAt s.bootRetrain 61 ||| fieldAt s.bootStep 58 ||| fieldAt s.bootFail 48 ||| fieldAt s.poolSz 40 |||
    fieldAt s.warms 0
  else if off = 0x0010 then flagAt s.warmReq 0
  else if off = 0x0018 then fieldAt s.thrLvl 60 ||| flagAt s.thrCur 59 ||| flagAt s.thrHot 58 ||| fieldAt s.thrTemp 0
  else if off = 0x0040 then
    flagAt s.devLock 31 ||| flagAt s.devBadw 30 ||| fieldAt s.devEccm 10 ||| fieldAt s.devVatx 8 ||| fieldAt s.devPinf 6 |||
    fieldAt s.devPact 4 ||| fieldAt s.devProf 0
  else if off = 0x0048 then Config.featCap
  else if off = 0x0050 then fieldAt s.featen 0
  else if 0x0060 ≤ off ∧ off < 0x0088 then
    fieldAt (storeGet s.eccUe ((off - 0x0060) / 8)) 32 ||| fieldAt (storeGet s.eccCe ((off - 0x0060) / 8)) 0
  else if off = 0x00A0 then flagAt s.sbFrozen 63 ||| fieldAt s.sbCause 60 ||| fieldAt s.sbDrop 32 ||| fieldAt s.sbWidx 0
  else if off = 0x00A8 then flagAt s.sbFreeze 0
  else if off = 0x0108 then flagAt s.psPend 63 ||| fieldAt s.psLstat 3 ||| fieldAt s.psStatus 0
  else if off = 0x0110 then s.live
  else 0

/-- ECCLR (15 Table 9). -/
def ecclrTo (v : Dword) (s : State) : State :=
  (List.range 5).foldl (fun s d =>
    if v.getLsbD d then { s with eccUe := storeSet s.eccUe d 0, eccCe := storeSet s.eccCe d 0 } else s) s

/-- A write to the housekeeping block (15 Table 2). -/
def hkWrite (off : Nat) (v : Dword) (s : State) : State :=
  if off = 0x0000 then (if s.idLock then s else { s with devNum := cut v 0 13 })
  else if off = 0x0010 then { s with warmReq := s.warmReq || v.getLsbD 0 }
  else if off = 0x0040 then devmodeTo (v &&& 0xFFFFFFFF#64) s
  else if off = 0x0050 then featenTo v s
  else if off = 0x0088 then ecclrTo v s
  else if off = 0x00A0 then sbstatTo v s
  else if off = 0x00A8 then sbctlTo v s
  else if off = 0x0100 then pstartTo v s
  else s

/-- QSCHED (13 Table 20). -/
def qschedOf (x : Queue) : Dword := flagAt x.throt 63 ||| flagAt x.ovrf 62 ||| fieldAt x.period 20 ||| fieldAt x.budget 0

/-- The registers of the queue block (11 R236, R252, Table 7, 13 R303, 15 Table 4). -/
def qbRead (s : State) (off : Nat) : Dword :=
  if off < 0x2000 then
    let x := s.queue (off / 0x40)
    let r := off % 0x40
    if r = 0x00 then flagAt x.en 63 ||| flagAt x.stop 62 ||| flagAt x.run 61 ||| flagAt x.haltReq 60 ||| fieldAt x.evr 57 ||| fieldAt x.owner 48 ||| fieldAt x.nonce 0
    else if r = 0x08 then qbaseOf x
    else if r = 0x10 then x.rptr
    else if r = 0x18 then x.wptr
    else if r = 0x20 then fieldAt x.code 56 ||| fieldAt x.level 53 ||| flagAt x.lost 52
    else if r = 0x28 then x.epos
    else if r = 0x30 then qschedOf x
    else fieldAt x.why 60 ||| fieldAt x.rejCount 0
  else if off < 0x2080 then
    let x := s.ring ((off - 0x2000) / 0x10)
    if off % 0x10 = 0 then flagAt x.en 63 ||| fieldAt x.logn 59 ||| fieldAt x.base 0 else flagAt x.fault 63 ||| fieldAt x.lost 0
  else if off = 0x2118 then sealOf s ((List.range 3).flatMap fun k => leBytes 8 (storeGet s.mintIn k).toNat)
  else if off = 0x2180 then flagAt s.edf 0
  else if 0x3000 ≤ off ∧ off < 0x3400 then
    (if off % 0x10 = 0 then storeGet s.nrctl ((off - 0x3000) / 0x10) else storeGet s.nrbase ((off - 0x3000) / 0x10))
  else 0

/-- A write to one of a queue's registers (11 R236). -/
def queueRegWrite (q r : Nat) (v : Dword) (s : State) : State :=
  if r = 0x00 then qctlWrite q v s
  else if r = 0x08 then
    (let kind : BitVec 3 := cut v 61 3
     let logw : BitVec 5 := cut v 56 5
     if (s.queue q).en || !(kind == 0#3 || kind == 2#3) || decide (logw.toNat < 10 ∨ 24 < logw.toNat) then s
     else s.modQueue q fun x => { x with kind := kind, logw := logw, base := cut v 6 42 ++ 0#6 })
  else if r = 0x10 then (if (s.queue q).stop then s.modQueue q fun x => { x with rptr := v } else s)
  else if r = 0x30 then
    (overrun s q).modQueue q fun x => { x with ovrf := x.ovrf && !v.getLsbD 62, period := cut v 20 20, budget := cut v 0 20 }
  else s

/-- QPMODE (13 R303): periods run from where EDF becomes 1; a budget spent before EDF becomes 0 is an overrun first (13 R304). -/
def qpmodeTo (v : Dword) (s : State) : State :=
  if v.getLsbD 0 && !s.edf then
    { s with edf := true, queues := s.queues.map fun e => (e.1, { e.2 with periodStart := s.time, periodIdx := 0, used := 0, throt := false }) }
  else if v.getLsbD 0 then s
  else { s.queues.foldl (fun s e => overrun s e.1) s with edf := false }

/-- EVRCFGn and EVRSTATn (11 Table 11). -/
def evrWrite (n : Nat) (cfg : Bool) (v : Dword) (s : State) : State :=
  if cfg then
    (if (cut v 59 4).toNat < 4 then s
     else s.modRing n fun x => { x with en := v.getLsbD 63, logn := cut v 59 4, base := cut v 6 42 ++ 0#6 })
  else s.modRing n fun x => { x with fault := x.fault && !v.getLsbD 63 }

/-- A write to the queue block. -/
def qbWrite (off : Nat) (v : Dword) (s : State) : State :=
  if off % 8 ≠ 0 then s
  else if off < 0x2000 then queueRegWrite (off / 0x40) (off % 0x40) v s
  else if off < 0x2080 then evrWrite ((off - 0x2000) / 0x10) (off % 0x10 == 0) v s
  else if 0x2100 ≤ off ∧ off < 0x2118 then { s with mintIn := storeSet s.mintIn ((off - 0x2100) / 8) v }
  else if off = 0x2180 then qpmodeTo v s
  else if 0x3000 ≤ off ∧ off < 0x3400 then
    (if off % 0x10 = 0 then { s with nrctl := storeSet s.nrctl ((off - 0x3000) / 0x10) (v &&& 0xF83F0000FFFFFFFF#64) }
     else { s with nrbase := storeSet s.nrbase ((off - 0x3000) / 0x10) (v &&& 0xFFFFFFFFFFFF0000#64) })
  else s

/-- REGISTER_WRITE (00 R6): a CSR of the group in turn, a debug CSR of a resident group (15 R321), or a hub register. -/
def execRegisterWrite (r : RegTarget) (v : BitVec 64) (s : State) : Host.Outcome State Fault Refusal :=
  match r with
  | .csr n =>
    csrUnit n.toNat (fun s id g =>
      match (if n = 0x004#11 then wbFail g v else none) with
      | some e => raiseAll s id g .win e
      | none => (csrWrite n.toNat v s id g).1) s
  | .debug u n => .next (if 0x600 ≤ n.toNat then debugWrite n.toNat v s u else s)
  | .housekeeping off => .next (hkWrite off v s)
  | .queueBlock off => .next (qbWrite off v s)

/-- The host complex's interrupt sources (15 R322). -/
def hostInterrupt (s : State) (n : Nat) : Bool :=
  if 1 ≤ n ∧ n ≤ 8 then (let (w, i) := ringIdx s (n - 1); w != i) || (s.ring (n - 1)).fault
  else if n = 9 then s.thrLvl != 0
  else if n = 10 then s.sbFrozen
  else if n = 11 then !s.eccUe.isEmpty
  else false

/-- The blocks of the host physical map (15 Table 1). -/
inductive HostBlock
  | housekeeping | queues | strongbox | doorbells | debug | lpddr | device | pool | none
  deriving DecidableEq, Repr

/-- The block of an address, and the offset in it (15 Table 1). -/
def hostBlock (s : State) (a : Nat) : HostBlock × Nat :=
  if 0x100000 ≤ a ∧ a < 0x110000 then (.housekeeping, a - 0x100000)
  else if 0x200000 ≤ a ∧ a < 0x210000 then (.queues, a - 0x200000)
  else if 0x300000 ≤ a ∧ a < 0x320000 then (.strongbox, a - 0x300000)
  else if 0x400000 ≤ a ∧ a < 0x402000 then (.doorbells, a - 0x400000)
  else if 0x100000000 ≤ a ∧ a < 0x104000000 then (.debug, a - 0x100000000)
  else if 0x1000000000 ≤ a ∧ a < 0x2000000000 then (.lpddr, a - 0x1000000000)
  else if 0x10000000000 ≤ a ∧ a < 0x10000000000 + 576 * 2 ^ 30 then (.device, a - 0x10000000000)
  else if 0x20000000000 ≤ a ∧ a < 0x20000000000 + poolSize s then (.pool, a - 0x20000000000)
  else (.none, 0)

/-- The modes that may reach a block (15 R320). -/
def hostMay (b : HostBlock) (a : HostAccess) : Bool :=
  match b with
  | .housekeeping | .strongbox | .debug => a.mmode
  | .queues | .doorbells => a.mmode || a.hsmode
  | .lpddr | .device | .pool => true
  | .none => false

/-- The bytes of a control block as a load reads them: the registers of eight bytes, and the strongbox's records. -/
def blockByte (s : State) (b : HostBlock) (off : Nat) : Byte :=
  let w := off / 8 * 8
  let v : Dword := match b with
    | .housekeeping => hkRead s w
    | .queues => qbRead s w
    | .debug => (match s.group? (off / 0x1000) with
      | some g => debugRead g (0x600 + w % 0x1000 / 8)
      | none => 0)
    | .strongbox => (storeGet s.strongbox (off / 32)).extractLsb' (64 * (off / 8 % 4)) 64
    | _ => 0
  v.extractLsb' (8 * (off % 8)) 8

/-- A store to a control block: a register takes an aligned store of its whole width, DEVMODE of 4 bytes or of 8 (01 R17, log 25). -/
def blockStore (s : State) (b : HostBlock) (off : Nat) (l : List Byte) : Host.Outcome State Fault Refusal :=
  let v := BitVec.ofNat 64 (leNat l)
  match b with
  | .doorbells => doorbell s off l
  | .housekeeping => .next (if (off % 8 = 0 ∧ l.length = 8) ∨ (off = 0x0040 ∧ l.length = 4) then hkWrite off v s else s)
  | .queues => .next (if off % 8 = 0 ∧ l.length = 8 then qbWrite off v s else s)
  | .debug => .next (if off % 8 = 0 ∧ l.length = 8 then debugWrite (0x600 + off % 0x1000 / 8) v s (off / 0x1000) else s)
  | _ => .next s

/-- An answer to the host complex. -/
def hostAnswer (s : State) (x : Sent) : Host.Outcome State Fault Refusal := .next { s with sent := s.sent ++ [x] }

/-- An access of the host complex to memory, without translation (15 R320). -/
def hostMemory (s : State) (kind off : Nat) (k : AccessKind) : Host.Outcome State Fault Refusal :=
  match placeAccess s .host 0 ⟨kind, off, false⟩ k with
  | (s1, some (.ok l)) => if l.isEmpty then .next s1 else hostAnswer s1 (.hostReply l)
  | (s1, some (.error _)) => hostAnswer s1 .hostPoison
  | (s1, none) => .next s1

/-- An access of the host complex to device memory: beyond the capacity of the ECC mode in effect it reads zero and ignores writes (15 R320,
01 Table 8). -/
def hostDevice (s : State) (off : Nat) (k : AccessKind) : Host.Outcome State Fault Refusal :=
  let m := hbmSize s - off
  if kindBytes k ≤ m then hostMemory s 0 off k
  else match k with
    | .read n =>
      (match placeAccess s .host 0 ⟨0, off, false⟩ (.read m) with
       | (s1, some (.ok l)) => hostAnswer s1 (.hostReply (l ++ List.replicate (n - m) 0))
       | (s1, some (.error _)) => hostAnswer s1 .hostPoison
       | (s1, none) => .next s1)
    | .write l => if m = 0 then .next s else hostMemory s 0 off (.write (l.take m))
    | .atomic .. => hostAnswer s (.hostReply (List.replicate (kindBytes k) 0))

/-- HOST_MEMORY_ACCESS (15 R320). -/
def execHostMemoryAccess (a : HostAccess) (s : State) : Host.Outcome State Fault Refusal :=
  let (b, off) := hostBlock s a.addr
  if !hostMay b a || (hostBlock s (a.addr + (kindBytes a.kind - 1))).1 != b then hostAnswer s .hostFault
  else match b with
    | .lpddr => hostMemory s 2 off a.kind
    | .device => hostDevice s off a.kind
    | .pool => hostMemory s 3 off a.kind
    | _ =>
      match a.kind with
      | .read n => hostAnswer s (.hostReply ((List.range n).map fun i => blockByte s b (off + i)))
      | .write l => blockStore s b off l
      | .atomic .. => hostAnswer s .hostFault

end Sys2Proof.Machine
end

