-- ==== Sys2Proof/Machine/Lane.lean ====
section
/-! DEFINITION. The lane and mask instructions (07 R135, R158 to R163). -/
namespace Sys2Proof.Machine

/-- The lane that SHFL reads (07 R158). -/
def shflLane (mode : BitVec 3) (w lane c : Nat) : Nat :=
  let n : Int := if mode = 0#3 then (c : Int) else if mode = 1#3 then (lane : Int) - c
    else if mode = 2#3 then (lane : Int) + c else ((lane ^^^ c : Nat) : Int)
  if 0 ≤ n ∧ n < w then n.toNat else lane

/-- SHFL (07 R158). -/
def execShfl (d a b : BitVec 7) (f : BitVec 4) (s : State) : Host.Outcome State Fault Refusal :=
  issue (.shfl d a b f) s fun s id g =>
    let n := codeWid (f.getLsbD 3)
    perLane (dstOpnd d n) (fun s id g l =>
      let c := ((src32 s id g g.pre (srcOpnd .b b 1) l).extractLsb' 0 6).toNat
      srcOf s id g g.pre (srcOpnd .a a n) (shflLane (f.extractLsb' 0 3) g.width l c)) s id g

/-- VOTE (07 R159). -/
def execVote (d a : BitVec 7) (f : BitVec 4) (s : State) : Host.Outcome State Fault Refusal :=
  issue (.vote d a f) s (maskWriter d fun s id g l =>
    let x := src64 s id g g.pre (srcOpnd .a a (codeWid (f == 2#4))) l
    if f = 0#4 then x.setWidth 32 != 0#32 else if f = 1#4 then x.getLsbD 0 else if f = 2#4 then x != 0 else x.getLsbD 31)

/-- The identity of RDCE and SCAN (07 Table 15). -/
def redIdentity (f : BitVec 4) : Word :=
  if f = 1#4 then 0x7FFFFFFF#32 else if f = 2#4 then 0x80000000#32 else if f = 3#4 ∨ f = 5#4 then 0xFFFFFFFF#32
  else if f = 8#4 then 0x80000000#32 else if f = 9#4 ∨ f = 10#4 then 0x7FC00000#32 else 0

/-- One combination of RDCE and SCAN, with its flags (07 R160). -/
def redOp (f : BitVec 4) (g : Group) (x y : Word) : Word × Flagset :=
  if f = 0#4 then (x + y, 0)
  else if f = 1#4 then (if x.slt y then x else y, 0) else if f = 2#4 then (if x.slt y then y else x, 0)
  else if f = 3#4 then (if x.ult y then x else y, 0) else if f = 4#4 then (if x.ult y then y else x, 0)
  else if f = 5#4 then (x &&& y, 0) else if f = 6#4 then (x ||| y, 0) else if f = 7#4 then (x ^^^ y, 0)
  else if f = 8#4 then
    let (b, fl) := roundWith fp32 g 0 false 0 (addV (fpIn g x) (fpIn g y))
    (BitVec.ofNat 32 b, fl)
  else
    let (b, fl) := minMax fp32 (f == 9#4) true (ftzOf g) x.toNat y.toNat
    (BitVec.ofNat 32 b, fl)

/-- One level of the tree: adjacent pairs combined. -/
def redPairs (f : BitVec 4) (g : Group) : List (Word × Flagset) → List (Word × Flagset)
  | x :: y :: r =>
    let (v, fl) := redOp f g x.1 y.1
    (v, x.2 ||| y.2 ||| fl) :: redPairs f g r
  | l => l

/-- The reduction of 64 leaves over six levels (07 R160). -/
def reduce (f : BitVec 4) (g : Group) (leaves : List Word) : Word × Flagset :=
  let l := leaves.map fun v => (v, (0 : Flagset))
  let p := redPairs f g
  ((p (p (p (p (p (p l)))))).head?).getD (redIdentity f, 0)

/-- RDCE (07 R160). -/
def execRdce (d a : BitVec 7) (f : BitVec 4) (s : State) : Host.Outcome State Fault Refusal :=
  issue (.rdce d a f) s fun s id g =>
    let leaves := (List.range 64).map fun l =>
      if g.active.contains l then src32 s id g g.pre (srcOpnd .a a 1) l else redIdentity f
    let r := reduce f g leaves
    fpIssue false (fun _ _ _ _ _ => (r.1.setWidth 128, r.2)) (fpWrite (dstOpnd d 1)) s id g

/-- The running values of SCAN: lane, value, flags so far (07 R160). -/
def scanList (f : BitVec 4) (g : Group) : List (Nat × Word) → Word × Flagset → List (Nat × Word × Flagset)
  | [], _ => []
  | (l, x) :: r, acc =>
    let (v, fl) := redOp f g acc.1 x
    (l, v, acc.2 ||| fl) :: scanList f g r (v, acc.2 ||| fl)

/-- SCAN (07 R160). -/
def execScan (d a : BitVec 7) (f : BitVec 4) (s : State) : Host.Outcome State Fault Refusal :=
  issue (.scan d a f) s fun s id g =>
    let rs := scanList f g (g.active.map fun l => (l, src32 s id g g.pre (srcOpnd .a a 1) l)) (redIdentity f, 0)
    fpIssue false (fun _ _ _ _ l =>
        match rs.find? (fun e => e.1 == l) with
        | some e => (e.2.1.setWidth 128, e.2.2)
        | none => (0, 0))
      (fpWrite (dstOpnd d 1)) s id g

/-- The value of KOP fn 8: Src64 of a scalar, z or the constant (07 R161). -/
def kopFrom (s : State) (g : Group) (a : BitVec 7) : Dword :=
  if a = 115#7 then (match g.preLit with | some l => litValue64 l | none => 0) else scalarOf s g a 1

/-- The mask that KOP writes (07 Table 16). -/
def kopValue (s : State) (g : Group) (a b : BitVec 7) (f : BitVec 4) : Dword :=
  let x := g.kreg a.toNat
  let y := g.kreg b.toNat
  if f = 0#4 then x &&& y else if f = 1#4 then x ||| y else if f = 2#4 then x ^^^ y else if f = 3#4 then x &&& ~~~y
  else if f = 4#4 then ~~~x else if f = 5#4 then x else if f = 6#4 then fullMask 64 else if f = 7#4 then 0
  else kopFrom s g a

/-- KOP (07 R161). -/
def execKop (d a b : BitVec 7) (f : BitVec 4) (s : State) : Host.Outcome State Fault Refusal :=
  issue (.kop d a b f) s fun s id g => retire (s.modGroup id fun x => x.setK d.toNat (kopValue s g a b f)) id

/-- KEM.RD (07 Table 2). -/
def execKemRd (d : BitVec 7) (s : State) : Host.Outcome State Fault Refusal :=
  issue (.kemRd d) s fun s id g => retire (s.modGroup id fun x => x.setK d.toNat g.em) id

/-- KEM.SET (07 Table 2). -/
def execKemSet (a : BitVec 7) (s : State) : Host.Outcome State Fault Refusal :=
  issue (.kemSet a) s fun s id g => retire (s.modGroup id fun x => x.setEm (g.kreg a.toNat)) id

/-- KEM.AND (07 Table 2). -/
def execKemAnd (a : BitVec 7) (s : State) : Host.Outcome State Fault Refusal :=
  issue (.kemAnd a) s fun s id g => retire (s.modGroup id fun x => x.setEm (g.em &&& g.kreg a.toNat)) id

/-- KEM.ANDN (07 Table 2). -/
def execKemAndn (a : BitVec 7) (s : State) : Host.Outcome State Fault Refusal :=
  issue (.kemAndn a) s fun s id g => retire (s.modGroup id fun x => x.setEm (g.em &&& ~~~(g.kreg a.toNat))) id

/-- KEM.SWAP (07 Table 2). -/
def execKemSwap (d a : BitVec 7) (s : State) : Host.Outcome State Fault Refusal :=
  issue (.kemSwap d a) s fun s id g =>
    retire (s.modGroup id fun x => (x.setEm (g.kreg a.toNat)).setK d.toNat g.em) id

/-- The set bits of a mask, ascending. -/
def maskBits (m : Dword) : List Nat := (List.range 64).filter (bitOf m)

/-- The value of KCNT in a lane (07 R162). -/
def kcntValue (f : BitVec 4) (m : Dword) (lane : Nat) : BitVec 128 :=
  let l := maskBits m
  if f = 0#4 then BitVec.ofNat 128 l.length
  else if f = 1#4 then BitVec.ofNat 128 (l.head?.getD 64)
  else if f = 2#4 then BitVec.ofNat 128 (l.getLast?.getD 64)
  else if f = 3#4 then m.setWidth 128
  else BitVec.ofNat 128 (l.filter (· < lane)).length

/-- KCNT (07 R162). -/
def execKcnt (d a : BitVec 7) (f : BitVec 4) (s : State) : Host.Outcome State Fault Refusal :=
  issue (.kcnt d a f) s (perLane (dstOpnd d (codeWid (f == 3#4))) fun _ _ g l => kcntValue f (g.kreg a.toNat) l)

/-- BCST (07 R163): the value of a in the lane that b of the lowest active lane names, zero beyond W. -/
def execBcst (d a b : BitVec 7) (f : BitVec 1) (s : State) : Host.Outcome State Fault Refusal :=
  issue (.bcst d a b f) s fun s id g =>
    let n := codeWid (f == 1#1)
    let c := match g.lowest with
      | some l => ((src32 s id g g.pre (srcOpnd .b b 1) l).extractLsb' 0 6).toNat
      | none => 0
    perLane (dstOpnd d n) (fun s id g _ =>
      if c < g.width then srcOf s id g g.pre (srcOpnd .a a n) c else 0) s id g

end Sys2Proof.Machine
end

