-- ==== Sys2Proof/Machine/Dispatch.lean ====
section
/-! DEFINITION. The meaning of every instruction: one arm per constructor. -/
namespace Sys2Proof.Machine

/-- The effect of an instruction. -/
def exec (i : Instr) (s : State) : Host.Outcome State Fault Refusal :=
  match i with
  | .lit p => Sys2Proof.Machine.execLit p s
  | .ix e d f a g b => Sys2Proof.Machine.execIx e d f a g b s
  | .bra h p => Sys2Proof.Machine.execBra h p s
  | .brany k h p => Sys2Proof.Machine.execBrany k h p s
  | .brall k h p => Sys2Proof.Machine.execBrall k h p s
  | .brnone k h p => Sys2Proof.Machine.execBrnone k h p s
  | .call h p => Sys2Proof.Machine.execCall h p s
  | .jmpr d a => Sys2Proof.Machine.execJmpr d a s
  | .ret a => Sys2Proof.Machine.execRet a s
  | .winb a imm => Sys2Proof.Machine.execWinb a imm s
  | .sysc d c => Sys2Proof.Machine.execSysc d c s
  | .hcall d c => Sys2Proof.Machine.execHcall d c s
  | .trap d c => Sys2Proof.Machine.execTrap d c s
  | .csrr d c => Sys2Proof.Machine.execCsrr d c s
  | .csrw d c a => Sys2Proof.Machine.execCsrw d c a s
  | .publ d a b => Sys2Proof.Machine.execPubl d a b s
  | .iadd d a b f => Sys2Proof.Machine.execIadd d a b f s
  | .isub d a b f => Sys2Proof.Machine.execIsub d a b f s
  | .imul d a b f => Sys2Proof.Machine.execImul d a b f s
  | .imulh d a b f => Sys2Proof.Machine.execImulh d a b f s
  | .imad d a b f => Sys2Proof.Machine.execImad d a b f s
  | .idiv d a b l => Sys2Proof.Machine.execIdiv d a b l s
  | .irem d a b l => Sys2Proof.Machine.execIrem d a b l s
  | .imnx d a b m t => Sys2Proof.Machine.execImnx d a b m t s
  | .and d a b f => Sys2Proof.Machine.execAnd d a b f s
  | .or d a b f => Sys2Proof.Machine.execOr d a b f s
  | .xor d a b f => Sys2Proof.Machine.execXor d a b f s
  | .andn d a b f => Sys2Proof.Machine.execAndn d a b f s
  | .shl d a b f => Sys2Proof.Machine.execShl d a b f s
  | .shr d a b f => Sys2Proof.Machine.execShr d a b f s
  | .sra d a b f => Sys2Proof.Machine.execSra d a b f s
  | .rot d a b f => Sys2Proof.Machine.execRot d a b f s
  | .bits d a f => Sys2Proof.Machine.execBits d a f s
  | .bfx d a b f => Sys2Proof.Machine.execBfx d a b f s
  | .bfi d a b => Sys2Proof.Machine.execBfi d a b s
  | .icmp d a b t c => Sys2Proof.Machine.execIcmp d a b t c s
  | .sel d a b k => Sys2Proof.Machine.execSel d a b k s
  | .mov d a f => Sys2Proof.Machine.execMov d a f s
  | .iaddi d a imm => Sys2Proof.Machine.execIaddi d a imm s
  | .andi d a imm => Sys2Proof.Machine.execAndi d a imm s
  | .ori d a imm => Sys2Proof.Machine.execOri d a imm s
  | .xori d a imm => Sys2Proof.Machine.execXori d a imm s
  | .shfti d a o w c => Sys2Proof.Machine.execShfti d a o w c s
  | .icmpi d a c v => Sys2Proof.Machine.execIcmpi d a c v s
  | .movi d imm => Sys2Proof.Machine.execMovi d imm s
  | .abset n a h imm => Sys2Proof.Machine.execAbset n a h imm s
  | .aadd d a b e sz => Sys2Proof.Machine.execAadd d a b e sz s
  | .i64 d a b f => Sys2Proof.Machine.execI64 d a b f s
  | .fadd d a b r => Sys2Proof.Machine.execFadd d a b r s
  | .fsub d a b r => Sys2Proof.Machine.execFsub d a b r s
  | .fmul d a b r => Sys2Proof.Machine.execFmul d a b r s
  | .ffma d a b r => Sys2Proof.Machine.execFfma d a b r s
  | .fmin d a b f => Sys2Proof.Machine.execFmin d a b f s
  | .fmax d a b f => Sys2Proof.Machine.execFmax d a b f s
  | .fcmp d a b c => Sys2Proof.Machine.execFcmp d a b c s
  | .fsgn d a b f => Sys2Proof.Machine.execFsgn d a b f s
  | .frcp d a l => Sys2Proof.Machine.execFrcp d a l s
  | .frsq d a l => Sys2Proof.Machine.execFrsq d a l s
  | .fexp2 d a l => Sys2Proof.Machine.execFexp2 d a l s
  | .flog2 d a l => Sys2Proof.Machine.execFlog2 d a l s
  | .fsin d a l => Sys2Proof.Machine.execFsin d a l s
  | .fcos d a l => Sys2Proof.Machine.execFcos d a l s
  | .ftanh d a l => Sys2Proof.Machine.execFtanh d a l s
  | .fcvt d a sz t n j r => Sys2Proof.Machine.execFcvt d a sz t n j r s
  | .fcvts d a b t r => Sys2Proof.Machine.execFcvts d a b t r s
  | .hadd2 d a b f r => Sys2Proof.Machine.execHadd2 d a b f r s
  | .hmul2 d a b f r => Sys2Proof.Machine.execHmul2 d a b f r s
  | .hfma2 d a b f r => Sys2Proof.Machine.execHfma2 d a b f r s
  | .dot4 d a b f => Sys2Proof.Machine.execDot4 d a b f s
  | .fscl d a b r => Sys2Proof.Machine.execFscl d a b r s
  | .frnd d a f => Sys2Proof.Machine.execFrnd d a f s
  | .fic d a f => Sys2Proof.Machine.execFic d a f s
  | .shfl d a b f => Sys2Proof.Machine.execShfl d a b f s
  | .vote d a f => Sys2Proof.Machine.execVote d a f s
  | .rdce d a f => Sys2Proof.Machine.execRdce d a f s
  | .scan d a f => Sys2Proof.Machine.execScan d a f s
  | .kop d a b f => Sys2Proof.Machine.execKop d a b f s
  | .kemRd d => Sys2Proof.Machine.execKemRd d s
  | .kemSet a => Sys2Proof.Machine.execKemSet a s
  | .kemAnd a => Sys2Proof.Machine.execKemAnd a s
  | .kemAndn a => Sys2Proof.Machine.execKemAndn a s
  | .kemSwap d a => Sys2Proof.Machine.execKemSwap d a s
  | .kcnt d a f => Sys2Proof.Machine.execKcnt d a f s
  | .bcst d a b f => Sys2Proof.Machine.execBcst d a b f s
  | .ld d a n sz h l => Sys2Proof.Machine.execLd d a n sz h l s
  | .st d a n sz h => Sys2Proof.Machine.execSt d a n sz h s
  | .lds d a n sz h l => Sys2Proof.Machine.execLds d a n sz h l s
  | .sts d a n sz h => Sys2Proof.Machine.execSts d a n sz h s
  | .ldx d a o sz n => Sys2Proof.Machine.execLdx d a o sz n s
  | .stx d a o sz n => Sys2Proof.Machine.execStx d a o sz n s
  | .waitl d a o sz n => Sys2Proof.Machine.execWaitl d a o sz n s
  | .prefL1 a n h => Sys2Proof.Machine.execPrefL1 a n h s
  | .prefL2 a n h => Sys2Proof.Machine.execPrefL2 a n h s
  | .atadd d a b n w => Sys2Proof.Machine.execAtadd d a b n w s
  | .atsmin d a b n w => Sys2Proof.Machine.execAtsmin d a b n w s
  | .atsmax d a b n w => Sys2Proof.Machine.execAtsmax d a b n w s
  | .atnmin d a b n w => Sys2Proof.Machine.execAtnmin d a b n w s
  | .atnmax d a b n w => Sys2Proof.Machine.execAtnmax d a b n w s
  | .atand d a b n w => Sys2Proof.Machine.execAtand d a b n w s
  | .ator d a b n w => Sys2Proof.Machine.execAtor d a b n w s
  | .atxor d a b n w => Sys2Proof.Machine.execAtxor d a b n w s
  | .atxch d a b n w => Sys2Proof.Machine.execAtxch d a b n w s
  | .atcas d a b n w => Sys2Proof.Machine.execAtcas d a b n w s
  | .atfadd d a b n => Sys2Proof.Machine.execAtfadd d a b n s
  | .atbadd2 d a b n => Sys2Proof.Machine.execAtbadd2 d a b n s
  | .kacq d a imm => Sys2Proof.Machine.execKacq d a imm s
  | .krel d a imm => Sys2Proof.Machine.execKrel d a imm s
  | .fence o => Sys2Proof.Machine.execFence o s
  | .fencePubb a o n => Sys2Proof.Machine.execFencePubb a o n s
  | .bar d v n => Sys2Proof.Machine.execBar d v n s
  | .xcp d sz => Sys2Proof.Machine.execXcp d sz s
  | .xcpd d a => Sys2Proof.Machine.execXcpd d a s
  | .yieldc k h p => Sys2Proof.Machine.execYieldc k h p s
  | .spop d r => Sys2Proof.Machine.execSpop d r s
  | .spopOpen d r => Sys2Proof.Machine.execSpopOpen d r s
  | .srel d r b => Sys2Proof.Machine.execSrel d r b s
  | .srelFree d r b => Sys2Proof.Machine.execSrelFree d r b s
  | .mbrd sz => Sys2Proof.Machine.execMbrd sz s
  | .mbrdTry sz => Sys2Proof.Machine.execMbrdTry sz s
  | .jpost d sz b => Sys2Proof.Machine.execJpost d sz b s
  | .evsig d a b => Sys2Proof.Machine.execEvsig d a b s
  | .evsigSet d a b => Sys2Proof.Machine.execEvsigSet d a b s
  | .evsigRd d a => Sys2Proof.Machine.execEvsigRd d a s
  | .taga d a b => Sys2Proof.Machine.execTaga d a b s
  | .tagf d a => Sys2Proof.Machine.execTagf d a s
  | .meet d a b => Sys2Proof.Machine.execMeet d a b s
  | .ttrdy d a => Sys2Proof.Machine.execTtrdy d a s
  | .tileTld t a n => Sys2Proof.Machine.execTileTld t a n s
  | .tileTst t a n => Sys2Proof.Machine.execTileTst t a n s
  | .mma d a b f => Sys2Proof.Machine.execMma d a b f s
  | .mjob d a b => Sys2Proof.Machine.execMjob d a b s
  | .mjobWait d => Sys2Proof.Machine.execMjobWait d s
  | .mjobCancel d => Sys2Proof.Machine.execMjobCancel d s
  | .accZero d => Sys2Proof.Machine.execAccZero d s
  | .accDrain d a n => Sys2Proof.Machine.execAccDrain d a n s
  | .accCvt d a n => Sys2Proof.Machine.execAccCvt d a n s
  | .accMove d a => Sys2Proof.Machine.execAccMove d a s
  | .longLatencyResult n => Sys2Proof.Machine.execLongLatencyResult n s
  | .pageWalkComplete unit r => Sys2Proof.Machine.execPageWalkComplete unit r s
  | .remoteAccess r => Sys2Proof.Machine.execRemoteAccess r s
  | .devmodeWrite v => Sys2Proof.Machine.execDevmodeWrite v s
  | .l2pinPin v => Sys2Proof.Machine.execL2pinPin v s
  | .l2pinUnpin v => Sys2Proof.Machine.execL2pinUnpin v s
  | .tlbiAll v => Sys2Proof.Machine.execTlbiAll v s
  | .tlbiPage v => Sys2Proof.Machine.execTlbiPage v s
  | .tlbigAll v => Sys2Proof.Machine.execTlbigAll v s
  | .tlbigPage v => Sys2Proof.Machine.execTlbigPage v s
  | .celadd v => Sys2Proof.Machine.execCeladd v s
  | .celtake d => Sys2Proof.Machine.execCeltake d s
  | .copyQueueSlotTake core queue => Sys2Proof.Machine.execCopyQueueSlotTake core queue s
  | .copyComplete core copy => Sys2Proof.Machine.execCopyComplete core copy s
  | .copyHalt core copy => Sys2Proof.Machine.execCopyHalt core copy s
  | .faultLogEntryWrite core => Sys2Proof.Machine.execFaultLogEntryWrite core s
  | .xqcfgWrite v => Sys2Proof.Machine.execXqcfgWrite v s
  | .xfres v => Sys2Proof.Machine.execXfres v s
  | .matrixCommandExecute cluster => Sys2Proof.Machine.execMatrixCommandExecute cluster s
  | .walkerRecordWrite cluster => Sys2Proof.Machine.execWalkerRecordWrite cluster s
  | .matrixSlotStage cluster => Sys2Proof.Machine.execMatrixSlotStage cluster s
  | .matrixStepComplete cluster => Sys2Proof.Machine.execMatrixStepComplete cluster s
  | .mtagtWrite v => Sys2Proof.Machine.execMtagtWrite v s
  | .contribution n => Sys2Proof.Machine.execContribution n s
  | .roundResultWritten part tag => Sys2Proof.Machine.execRoundResultWritten part tag s
  | .orphanTimeout part tag => Sys2Proof.Machine.execOrphanTimeout part tag s
  | .meetAnswer n => Sys2Proof.Machine.execMeetAnswer n s
  | .tagFreeingComplete part tag => Sys2Proof.Machine.execTagFreeingComplete part tag s
  | .tileChunkSend part entry => Sys2Proof.Machine.execTileChunkSend part entry s
  | .firingPairLanded part entry => Sys2Proof.Machine.execFiringPairLanded part entry s
  | .arrivalRetry n => Sys2Proof.Machine.execArrivalRetry n s
  | .landingArrival a => Sys2Proof.Machine.execLandingArrival a s
  | .spillRefetch part => Sys2Proof.Machine.execSpillRefetch part s
  | .landfree v => Sys2Proof.Machine.execLandfree v s
  | .tlaunch v => Sys2Proof.Machine.execTlaunch v s
  | .operatorNop o => Sys2Proof.Machine.execOperatorNop o s
  | .operatorGemm o => Sys2Proof.Machine.execOperatorGemm o s
  | .operatorAdd o => Sys2Proof.Machine.execOperatorAdd o s
  | .operatorBias o => Sys2Proof.Machine.execOperatorBias o s
  | .operatorAct o => Sys2Proof.Machine.execOperatorAct o s
  | .operatorRnorm o => Sys2Proof.Machine.execOperatorRnorm o s
  | .operatorSoftmax o => Sys2Proof.Machine.execOperatorSoftmax o s
  | .operatorCopy o => Sys2Proof.Machine.execOperatorCopy o s
  | .operatorAllred o => Sys2Proof.Machine.execOperatorAllred o s
  | .operatorAlltoall o => Sys2Proof.Machine.execOperatorAlltoall o s
  | .operatorWait o => Sys2Proof.Machine.execOperatorWait o s
  | .operatorSig o => Sys2Proof.Machine.execOperatorSig o s
  | .operatorSel o => Sys2Proof.Machine.execOperatorSel o s
  | .operatorCall o => Sys2Proof.Machine.execOperatorCall o s
  | .operatorFence o => Sys2Proof.Machine.execOperatorFence o s
  | .operatorEnd o => Sys2Proof.Machine.execOperatorEnd o s
  | .operatorReserved opc o => Sys2Proof.Machine.execOperatorReserved opc o s
  | .jobPost part => Sys2Proof.Machine.execJobPost part s
  | .operatingPointStable part => Sys2Proof.Machine.execOperatingPointStable part s
  | .remoteEventSignal r => Sys2Proof.Machine.execRemoteEventSignal r s
  | .wake w => Sys2Proof.Machine.execWake w s
  | .queueEnable q v => Sys2Proof.Machine.execQueueEnable q v s
  | .queueDisable q v => Sys2Proof.Machine.execQueueDisable q v s
  | .queueRun q v => Sys2Proof.Machine.execQueueRun q v s
  | .queueHalt q v => Sys2Proof.Machine.execQueueHalt q v s
  | .packetNop p => Sys2Proof.Machine.execPacketNop p s
  | .nopwrap p => Sys2Proof.Machine.execNopwrap p s
  | .indirect p => Sys2Proof.Machine.execIndirect p s
  | .packetWait p => Sys2Proof.Machine.execPacketWait p s
  | .waitReevaluate q => Sys2Proof.Machine.execWaitReevaluate q s
  | .waitTimeout q => Sys2Proof.Machine.execWaitTimeout q s
  | .pred p => Sys2Proof.Machine.execPred p s
  | .loop p => Sys2Proof.Machine.execLoop p s
  | .ffence p => Sys2Proof.Machine.execFfence p s
  | .packetWrite p => Sys2Proof.Machine.execPacketWrite p s
  | .packetEvsig p => Sys2Proof.Machine.execPacketEvsig p s
  | .runops p => Sys2Proof.Machine.execRunops p s
  | .runopsComplete q => Sys2Proof.Machine.execRunopsComplete q s
  | .report p => Sys2Proof.Machine.execReport p s
  | .packetReserved p => Sys2Proof.Machine.execPacketReserved p s
  | .qpPeriodStart q => Sys2Proof.Machine.execQpPeriodStart q s
  | .qpOverrun q => Sys2Proof.Machine.execQpOverrun q s
  | .tellerServe cluster => Sys2Proof.Machine.execTellerServe cluster s
  | .waitlWake n => Sys2Proof.Machine.execWaitlWake n s
  | .ctxopSave v => Sys2Proof.Machine.execCtxopSave v s
  | .ctxopRestore v => Sys2Proof.Machine.execCtxopRestore v s
  | .ctxopDrop v => Sys2Proof.Machine.execCtxopDrop v s
  | .debugHalt n => Sys2Proof.Machine.execDebugHalt n s
  | .debugResume n => Sys2Proof.Machine.execDebugResume n s
  | .slotChange core => Sys2Proof.Machine.execSlotChange core s
  | .teamPark core team => Sys2Proof.Machine.execTeamPark core team s
  | .hardPark core team => Sys2Proof.Machine.execHardPark core team s
  | .vacate v => Sys2Proof.Machine.execVacate v s
  | .drainHalfDeadline core team => Sys2Proof.Machine.execDrainHalfDeadline core team s
  | .drainBoundarySave core team => Sys2Proof.Machine.execDrainBoundarySave core team s
  | .drainDeadline core team => Sys2Proof.Machine.execDrainDeadline core team s
  | .partitionStart v => Sys2Proof.Machine.execPartitionStart v s
  | .partitionEnd v => Sys2Proof.Machine.execPartitionEnd v s
  | .featenWrite v => Sys2Proof.Machine.execFeatenWrite v s
  | .pubwinWrite v => Sys2Proof.Machine.execPubwinWrite v s
  | .pubnextWrite v => Sys2Proof.Machine.execPubnextWrite v s
  | .ccast v => Sys2Proof.Machine.execCcast v s
  | .multicastReceive m => Sys2Proof.Machine.execMulticastReceive m s
  | .multicastAnswer part peer answer => Sys2Proof.Machine.execMulticastAnswer part peer answer s
  | .rdmaWrite m => Sys2Proof.Machine.execRdmaWrite m s
  | .roceRefusedOperation m => Sys2Proof.Machine.execRoceRefusedOperation m s
  | .linkChange port up => Sys2Proof.Machine.execLinkChange port up s
  | .coldStart b => Sys2Proof.Machine.execColdStart b s
  | .warmStart b => Sys2Proof.Machine.execWarmStart b s
  | .sbctlFreeze v => Sys2Proof.Machine.execSbctlFreeze v s
  | .sbstatUnfreeze v => Sys2Proof.Machine.execSbstatUnfreeze v s
  | .registerWrite r v => Sys2Proof.Machine.execRegisterWrite r v s
  | .hostMemoryAccess a => Sys2Proof.Machine.execHostMemoryAccess a s
  | .xflogWrite v => Sys2Proof.Machine.execXflogWrite v s
  | .srseedWrite v => Sys2Proof.Machine.execSrseedWrite v s
  | .tctlWrite t v => Sys2Proof.Machine.execTctlWrite t v s
  | .mdcfgWrite v => Sys2Proof.Machine.execMdcfgWrite v s
  | .kbaseWrite v => Sys2Proof.Machine.execKbaseWrite v s
  | .shdctlAdd v => Sys2Proof.Machine.execShdctlAdd v s
  | .shdctlRemove v => Sys2Proof.Machine.execShdctlRemove v s
  | .pbadd v => Sys2Proof.Machine.execPbadd v s
  | .nop => Sys2Proof.Machine.execNop s
  | .stop => Sys2Proof.Machine.execStop s
  | .yield => Sys2Proof.Machine.execYield s
  | .bkpt => Sys2Proof.Machine.execBkpt s
  | .rte => Sys2Proof.Machine.execRte s
  | .profileTransitionComplete => Sys2Proof.Machine.execProfileTransitionComplete s
  | .cellarRelease => Sys2Proof.Machine.execCellarRelease s
  | .throttleStep => Sys2Proof.Machine.execThrottleStep s
  | .thermalTrip => Sys2Proof.Machine.execThermalTrip s

end Sys2Proof.Machine
end

