-- ==== Sys2Proof/Machine/Turns.lean ====
section
/-! DEFINITION. Turns: which unit acts in a step and with what instruction (log 4): the pipes and their selection (10 R214, 13 R293), fetching
(02 R22, 03 R53), the dispatcher's streams, the queue threads, and what the outside world does. -/
namespace Sys2Proof.Machine

/-- What a turn leads to: an instruction to carry out in a state, or the state after a turn in which none is. -/
inductive Act
  | run (i : Instr) (s : State)
  | done (s : State)
  deriving DecidableEq, Repr

/-- Whether a wait is over, so that the group's instruction can issue (10 R214). -/
def waitOver (s : State) (id : GroupId) (g : Group) : Bool :=
  match g.wait with
  | .none => true
  | .ring r isOpen =>
    (match s.team? g.team with
     | some t =>
       !(ringOf t r).en ||
         ((ringWaiters s t r isOpen).head? == some id &&
           (if isOpen then (openNext (ringOf t r)).isSome else (takeHead (ringOf t r)).isSome))
     | none => true)
  | .mailbox =>
    let (box, ws) := boxOf s id
    (ws.filter fun i => ((s.group? i).map (fun x => x.part == g.part)).getD false).head? == some id && box.any fun e => e.1 == g.part
  | .line _ woken limit latest => lineOver s id woken limit latest
  | .barrier _ => (List.range 28).any fun i => g.wait == .barrier i && g.pass.getLsbD i
  | .tagf _ done => done
  | .meetLimit => decide (meetsOf s (coreOf id) < 32)
  | .room _ => hasRoom s (coreOf id)
  | .matrixQueue _ => decide ((s.cluster (clusterOf id)).queue.length < 16)
  | .matrixIdle => (s.cluster (clusterOf id)).queue.isEmpty
  | .cancel _ => match (s.cluster (clusterOf id)).queue with
    | .job _ :: _ => false
    | _ => true
  | .continuation _ => false
  | .stop => stopReady s id g
  | .context key => match s.team? key with
    | some t => saveReady s t
    | none => true
  | .atomic l => l.length == g.pending.length

/-- A group that can issue in a clock of its pipe (10 R214). -/
def isReady (s : State) (id : GroupId) (g : Group) : Bool :=
  !g.idle && decide (g.yieldUntil ≤ groupClk s id) && waitOver s id g

/-- The class of a ready group with its age boost (10 Table 5). -/
def issueClass (clk : Nat) (g : Group) : Nat :=
  (if g.mode != .u then 0 else if g.role == .copy then 1 else 2) - (clk - g.readySince) / 64

/-- Whether a group comes before another in the selection of a pipe (10 Table 5). -/
def issuesBefore (clk : Nat) (a b : GroupId × Group) : Bool :=
  let x := issueClass clk a.2
  let y := issueClass clk b.2
  decide (x < y) || (x == y && (decide (a.2.readySince < b.2.readySince) || (a.2.readySince == b.2.readySince && decide (a.1 < b.1))))

/-- The first of a list in the selection. -/
def pickFirst (clk : Nat) : List (GroupId × Group) → Option (GroupId × Group)
  | [] => none
  | e :: r => match pickFirst clk r with
    | none => some e
    | some b => some (if issuesBefore clk e b then e else b)

/-- The groups that issue through a pipe of a core. -/
def pipeGroups (s : State) (core pipe : Nat) : List (GroupId × Group) :=
  s.groups.filter fun e => !isSeq e.1 && coreOf e.1 == core && slotOf e.1 % 2 == pipe

/-- The word that a group of an older generation decodes: lookahead bits that its generation ignores in ST, STS and PREF (14 Table 8). -/
def legacyWord (gen : Nat) (w : Word) : Word :=
  if w.extractLsb' 25 7 = 0x59#7 ∨ w.extractLsb' 25 7 = 0x5B#7 ∨ w.extractLsb' 25 7 = 0x5F#7 then
    (if gen = 2 then w &&& ~~~8#32 else if gen = 1 then w &&& ~~~15#32 else w)
  else w

/-- A trap that a group takes before its instruction issues: closed windows are written and an ECC that waits comes first (02 R36, 03 R55). -/
def boundaryTrap (s : State) (id : GroupId) (cause : Cause) (val : Dword) : State :=
  let s1 := closeWindows s id
  match s1.group? id with
  | none => s1
  | some g =>
    match g.eccNow with
    | e :: r => eccTrap s1 id g e r
    | [] => raiseAll s1 id g cause val

/-- Decode the word of a group and carry it out: a word that no instruction has traps ILL with EVAL the word (02 R41, R357). A trap that records
the word records it with the bits that its generation ignores. -/
def decodeAct (s : State) (id : GroupId) (w : Word) : Act :=
  let gen := match s.group? id with
    | some g => g.gen
    | none => 3
  let m := legacyWord gen w
  match decodeWord m with
  | some i =>
    (match (if m = w then none else (s.group? id).bind fun g => checkIssue s id g i) with
     | some (.ill, _) => .done (boundaryTrap s id .ill (w.setWidth 64))
     | some (.priv, _) => .done (boundaryTrap s id .priv (w.setWidth 64))
     | some (.role, _) => .done (boundaryTrap s id .role (w.setWidth 64))
     | _ => .run i s)
  | none => .done (boundaryTrap s id .ill (w.setWidth 64))

/-- The entry by which a fetch was translated: of a TLB, else as its walk gives it. -/
def fetchEntry (s : State) (unit : Nat) (g : Group) : Option TlbEnt :=
  (tlbFind s unit g.part g.mode .fetch 4 g.pc.toNat).orElse fun _ => walkEntry s g.part g.mode 4 g.pc.toNat

/-- The line of an instruction cache that a fetch fills (03 R53). -/
def codeLine (s : State) (unit : Nat) (g : Group) (phys : Nat) (data : BitVec 512) : Option CodeLine :=
  (fetchEntry s unit g).map fun e =>
    let o := g.pc.toNat % 2 ^ e.logSize
    ⟨unit, e.part, e.hyp, e.logSize, g.pc.toNat / 64, (e.ipage * 2 ^ e.logSize + o) / 64, phys / 64, data⟩

/-- Fetch the word at a group's PC (02 R22, 03 R53): the state with what the fetch leaves in the TLBs and the instruction cache, and the word;
a line that the cache holds may be older than memory (log 16). A fetch that fails a check gives the cause and the address; one that meets an
uncorrectable sector gives ECC and the sector's physical offset, for every read of it reports the error (03 R54, R55, log 26); a line with such
a sector is not kept. -/
def fetchWord (s : State) (id : GroupId) (g : Group) : Except (Cause × Dword) (State × Word) :=
  let unit := unitOf id
  match translate s unit g.part false g.mode .fetch 4 g.pc.toNat with
  | .error c => .error (c, packVa (mkVa s.devNum.toNat 4 g.pc.toNat))
  | .ok p =>
    let s1 := tlbTouch s unit g.part g.mode .fetch 4 g.pc.toNat
    let word := fun (d : BitVec 512) => d.extractLsb' (8 * (p.off % 64)) 32
    let fill : Except (Cause × Dword) (State × Word) :=
      match poisonIn s p.kind p.off 4 with
      | some o => .error (.ecc, BitVec.ofNat 64 o)
      | none =>
        let d := BitVec.ofNat 512 (leNat (readMem s p.kind (p.off / 64 * 64) 64))
        let keep := if (poisonIn s p.kind (p.off / 64 * 64) 64).isSome then [] else (codeLine s1 unit g p.off d).toList
        .ok ({ s1 with icache := s.icache.filter (fun e => !(e.unit == unit && e.pline == p.off / 64)) ++ keep,
                       fresh := s.fresh + 1 }, word d)
    match s.icache.find? (fun e => e.unit == unit && e.pline == p.off / 64) with
    | some e => if Config.fetchStale s.fresh then .ok ({ s1 with fresh := s.fresh + 1 }, word e.data) else fill
    | none => fill

/-- The state in which the group whose turn it is issues: it is the current group, and a STEP or a HALTREQ that finds it issuing counts its
instruction (13 Table 8). A new ready period begins in the next clock (10 R214). -/
def beginIssue (s : State) (id : GroupId) (g : Group) : State :=
  let c := groupClk s id
  let s1 := { s with cur := id }
  s1.setGroup id { g with readySince := c + 1, raced := false, dbg := { g.dbg with armed := g.dbg.armed || g.dbg.single || g.dbg.haltReq } }

/-- A group issues: a waiting one its instruction under way, another the word at its PC. -/
def issueAct (s : State) (id : GroupId) (g : Group) : Act :=
  let s1 := beginIssue s id g
  if g.wait != .none then decodeAct s1 id g.word
  else match fetchWord s1 id g with
    | .error (c, v) => .done (boundaryTrap s1 id c v)
    | .ok (s2, w) => decodeAct (s2.modGroup id fun x => { x with word := w }) id w

/-- A DRAIN that is due at a boundary of a group (13 R295). -/
def drainDue (s : State) (e : GroupId × Group) : Option Drain :=
  if e.2.mode = .u ∧ e.2.job ∧ !e.2.drained ∧ !e.2.idle ∧ e.2.preStart.isNone ∧ !stopHeld e.2 ∧ !e.2.dbg.haltReq ∧ !e.2.due then
    (match e.2.wait with
     | .continuation _ => none
     | _ => ((s.team? e.2.team).bind drainOf).bind fun d => if d.halfDone then some d else none)
  else none

/-- What comes before the issue of any group in a list, of which pick would issue: a debugger halt, a stop that is due, a DRAIN (13 R293). A
halt that is requested, and a stop that fell in the clock of an instruction, let the group that is picked issue one instruction first, whose
fault is then pending (log 3). -/
def stopAct (s : State) (pick : Option GroupId) : List (GroupId × Group) → Option Act
  | [] => none
  | e :: r =>
    if haltDue e.2 && !e.2.idle && !stopHeld e.2 &&
        !(e.2.dbg.haltReq && !e.2.dbg.armed && pick == some e.1 && Config.raceChoice s.fresh) then
      some (.run (.debugHalt e.1) { s with fresh := s.fresh + 1 })
    else if e.2.due && !stopHeld e.2 && !e.2.idle && !(e.2.raced && pick == some e.1) then some (.done (stopDue s e.1))
    else match drainDue s e with
      | some d => some (.done (drainTrap s d e.1))
      | none => stopAct s pick r

/-- A ready period ends while a group is not ready (10 R214). -/
def readyTimes (s : State) (clk : Nat) (l : List (GroupId × Group)) : State :=
  l.foldl (fun t e => if isReady s e.1 e.2 then t else t.modGroup e.1 fun g => { g with readySince := clk + 1 }) s

/-- A clock of a set of groups that share an issue slot: a stop that is due, else the selected group issues. -/
def slotAct (s : State) (clk : Nat) (l : List (GroupId × Group)) : Act :=
  let pick := pickFirst clk (l.filter fun e => isReady s e.1 e.2)
  match stopAct s (pick.map (·.1)) l with
  | some a => a
  | none =>
    let s1 := readyTimes s clk l
    match pick with
    | some (id, g) => issueAct s1 id g
    | none => .done s1

/-- A clock of a pipe of a vector core (10 R214). -/
def pipeAct (s : State) (core pipe : Nat) : Act :=
  let s1 := s.modCore core fun c => if pipe = 0 then { c with clk0 := c.clk0 + 1 } else { c with clk1 := c.clk1 + 1 }
  slotAct s1 (if pipe = 0 then (s1.core core).clk0 else (s1.core core).clk1) (pipeGroups s1 core pipe)

/-- A clock of a sequencer: it runs its single group (10 R215). -/
def sequencerAct (s : State) (cluster : Nat) : Act :=
  let s1 := s.modCluster cluster fun c => { c with clk := c.clk + 1 }
  slotAct s1 (s1.cluster cluster).clk ((s1.groups.filter fun e => e.1 == 8192 + cluster))

/-- The dispatcher reads the next operator of a stream, in S mode of its partition (03 R358, 10 R217): 16 bytes, or OPS_ADDR (10 Table 13);
a level that is at its end ends (10 R222). -/
def streamAct (s : State) (part stream : Nat) : Act :=
  match (if s.isLive part then findStream s part stream else none) with
  | none => .done s
  | some st =>
    if st.ended then .done s
    else match st.levels with
      | [] => .done (pruneStreams (endLevel s part stream) part)
      | l :: _ =>
        if l.count ≤ l.pos then .done (pruneStreams (endLevel s part stream) part)
        else match unitRead s part false .s (vaAdd l.base (16 * l.pos)) 16 with
          | .ok (b, none) => .run (decodeOperator b) { s with curPart := part, curStream := stream, fresh := s.fresh + 1 }
          | _ => .done (streamError (linkNote s part false .s (vaAdd l.base (16 * l.pos))) part stream 0x47)

/-- What a thread does in the last issue slot of the packet at hand: a waiting RUNOPS that has its stream, another packet whose wait is over, or
the next packet (11 R242 to R249). -/
def packetAct (s : State) (q : Nat) : Act :=
  match (s.queue q).wait, (s.queue q).packet with
  | .stream _, _ => .run (.runopsComplete q) s
  | .slot, some p | .drain, some p | .report, some p => .run (decodePacket p) s
  | _, _ =>
    match fetchPacket s q with
    | none => .done s
    | some (.error (c, v)) => .done (queueError s q c v)
    | some (.ok p) => .run (decodePacket p) s

/-- The thread of a queue processor whose period has ended: it begins its next before the processor picks (13 R303). -/
def periodFirst (s : State) (q : Nat) : Option Nat :=
  (s.queues.find? fun e => e.1 / 32 == q / 32 && periodDue s e.2).map (·.1)

/-- A clock of a queue thread: what stops it at a boundary, its wait, a period that begins, or, where its processor picks it, an issue slot of the
packet at hand, which takes effect in its last (11 R235, R242 to R251, 13 R303, log 21). RUN no longer reads as set (log 53). -/
def queueAct (s0 : State) (q : Nat) : Act :=
  let x := s0.queue q
  if !x.closing && (!x.en || x.stop) then .done s0
  else
    let s := s0.modQueue q fun x => { x with run := false }
    match boundary s q, x.wait, periodFirst s q with
    | some s1, _, _ => .done s1
    | none, .cond _, _ =>
      .run (if waitExpired s q then .waitTimeout q else .waitReevaluate q) { s with curQueue := q, fresh := s.fresh + 1 }
    | none, _, some r => .run (.qpPeriodStart r) s
    | none, _, none =>
      if !(threadReady s q && mayPick s q) then .done s
      else
        let (t, last) := issueSlot s q
        if last then packetAct t q else .done t

/-- Rounds that must have ended as orphans by a time: TOUT and two microseconds have passed since they began (09 R194). -/
def orphansDue (s : State) (now : Nat) : List (Nat × Nat) :=
  s.parts.flatMap fun e =>
    if !s.isLive e.1 then []
    else (e.2.tags.filter fun t => t.2.st == .fill && decide (t.2.started + t.2.tout * 1000 + 2000 ≤ now)).map fun t => (e.1, t.1)

/-- Time passes, and temperature and current are read (15 R330). Before it does every WAIT looks at its condition (11 R246), and a round that has
come to the end of its time ends as an orphan (09 R194), as a WAIT whose time has come stops its queue. -/
def elapse (s : State) (ns : Nat) (temp : BitVec 8) (current : Bool) : State :=
  let s1 := waitsAgain s
  let s2 := waitsExpire { s1 with time := s1.time + ns, thrTemp := temp, thrCur := current, thrHot := decide (105 ≤ temp.toNat) }
  (orphansDue s2 s2.time).foldl (fun s e => orphanEnds s e.1 e.2) s2

/-- Whether an upset is corrected (03 R54, R55, 01 Table 8): one bit of a 32-byte sector, in the strong mode one 16-bit symbol of a 64-byte line, in
an on-chip memory one bit of 8 bytes; two are detected. More, and upsets of memories whose code is not given, go either way (log 54). -/
def upsetFixed (s : State) (kind : Nat) (bits : List Nat) : Bool :=
  let l := (if normKind kind = 0 ∧ s.eccMode = 1#2 then bits.map (· / 16) else bits).eraseDups.length
  if 2 ≤ kind ∧ kind ≤ 3 then !Config.upsetSeen s.fresh
  else decide (l ≤ 1) || (decide (3 ≤ l) && !Config.upsetSeen s.fresh)

/-- The units of error protection that an uncorrectable upset poisons (03 R54): in the strong mode the sectors of the line that hold flipped
bits. -/
def upsetUnits (s : State) (kind addr : Nat) (bits : List Nat) : List (Nat × Nat) :=
  if kind = 5 then [(5, addr / 8)]
  else if normKind kind = 0 ∧ s.eccMode = 1#2 then
    ([0, 1].filter fun h => bits.any fun b => b / 256 == h).map fun h => (0, addr / 64 * 2 + h)
  else [poisonUnit kind addr]

/-- An upset (03 R54, R55): a corrected error is counted; an uncorrectable one poisons its sectors or its word, is counted and recorded. -/
def upsetAct (s0 : State) (kind addr die : Nat) (bits : List Nat) : State :=
  let s := { s0 with fresh := s0.fresh + 1 }
  if 5 ≤ die ∨ bits.isEmpty then s
  else if upsetFixed s0 kind bits then { s with eccCe := storeSet s.eccCe die (satCount (storeGet s.eccCe die)) }
  else
    let us := upsetUnits s kind addr bits
    countError { s with poison := s.poison ++ us.filter fun u => !s.poison.contains u } die die addr

/-- An upset of a word of a contribution in a vat (03 R55): an uncorrectable one reads as zero from then on; no group reads a vat, so that none traps
(log 54). -/
def vatUpset (s0 : State) (part tag cidx word die : Nat) (bits : List Nat) : State :=
  let s := { s0 with fresh := s0.fresh + 1 }
  if 5 ≤ die ∨ bits.isEmpty then s
  else if upsetFixed s0 1 bits then { s with eccCe := storeSet s.eccCe die (satCount (storeGet s.eccCe die)) }
  else
    let zero := fun (l : List Byte) => l.zipIdx.map fun e => if e.2 / 8 = word then 0 else e.1
    countError (s.modPart part fun p =>
      { p with
        tags := p.tags.map fun t =>
          if t.1 = tag then (t.1, { t.2 with chunks := t.2.chunks.map fun c => if c.1 = cidx then (c.1, zero c.2) else c }) else t }) die die 0

/-- The network delivers its last contribution once more (09 R191). -/
def redeliver (s : State) : State := { s with net := s.net ++ s.lastContr.toList }

/-- What a turn leads to. -/
def turnAct (s : State) : Turn → Act
  | .pipe c p => pipeAct s c p
  | .sequencer c => sequencerAct s c
  | .stream p i => streamAct s p i
  | .queue q => queueAct s q
  | .readAhead q pos va => .done (readAheadAt s q pos va)
  | .unit i => .run i s
  | .elapse ns t c => .done (elapse s ns t c)
  | .upset k a d b => .done (upsetAct s k a d b)
  | .vatUpset p t c w d b => .done (vatUpset s p t c w d b)
  | .redeliver => .done (redeliver s)

/-- Turns that act while the device is held in reset: a start, and time (15 R328). -/
def actsInReset : Turn → Bool
  | .unit (.coldStart _) | .unit (.warmStart _) | .elapse .. => true
  | _ => false

/-- The turns of vector cores and their copy engines. -/
def coreTurns (s : State) : List Turn :=
  ((s.groups.filter fun e => !isSeq e.1).map fun e => Turn.pipe (coreOf e.1) (slotOf e.1 % 2)) ++
  ((s.groups.filter fun e => isSeq e.1).map fun e => Turn.sequencer (clusterOf e.1)) ++
  ((s.groups.filter fun e => !e.2.out.isEmpty).map fun e => Turn.unit (.longLatencyResult e.1)) ++
  s.cores.flatMap fun e =>
    (e.2.copies.flatMap fun c => [Turn.unit (.copyComplete e.1 c.id), .unit (.copyHalt e.1 c.id)]) ++
    (if e.2.logWait.isEmpty then [] else [Turn.unit (.faultLogEntryWrite e.1)]) ++
    ((e.2.xq.filter fun x => x.2.en).map fun x => Turn.unit (.copyQueueSlotTake e.1 x.1)) ++
    (if s.slEn then [Turn.unit (.slotChange e.1)] else [])

/-- The turns of clusters: their tellers and matrix engines. -/
def clusterTurns (s : State) : List Turn :=
  s.clusters.flatMap fun e =>
    (if e.2.teller.isEmpty then [] else [Turn.unit (.tellerServe e.1)]) ++
    (if e.2.queue.isEmpty then [] else
      [Turn.unit (.matrixCommandExecute e.1), .unit (.walkerRecordWrite e.1), .unit (.matrixSlotStage e.1), .unit (.matrixStepComplete e.1)])

/-- The turns of the network, of partitions and of teams. -/
def partTurns (s : State) : List Turn :=
  (if s.net.isEmpty then [] else [Turn.unit (.contribution 0)]) ++
  (if s.answers.isEmpty then [] else [Turn.unit (.meetAnswer 0)]) ++
  (if s.arrivalsHeld.isEmpty then [] else [Turn.unit (.arrivalRetry 0)]) ++
  (s.parts.flatMap fun e =>
    if !s.isLive e.1 then []
    else
      (e.2.tags.flatMap fun t =>
        [Turn.unit (.roundResultWritten e.1 t.1), .unit (.orphanTimeout e.1 t.1), .unit (.tagFreeingComplete e.1 t.1)]) ++
      (e.2.firings.flatMap fun f => [Turn.unit (.tileChunkSend e.1 f.entry), .unit (.firingPairLanded e.1 f.entry)]) ++
      (if e.2.spilled.isEmpty then [] else [Turn.unit (.spillRefetch e.1)]) ++
      (if e.2.ready.isEmpty then [] else [Turn.unit (.jobPost e.1)]) ++
      (if e.2.pointReq.isSome then [Turn.unit (.operatingPointStable e.1)] else []) ++
      ((e.2.streams.filter fun x => !x.ended).map fun x => Turn.stream e.1 x.id)) ++
  s.teams.flatMap fun e =>
    (if e.2.expiry.isSome then [Turn.unit (.teamPark e.2.core e.2.num), .unit (.hardPark e.2.core e.2.num)] else []) ++
    (if (drainOf e.2).isSome then [Turn.unit (.drainHalfDeadline e.2.core e.2.num)] else []) ++
    (if e.2.drain.isSome then [Turn.unit (.drainBoundarySave e.2.core e.2.num), .unit (.drainDeadline e.2.core e.2.num)] else [])

/-- The turns of queue threads and of the hub. -/
def hubTurns (s : State) : List Turn :=
  ((s.queues.filter fun e => e.2.en || e.2.closing).flatMap fun e =>
    [Turn.queue e.1] ++ (if s.edf && e.2.period != 0 && spent e.2 then [Turn.unit (.qpOverrun e.1)] else []) ++ (if s.edf && e.2.period != 0 then [Turn.unit (.qpPeriodStart e.1)] else [])) ++
  (if s.cellar.isEmpty then [] else [Turn.unit .cellarRelease]) ++
  (if s.devPact == s.devProf then [] else [Turn.unit .profileTransitionComplete]) ++
  (if s.warmReq then [Turn.unit (.warmStart (Config.bootInput s.starts))] else []) ++
  [Turn.unit .throttleStep, .unit .thermalTrip, .elapse 1000 s.thrTemp s.thrCur]

/-- The turns that come round by themselves while no other turn is asked for (log 4). -/
def autoTurns (s : State) : List Turn :=
  (coreTurns s ++ (clusterTurns s ++ (partTurns s ++ hubTurns s))).eraseDups

/-- The turn at hand and the state without it: the head of the agenda, else the next that comes round. -/
def takeTurn (s : State) : Turn × State :=
  match s.agenda with
  | t :: r => (t, { s with agenda := r, turns := s.turns + 1 })
  | [] =>
    let l := autoTurns s
    ((l[s.turns % l.length]?).getD (.elapse 1000 s.thrTemp s.thrCur), { s with turns := s.turns + 1 })

/-- The group inside a prefix sequence: the sequence issues as one instruction, so it goes on at once (02 R34). -/
def midSequence (s : State) : Option (GroupId × Group) :=
  match s.group? s.cur with
  | some g => if g.preStart.isSome && g.wait == .none && !g.idle then some (s.cur, g) else none
  | none => none

/-- What the next step does (log 4). -/
def nextAct (s : State) : Act :=
  if s.inReset then
    (let (t, s1) := takeTurn s
     if actsInReset t then turnAct s1 t else .done s1)
  else match midSequence s with
    | some (id, g) => issueAct s id g
    | none =>
      let (t, s1) := takeTurn s
      turnAct s1 t

end Sys2Proof.Machine
end

