-- ==== Sys2Proof/Machine/Step.lean ====
section
/-! DEFINITION. One step of the machine, and the placing of a word where the next step fetches (log 15). -/
namespace Sys2Proof.Machine

/-- One step: what nextAct says, carried out. -/
def step (s : State) : Host.Outcome State Fault Refusal :=
  match nextAct s with
  | .run i t => exec i t
  | .done t => .next t

/-- The instruction's group: matrix instructions run on sequencer 0, others in slot 0 of core 0. -/
def fetchId (w : Nat) : GroupId := if 0x7C ≤ w / 2 ^ 25 % 128 then 8192 else 0

/-- The group that fetches the word: S mode at 0x20000, with a role that may issue it. -/
def fetchGroup (w : Nat) : Group :=
  let m := w / 2 ^ 25 % 128
  { Group.launch with
    uid := 1, role := if 0x7C ≤ m then .matrix else if 0x70 ≤ m ∧ m ≤ 0x72 then .copy else .vector,
    width := if 0x7C ≤ m then 1 else 16, pc := 0x20000, em := if 0x7C ≤ m then 1 else 0xFFFF, mode := .s, rsize := 16 }

/-- The team of that group. -/
def fetchTeam (w : Nat) : Team :=
  { uid := 0, part := 0, core := 0, num := 0, paired := false, sbase := 0, ssize := 1, rings := [], tbar := [], cbar := 0, gbar := 0,
    pb := [], ph := [], ringWait := [], groups := [fetchId w], drain := none, expiry := none, parked := false, stopped := false,
    held := [], saving := none }

/-- Store bytes in device memory. -/
def placeBytes (s : State) (a : Nat) (l : List Byte) : State := { s with hbm := l.zipIdx.foldl (fun m e => storeSet m (a + e.2) e.1) s.hbm }

/-- The first 32 bits of w placed where the next step fetches its instruction, whose pages are one table set that maps the first GiB of
device memory, as a partition start and a launch would leave them (log 15). -/
def State.withFetchWord (s : State) (_nbits w : Nat) : State :=
  let id := fetchId w
  let s1 := placeBytes (placeBytes (placeBytes (placeBytes s 0x8000 (leBytes 8 0x10001)) 0xC000 (leBytes 8 0x10001)) 0x10000 (leBytes 8 0x3F))
    0x20000 (leBytes 4 w)
  let s2 := (s1.modPart 0 fun p => { p with s1root := 1, s2root := 1, hroot := 1, pubEn := false }).modCore 0 fun c => { c with slmap := 0x80 }
  let s3 := tlbDrop s2 fun e => e.part == 0
  { s3 with
    groups := tabSet (s3.groups.filter fun e => isSeq id || isSeq e.1 || decide (64 ≤ e.1) || e.1 % 2 == 1) id (fetchGroup w),
    teams := tabSet s3.teams 0 (fetchTeam w), live := s3.live ||| 1, icache := [],
    poison := s3.poison.filter (fun p => !(p.1 == 0 && decide (p.2 < 0x20020 / 32 + 2))),
    agenda := [if isSeq id then .sequencer 0 else .pipe 0 0], cur := id, inReset := false }

end Sys2Proof.Machine
end

