-- ==== Sys2Proof/Safety.lean ====
section
/-! DEFINITION. What counts as a safe run, and the terms in which the statements speak of an instruction that a group issues:
when it passes every check, what a register result is, and what stays as it was. -/
namespace Sys2Proof.Machine

/-- A step that neither faults nor refuses. -/
def Advances (s : State) : Prop := ∃ t, step s = .next t

/-- A run of n steps in which every step advances. -/
def SafeRun : Nat → State → Prop
  | 0, _ => True
  | n + 1, s => ∃ t, step s = .next t ∧ SafeRun n t

/-- No word of the register file in which the group's registers lie is uncorrectable (03 R55). -/
def Sound (s : State) (g : Group) : Prop := ∀ reg lane, lane < 64 → cellBad s (regCell s.cur g reg lane) = false

/-- The group g is the one that issues: it is the current group, no window of it is open (02 R36), no ECC waits (03 R55), it has
at most 64 lanes on a vector core and one on a sequencer (10 R208), and its register file is sound. -/
def Current (s : State) (g : Group) : Prop :=
  s.group? s.cur = some g ∧ g.out = [] ∧ g.eccNow = [] ∧ (if isSeq s.cur then g.width = 1 else g.width ≤ 64) ∧ Sound s g

/-- The group g issues the instruction: it is current and every check before issue passes (02 R42). -/
def Issues (s : State) (g : Group) (i : Instr) : Prop := Current s g ∧ checkIssue s s.cur g i = none

/-- The group goes on at pc: DM is empty, and no prefix and no wait is left (13 R286, 02 R34). -/
def Group.goesTo (g : Group) (pc : Dword) : Group :=
  { g with pc := pc, dm := 0, preLit := none, preIx := none, preStart := none, wait := .none }

/-- The group goes on with the next word. -/
def Group.goesOn (g : Group) : Group := g.goesTo (g.pc + 4)

/-- Nothing but registers and the record of the group that issues differs: every byte of memory outside the register windows,
every other group and all else is as before. -/
def OnlyOwn (s t : State) : Prop :=
  t = { s with vregs := t.vregs, sregs := t.sregs, groups := t.groups, fresh := t.fresh } ∧
  ∀ id, id ≠ s.cur → t.group? id = s.group? id

/-- Every register lane is as before. -/
def SameCells (s t : State) : Prop := ∀ c, cellGet t c = cellGet s c

/-- Nothing but the record of the group that issues differs, and that is g'. -/
def OwnGroup (s t : State) (g' : Group) : Prop := OnlyOwn s t ∧ SameCells s t ∧ t.group? s.cur = some g'

/-- The register lane that field o names in a lane: register k of it. -/
def cellOf (s : State) (g : Group) (o : Opnd) (k lane : Nat) : Bool × Nat := regCell s.cur g (regNum g g.pre o + k) lane

/-- The value that a scalar takes: a 32-bit result is zero-extended (02 R27). -/
def scalarVal (wid : Nat) (v : BitVec 128) : Dword := if wid = 1 then (v.setWidth 32).setWidth 64 else v.setWidth 64

/-- The record g' with the result f in the scalar that field o names, if it names one: that of the lowest active lane of g. -/
def withScalar (g g' : Group) (o : Opnd) (f : Nat → BitVec 128) : Group :=
  match g.lowest with
  | some lane => if scalarOk o.fld then { g' with s := storeSet g'.s (o.fld.toNat - 96) (scalarVal o.wid (f lane)) } else g'
  | none => g'

/-- A result f in the field o (02 R26 to R28): v registers take it in every active lane; a scalar takes that of the lowest active
lane; z takes none. The group is g' but for that scalar, and nothing else differs. -/
def LaneResult (s t : State) (g g' : Group) (o : Opnd) (f : Nat → BitVec 128) : Prop :=
  OnlyOwn s t ∧
  if opndIsV o then
    (∀ lane ∈ g.active, ∀ k < o.wid, cellGet t (cellOf s g o k lane) = (f lane).extractLsb' (32 * k) 32) ∧
    (∀ c, (∀ lane ∈ g.active, ∀ k < o.wid, c ≠ cellOf s g o k lane) → cellGet t c = cellGet s c) ∧
    t.group? s.cur = some g'
  else
    SameCells s t ∧
    t.group? s.cur = some (withScalar g g' o f)

/-- A mask result (07 R129): bit l of mask register k is f l in each active lane and 0 elsewhere; nothing else differs. -/
def MaskResult (s t : State) (g : Group) (k : Nat) (f : Nat → Bool) : Prop :=
  OnlyOwn s t ∧ SameCells s t ∧
  ∃ m : Dword, (∀ l, l < 64 → m.getLsbD l = (decide (l ∈ g.active) && f l)) ∧
    t.group? s.cur = some { g.goesOn with k := storeSet g.k k m }

/-- Lane l of source field a or b, n registers wide, as the instruction reads it; d likewise, before the instruction. -/
def srcA (s : State) (g : Group) (f : BitVec 7) (n l : Nat) : BitVec 128 := srcOf s s.cur g g.pre (srcOpnd .a f n) l
def srcB (s : State) (g : Group) (f : BitVec 7) (n l : Nat) : BitVec 128 := srcOf s s.cur g g.pre (srcOpnd .b f n) l
def srcD (s : State) (g : Group) (f : BitVec 7) (n l : Nat) : BitVec 128 := srcOf s s.cur g g.pre (bothOpnd f n) l
/-- Their low 32 and 64 bits. -/
def a32 (s : State) (g : Group) (f : BitVec 7) (l : Nat) : Word := (srcA s g f 1 l).setWidth 32
def b32 (s : State) (g : Group) (f : BitVec 7) (l : Nat) : Word := (srcB s g f 1 l).setWidth 32
def d32 (s : State) (g : Group) (f : BitVec 7) (l : Nat) : Word := (srcD s g f 1 l).setWidth 32
def a64 (s : State) (g : Group) (f : BitVec 7) (l : Nat) : Dword := (srcA s g f 2 l).setWidth 64
def b64 (s : State) (g : Group) (f : BitVec 7) (l : Nat) : Dword := (srcB s g f 2 l).setWidth 64

/-- The instruction completes with the result f in field d, n registers wide: the next word follows and nothing else differs. -/
def Gives (s : State) (g : Group) (i : Instr) (d : BitVec 7) (n : Nat) (f : Nat → BitVec 128) : Prop :=
  Issues s g i → ∃ t, exec i s = .next t ∧ LaneResult s t g g.goesOn (dstOpnd d n) f

/-- The instruction completes with the bits f in mask register d of the active lanes, zero in the others. -/
def GivesMask (s : State) (g : Group) (i : Instr) (d : BitVec 7) (f : Nat → Bool) : Prop :=
  Issues s g i → ∃ t, exec i s = .next t ∧ MaskResult s t g d.toNat f

/-- The instruction completes and changes nothing but the record of its group, which is then g'. -/
def GivesGroup (s : State) (g : Group) (i : Instr) (g' : Group) : Prop :=
  Issues s g i → ∃ t, exec i s = .next t ∧ OwnGroup s t g'

/-- Registers of a type code, its width, how it reads an operand, and how it reduces an exact value (07 Table 4). -/
def typedRegs (f : BitVec 4) : Nat := if f = 2#4 ∨ f = 3#4 then 2 else 1
def typedRead (f : BitVec 4) (v : BitVec 128) : Int :=
  if f = 2#4 then (v.setWidth 64).toInt else if f = 3#4 then ((v.setWidth 64).toNat : Int)
  else if f = 1#4 ∨ f = 5#4 then ((v.setWidth 32).toNat : Int) else (v.setWidth 32).toInt
def typedValue (f : BitVec 4) (x : Int) : BitVec 128 :=
  if f = 4#4 then (BitVec.ofInt 32 (max (-2147483648) (min 2147483647 x))).setWidth 128
  else if f = 5#4 then (BitVec.ofInt 32 (max 0 (min 4294967295 x))).setWidth 128
  else if f = 2#4 ∨ f = 3#4 then (BitVec.ofInt 64 x).setWidth 128
  else (BitVec.ofInt 32 x).setWidth 128

/-- The magnitude and the number of a finite value. -/
def Fval.mag : Fval → Rat
  | .fin _ m e => (m : Rat) * (2 : Rat) ^ e
  | _ => 0
def Fval.rat (v : Fval) : Rat := if isNegV v then -v.mag else v.mag

/-- The value is a number, neither a NaN nor an infinity. -/
def Fval.finite : Fval → Bool
  | .fin .. => true
  | _ => false

/-- The order of two values as the numbers that they are; a NaN is below nothing. -/
def Fval.below (x y : Fval) : Bool :=
  match x, y with
  | .nan _, _ | _, .nan _ => false
  | .inf s, .inf t => s && !t
  | .inf s, .fin .. => s
  | .fin .., .inf t => !t
  | .fin .., .fin .. => decide (x.rat < y.rat)

/-- A real beside a unit in the last place, rounded by a code of 06 Table 3 to a multiple of the unit, with the random value r. -/
def roundAt (rnd r : Nat) (x q : Rat) : Rat :=
  let n := (x / q).floor
  let f := x / q - n
  let up := if rnd = 0 then decide (1 / 2 < f) || (decide (f = 1 / 2) && decide (n % 2 = 1))
    else if rnd = 2 then decide (65536 ≤ (f * 65536).floor + r) else false
  ((n + if up then 1 else 0 : Int) : Rat) * q

/-- The generator of the group's pipe as the instruction leaves it: advanced if it rounds with SR in an active lane (06 R115). -/
def drawn (s : State) (g : Group) (sr : Bool) : State := if sr && !g.active.isEmpty then genAdvance s s.cur else s

/-- An FP instruction (06 R118): its flags are the union over the active lanes; without an enabled flag among them it completes with the
result and its flags are ORed into FPSTAT, and with one it traps FPX. r and fl are given the generator's value. -/
def GivesFp (s : State) (g : Group) (i : Instr) (d : BitVec 7) (sr : Bool) (r : Word → Nat → BitVec 128)
    (fl : Word → Nat → Flagset) : Prop :=
  Issues s g i →
    let s1 := drawn s g sr
    let w := genOf s1 s.cur
    let u := unionFlags (g.active.map (fl w))
    (u &&& fpEnables g = 0 →
      ∃ t, exec i s = .next t ∧ LaneResult s1 t g { g.goesOn with fpstat := g.fpstat ||| u } (dstOpnd d 1) (r w)) ∧
    (u &&& fpEnables g ≠ 0 → exec i s = .next (raiseAll s1 s.cur g .fpx (u.setWidth 64)))

/-- A long-latency instruction (02 R35, R36): it completes with its destination as it was and one window open, which closes after as
many instructions as its lookahead as the group decodes it; when the result lands, the destination holds it. -/
def GivesLate (s : State) (g : Group) (i : Instr) (d : BitVec 7) (la : BitVec 4) (u : Flagset) (f : Nat → BitVec 128) : Prop :=
  ∃ t g' o, exec i s = .next t ∧ OwnGroup s t g' ∧
    g' = { g.goesOn with fpstat := g.fpstat ||| u, out := [o] } ∧ o.left = effLa g la ∧
    LaneResult s (landAll t s.cur) g { g.goesOn with fpstat := g.fpstat ||| u } (dstOpnd d 1) f

/-- A mask that is written whole, in every lane below W whatever EM holds (07 R128). -/
def GivesMaskAll (s : State) (g : Group) (i : Instr) (k : BitVec 7) (f : Nat → Bool) : Prop :=
  Issues s g i → ∃ t, exec i s = .next t ∧ ∃ m : Dword, (∀ l, l < 64 → m.getLsbD l = (decide (l < g.width) && f l)) ∧
    OwnGroup s t { g.goesOn with k := storeSet g.k k.toNat m }

/-- The level of RDCE's tree (07 R160): t[i] = Op(t[2i], t[2i + 1]), the flags being the union of every step's. -/
def redTree (f : BitVec 4) (g : Group) (leaf : Nat → Word) : Nat → Nat → Word × Flagset
  | 0, i => (leaf i, 0)
  | k + 1, i =>
    let x := redTree f g leaf k (2 * i)
    let y := redTree f g leaf k (2 * i + 1)
    let z := redOp f g x.1 y.1
    (z.1, x.2 ||| y.2 ||| z.2)

/-- SCAN's running combination (07 R160). -/
def redRun (f : BitVec 4) (g : Group) (l : List Word) : Word × Flagset :=
  l.foldl (fun x v => let z := redOp f g x.1 v; (z.1, x.2 ||| z.2)) (redIdentity f, 0)

/-- As LaneResult, for an instruction that acts for some of its active lanes only (13 R286): a scalar takes the lowest active lane's result
if that lane is among them. -/
def LaneResultIn (s t : State) (g g' : Group) (o : Opnd) (lanes : List Nat) (f : Nat → BitVec 128) : Prop :=
  OnlyOwn s t ∧
  if opndIsV o then
    (∀ lane ∈ lanes, ∀ k < o.wid, cellGet t (cellOf s g o k lane) = (f lane).extractLsb' (32 * k) 32) ∧
    (∀ c, (∀ lane ∈ lanes, ∀ k < o.wid, c ≠ cellOf s g o k lane) → cellGet t c = cellGet s c) ∧
    t.group? s.cur = some g'
  else
    SameCells s t ∧
    t.group? s.cur = some (if g.lowest.any (lanes.contains ·) then withScalar g g' o f else g')

/-- Nothing but translations held in TLBs differs (03 R64). -/
def OnlyTlbs (s t : State) : Prop :=
  t = { s with cores := t.cores, clusters := t.clusters, l2tlb := t.l2tlb } ∧
  (∀ c, { t.core c with tlb := (s.core c).tlb } = s.core c) ∧ (∀ c, { t.cluster c with tlb := (s.cluster c).tlb } = s.cluster c)

/-- What a store may change beside its bytes: the record of the group that issues, translations in TLBs, the sleep of other groups'
WAITL (12 R272), and poison that it clears (03 R54). -/
def StoreFrame (s t : State) : Prop :=
  t = { s with hbm := t.hbm, win := t.win, lpddr := t.lpddr, cxl := t.cxl, poison := t.poison, groups := t.groups, cores := t.cores,
               clusters := t.clusters, l2tlb := t.l2tlb, fresh := t.fresh } ∧
  (∀ c, { t.core c with tlb := (s.core c).tlb } = s.core c) ∧ (∀ c, { t.cluster c with tlb := (s.cluster c).tlb } = s.cluster c) ∧
  (∀ p ∈ t.poison, p ∈ s.poison) ∧
  ∀ id, id ≠ s.cur → ∀ x, s.group? id = some x → ∃ y, t.group? id = some y ∧ y = { x with wait := y.wait } ∧
    (y.wait = x.wait ∨ ∃ l u v, x.wait = .line l false u v ∧ y.wait = .line l true u v)

/-- Byte a of a physical space lies in the n bytes at p. -/
def inPlace (p : Phys) (n kind a : Nat) : Prop := normKind kind = normKind p.kind ∧ p.off ≤ a ∧ a < p.off + n

/-- The lanes have stored n bytes each at their places, where lanes meet the highest one's: every other byte of memory is as before. -/
def LaneBytes (s t : State) (lanes : List Nat) (ph : Nat → Phys) (n : Nat) (data : Nat → Nat) : Prop :=
  (∀ l ∈ lanes, ∀ i < n, (∀ m ∈ lanes, l < m → ¬ inPlace (ph m) n (ph l).kind ((ph l).off + i)) →
    memByte t (ph l).kind ((ph l).off + i) = BitVec.ofNat 8 (data l / 256 ^ i)) ∧
  (∀ kind a, kind ≤ 4 → (∀ l ∈ lanes, ¬ inPlace (ph l) n kind a) → memByte t kind a = memByte s kind a)

/-- The bytes at a physical place as a number, the lowest first (00 R5). -/
def placeValue (s : State) (p : Phys) (n : Nat) : Nat := leNat ((List.range n).map fun i => memByte s p.kind (p.off + i))

/-- The addresses lie on this device, are aligned to n bytes and translate to the places ph with the grant; no byte there is
uncorrectable (03 Table 9). -/
def Reaches (s : State) (g : Group) (grant : Grant) (lanes : List Nat) (va : Nat → VAddr) (n : Nat) (ph : Nat → Phys) : Prop :=
  ∀ l ∈ lanes, isLocal s (va l) ∧ (va l).toNat % n = 0 ∧ poisonIn s (ph l).kind (ph l).off n = none ∧
    translate s (unitOf s.cur) g.part false g.mode grant (vaKind (va l)) (vaOff (va l)) = .ok (ph l)

/-- The address of a lane (03 R71): base register n, the lane's value of a zero-extended, and the byte offset of a LIT, modulo 2^64. -/
def addrOf (s : State) (g : Group) (n : BitVec 3) (a : BitVec 7) (off : Int) (l : Nat) : VAddr :=
  let base := storeGet g.ab n.toNat
  base.extractLsb' 64 16 ++ (base.extractLsb' 0 64 + (a32 s g a l).setWidth 64 + BitVec.ofInt 64 off)

/-- Nothing but the record of team k differs, and that is t'. -/
def OneTeam (s s' : State) (k : Nat) (t' : Team) : Prop :=
  s' = { s with teams := s'.teams } ∧ s'.team? k = some t' ∧ ∀ j, j ≠ k → s'.team? j = s.team? j

/-- Nothing but the record of partition p differs, and that is q. -/
def OnePart (s s' : State) (p : Nat) (q : Partition) : Prop :=
  s' = { s with parts := s'.parts } ∧ s'.part p = q ∧ ∀ j, j ≠ p → s'.part j = s.part j

/-- Nothing but the state of cluster c differs, and that is k. -/
def OneCluster (s s' : State) (c : Nat) (k : Cluster) : Prop :=
  s' = { s with clusters := s'.clusters } ∧ s'.cluster c = k ∧ ∀ j, j ≠ c → s'.cluster j = s.cluster j

/-- Nothing but the state of vector core c differs, and that is k. -/
def OneCore (s s' : State) (c : Nat) (k : Core) : Prop :=
  s' = { s with cores := s'.cores } ∧ s'.core c = k ∧ ∀ j, j ≠ c → s'.core j = s.core j

/-- A status or another 32-bit value in every active lane, the machine being s' but for the group and its registers. -/
def Answers (s' t : State) (g : Group) (d : BitVec 7) (v : Word) : Prop :=
  LaneResult s' t g g.goesOn (dstOpnd d 1) (fun _ => v.setWidth 128)

/-- A ring with slot i in state v, the others as in x. -/
def SlotNow (x y : Ring) (i v : Nat) : Prop := slotSt y i = v ∧ ∀ j < 16, j ≠ i → slotSt y j = slotSt x j

/-- Bytes are stored at a physical place: every other byte of memory is as before, and nothing else differs but poison that is cleared
(03 R54) and the sleep of WAITLs (12 R272). -/
def Stored (s t : State) (kind off : Nat) (l : List Byte) : Prop :=
  t = { s with hbm := t.hbm, win := t.win, lpddr := t.lpddr, cxl := t.cxl, vregs := t.vregs, accs := t.accs, poison := t.poison,
               groups := t.groups } ∧
  (∀ i b, l[i]? = some b → memByte t kind (off + i) = b) ∧
  (∀ k a, k ≤ 4 → ¬ inPlace ⟨kind, off, false⟩ l.length k a → memByte t k a = memByte s k a) ∧
  (∀ p ∈ t.poison, p ∈ s.poison) ∧
  ∀ id x, s.group? id = some x → ∃ y, t.group? id = some y ∧ y = { x with wait := y.wait }

/-- The bytes at a physical place. -/
def bytesAt (s : State) (kind off n : Nat) : List Byte := (List.range n).map fun i => memByte s kind (off + i)

/-- What a byte of memory is after bytes have been stored at places one after another: the last of them that holds it, else what it was. -/
def storedByte (l : List (Nat × Nat × List Byte)) (kind a : Nat) (old : Byte) : Byte :=
  l.foldl (fun b e => if normKind kind = normKind e.1 ∧ e.2.1 ≤ a then (e.2.2[a - e.2.1]?).getD b else b) old

/-- Bytes are stored at places one after another, and nothing else differs but poison that is cleared (03 R54) and the sleep of WAITLs
(12 R272). -/
def StoredAll (s t : State) (l : List (Nat × Nat × List Byte)) : Prop :=
  t = { s with hbm := t.hbm, win := t.win, lpddr := t.lpddr, cxl := t.cxl, vregs := t.vregs, accs := t.accs, poison := t.poison,
               groups := t.groups } ∧
  (∀ k a, k ≤ 4 → memByte t k a = storedByte l k a (memByte s k a)) ∧
  (∀ p ∈ t.poison, p ∈ s.poison) ∧
  ∀ id x, s.group? id = some x → ∃ y, t.group? id = some y ∧ y = { x with wait := y.wait }

/-- An event of the strongbox (15 R331): a record of the event, or one more in DROP while it is frozen. -/
def Recorded (s t : State) (src unit : Nat) : Prop :=
  (s.sbFrozen = true → t = { s with sbDrop := if s.sbDrop.toNat < 65535 then s.sbDrop + 1 else s.sbDrop }) ∧
  (s.sbFrozen = false → t = { s with strongbox := t.strongbox, sbWidx := s.sbWidx + 1 } ∧
    (∀ k, k ≠ s.sbWidx.toNat % 4096 → storeGet t.strongbox k = storeGet s.strongbox k) ∧
    let r := storeGet t.strongbox (s.sbWidx.toNat % 4096)
    r.extractLsb' 0 64 = BitVec.ofNat 64 s.time ∧ r.extractLsb' 64 32 = s.sbWidx ∧ r.extractLsb' 96 8 = BitVec.ofNat 8 src ∧
    r.extractLsb' 112 16 = BitVec.ofNat 16 unit)

/-- No TLB holds an entry for which p holds, and every other entry stays (03 R65). -/
def Dropped (s t : State) (p : TlbEnt → Bool) : Prop :=
  t = { s with cores := t.cores, clusters := t.clusters, l2tlb := t.l2tlb, icache := t.icache } ∧
  (∀ c, t.core c = { s.core c with tlb := (s.core c).tlb.filter fun e => !p e }) ∧
  (∀ c, t.cluster c = { s.cluster c with tlb := (s.cluster c).tlb.filter fun e => !p e }) ∧
  (∀ d, (tabGet t.l2tlb d).getD [] = ((tabGet s.l2tlb d).getD []).filter fun e => !p e) ∧
  ∀ x ∈ t.icache, x ∈ s.icache

/-- An instruction that is not legal by its encoding traps ILL with its word and does nothing else (02 R41, R42, R357); its group is not in the
middle of an instruction that waits for room or for the answers of an atomic. -/
def TrapsIll (s : State) (g : Group) (i : Instr) : Prop :=
  Current s g → midIssue g = false → exec i s = .next (raiseAll s s.cur g .ill ((wordOf i).setWidth 64))

/-- A trap of the instruction at hand as a whole, whose TLM is EM and whose EDONE is empty (13 R284, R286). -/
def wholeTrap (s : State) (g : Group) (c : Cause) (v : Dword) : State := takeTrap (s.setGroup s.cur { g with dm := 0 }) s.cur c v g.em g.epc

/-- A word to which no instruction belongs: a turn that issues it traps ILL with it (02 R41, R357). -/
def IllWord (w : Word) : Prop :=
  decodeWord w = none ∧ ∀ s id, decodeAct s id (w : Word) = .done (boundaryTrap s id .ill (w.setWidth 64))

end Sys2Proof.Machine
end

