-- ==== Sys2Proof/Certificates/Slice0/Obligations.lean ====
section
/-! DEFINITION. The statements for the provers: what the rules of the specification ask of the machine. The terms they use (Issues,
Gives, LaneResult, OwnGroup and their like) are those of Safety.lean. -/
open Sys2Proof Sys2Proof.Machine

/-- R137 (and R136, R138 for IMNX): the exact value of the operands as the type reads them, reduced as the type says, in every active lane; a
type that an instruction does not accept traps ILL. -/
def Obligations.IntegerArithmeticGivesTypedValues : Prop :=
  ∀ (s : State) (g : Group) (d a b : BitVec 7) (f : BitVec 4) (m : BitVec 1) (t : BitVec 2),
    let x := fun (f : BitVec 4) l => typedRead f (srcA s g a (typedRegs f) l)
    let y := fun (f : BitVec 4) l => typedRead f (srcB s g b (typedRegs f) l)
    let z := fun (f : BitVec 4) l => typedRead f (srcD s g d (typedRegs f) l)
    let u := t.setWidth 4
    Gives s g (.iadd d a b f) d (typedRegs f) (fun l => typedValue f (x f l + y f l)) ∧
    Gives s g (.isub d a b f) d (typedRegs f) (fun l => typedValue f (x f l - y f l)) ∧
    Gives s g (.imul d a b f) d (typedRegs f) (fun l => typedValue f (x f l * y f l)) ∧
    Gives s g (.imulh d a b f) d (typedRegs f) (fun l => typedValue f (x f l * y f l / 2 ^ (32 * typedRegs f))) ∧
    Gives s g (.imad d a b f) d (typedRegs f) (fun l => typedValue f (x f l * y f l + z f l)) ∧
    Gives s g (.imnx d a b m t) d (typedRegs u)
      (fun l => typedValue u (if m = 0#1 then min (x u l) (y u l) else max (x u l) (y u l))) ∧
    (wordOf (.iadd d a b f) = 0x10#7 ++ d ++ a ++ b ++ f ∧ wordOf (.isub d a b f) = 0x11#7 ++ d ++ a ++ b ++ f ∧
      wordOf (.imul d a b f) = 0x12#7 ++ d ++ a ++ b ++ f ∧ wordOf (.imulh d a b f) = 0x13#7 ++ d ++ a ++ b ++ f ∧
      wordOf (.imad d a b f) = 0x14#7 ++ d ++ a ++ b ++ f) ∧
    ((5 < f.toNat → TrapsIll s g (.iadd d a b f) ∧ TrapsIll s g (.isub d a b f) ∧ TrapsIll s g (.imul d a b f) ∧ TrapsIll s g (.imad d a b f)) ∧
      (3 < f.toNat → TrapsIll s g (.imulh d a b f)))

/-- R138 (Table 7): the bitwise operations and the shifts, on 32 bits or, with f[1], on 64. -/
def Obligations.BitwiseAndShiftsGiveTable7Values : Prop :=
  ∀ (s : State) (g : Group) (d a b : BitVec 7) (f : BitVec 2),
    let n := if f.getLsbD 1 then 2 else 1
    let x := srcA s g a n
    let y := srcB s g b n
    let k := fun l => (b32 s g b l).toNat % (32 * n)
    let shift := fun (on32 : Word → Nat → Word) (on64 : Dword → Nat → Dword) (l : Nat) =>
      if n = 2 then (on64 ((x l).setWidth 64) (k l)).setWidth 128 else (on32 ((x l).setWidth 32) (k l)).setWidth 128
    Gives s g (.and d a b f) d n (fun l => x l &&& y l) ∧
    Gives s g (.or d a b f) d n (fun l => x l ||| y l) ∧
    Gives s g (.xor d a b f) d n (fun l => x l ^^^ y l) ∧
    Gives s g (.andn d a b f) d n (fun l => x l &&& ~~~(y l)) ∧
    Gives s g (.shl d a b f) d n (shift (· <<< ·) (· <<< ·)) ∧
    Gives s g (.shr d a b f) d n (shift (· >>> ·) (· >>> ·)) ∧
    Gives s g (.sra d a b f) d n (shift BitVec.sshiftRight BitVec.sshiftRight) ∧
    Gives s g (.rot d a b f) d n (shift BitVec.rotateLeft BitVec.rotateLeft)

/-- R138, R139: bit counts and reversal, bit fields, selection and moves. The field of BFX and BFI is bits pos up to
min (pos + len, 32) of the word; bit i of each result is said for itself. -/
def Obligations.BitFieldsSelectAndMove : Prop :=
  ∀ (s : State) (g : Group) (d a b : BitVec 7) (f : BitVec 3) (e : BitVec 1) (k : BitVec 4),
    let n := if f.getLsbD 2 then 2 else 1
    let pos := fun l => (b32 s g b l).toNat % 32
    let len := fun l => min ((b32 s g b l).toNat / 256 % 64) (32 - pos l)
    (f.extractLsb' 0 2 = 0#2 → Gives s g (.bits d a f) d 1 fun l =>
      BitVec.ofNat 128 ((List.range (32 * n)).filter fun i => (srcA s g a n l).getLsbD i).length) ∧
    (f.extractLsb' 0 2 = 1#2 → ∃ c : Nat → Nat, Gives s g (.bits d a f) d 1 (fun l => BitVec.ofNat 128 (c l)) ∧
      ∀ l, c l ≤ 32 * n ∧ (∀ i < c l, (srcA s g a n l).getLsbD (32 * n - 1 - i) = false) ∧
        (c l < 32 * n → (srcA s g a n l).getLsbD (32 * n - 1 - c l) = true)) ∧
    (f.extractLsb' 0 2 = 2#2 → ∃ c : Nat → Nat, Gives s g (.bits d a f) d 1 (fun l => BitVec.ofNat 128 (c l)) ∧
      ∀ l, c l ≤ 32 * n ∧ (∀ i < c l, (srcA s g a n l).getLsbD i = false) ∧
        (c l < 32 * n → (srcA s g a n l).getLsbD (c l) = true)) ∧
    (f.extractLsb' 0 2 = 3#2 → ∃ v : Nat → BitVec 128, Gives s g (.bits d a f) d n v ∧
      ∀ l i, i < 32 * n → (v l).getLsbD i = (srcA s g a n l).getLsbD (32 * n - 1 - i)) ∧
    (∃ v : Nat → BitVec 128, Gives s g (.bfx d a b e) d 1 v ∧ ∀ l i, i < 32 → (v l).getLsbD i =
      (if i < len l then (a32 s g a l).getLsbD (pos l + i)
       else (e == 1#1 && decide (0 < len l) && (a32 s g a l).getLsbD (pos l + len l - 1)))) ∧
    (∃ v : Nat → BitVec 128, Gives s g (.bfi d a b) d 1 v ∧ ∀ l i, i < 32 → (v l).getLsbD i =
      (if pos l ≤ i ∧ i < pos l + len l then (a32 s g a l).getLsbD (i - pos l) else (d32 s g d l).getLsbD i)) ∧
    Gives s g (.sel d a b k) d 1 (fun l => if (storeGet g.k k.toNat).getLsbD l then srcA s g a 1 l else srcB s g b 1 l) ∧
    Gives s g (.mov d a e) d (if e = 1#1 then 2 else 1) (srcA s g a (if e = 1#1 then 2 else 1))

/-- R141, R142 (SHFTI), R144, R145: the immediate group, 64-bit when d is a scalar and a is a scalar, z or gid; address addition;
the 64-bit divisions, widening products and extensions with their fixed edge cases. -/
def Obligations.ImmediatesAddressesAndI64GiveTheirValues : Prop :=
  (∀ (s : State) (g : Group) (d a : BitVec 7) (i : BitVec 11) (o : BitVec 2) (w : BitVec 1) (c : BitVec 6),
    let imm : Int := match g.preLit with
      | some p => (p ++ i).toInt
      | none => i.toInt
    let wide := fun (a : BitVec 7) => 96 ≤ d.toNat ∧ d.toNat ≤ 111 ∧ ((96 ≤ a.toNat ∧ a.toNat ≤ 112) ∨ a.toNat = 114)
    let n := if wide a then 2 else 1
    let m := if wide 112#7 then 2 else 1
    let v := BitVec.ofInt 128 imm
    let k := if w = 1#1 then 2 else 1
    let x := srcA s g a k
    Gives s g (.iaddi d a i) d n (fun l => srcA s g a n l + v) ∧
    Gives s g (.andi d a i) d n (fun l => srcA s g a n l &&& v) ∧
    Gives s g (.ori d a i) d n (fun l => srcA s g a n l ||| v) ∧
    Gives s g (.xori d a i) d n (fun l => srcA s g a n l ^^^ v) ∧
    Gives s g (.movi d i) d m (fun _ => v) ∧
    Gives s g (.shfti d a o w c) d k (fun l =>
      if w = 1#1 then
        (if o = 0#2 then ((x l).setWidth 64 <<< c.toNat).setWidth 128 else if o = 1#2 then ((x l).setWidth 64 >>> c.toNat).setWidth 128
         else if o = 2#2 then (((x l).setWidth 64).sshiftRight c.toNat).setWidth 128
         else (((x l).setWidth 64).rotateLeft c.toNat).setWidth 128)
      else
        (if o = 0#2 then ((x l).setWidth 32 <<< c.toNat).setWidth 128 else if o = 1#2 then ((x l).setWidth 32 >>> c.toNat).setWidth 128
         else if o = 2#2 then (((x l).setWidth 32).sshiftRight c.toNat).setWidth 128
         else (((x l).setWidth 32).rotateLeft c.toNat).setWidth 128))) ∧
  (∀ (s : State) (g : Group) (d a b : BitVec 7) (e sh : BitVec 2) (f : BitVec 3),
    let bx := fun l => if e = 0#2 then b64 s g b l else if e = 1#2 then (b32 s g b l).setWidth 64 else (b32 s g b l).signExtend 64
    let x := a64 s g a
    let y := b64 s g b
    let p := a32 s g a
    let q := b32 s g b
    Gives s g (.aadd d a b e sh) d 2 (fun l => (a64 s g a l + (bx l <<< sh.toNat)).setWidth 128) ∧
    Gives s g (.i64 d a b f) d 2 (fun l => BitVec.setWidth 128 (
      if f = 0#3 then (if y l = 0 then -1#64 else (x l).sdiv (y l))
      else if f = 1#3 then (if y l = 0 then -1#64 else x l / y l)
      else if f = 2#3 then (if y l = 0 then x l else (x l).srem (y l))
      else if f = 3#3 then (if y l = 0 then x l else x l % y l)
      else if f = 4#3 then (p l).signExtend 64 * (q l).signExtend 64
      else if f = 5#3 then (p l).setWidth 64 * (q l).setWidth 64
      else if f = 6#3 then (p l).signExtend 64 else (p l).setWidth 64)))

/-- R139, R142 (ICMPI), R159: what ICMP, ICMPI and VOTE write in the active lanes of their mask (FCMP stands with the comparisons of
FP32 values, KOP with the masks that are rebuilt). -/
def Obligations.ComparesAndVotesWriteMasks : Prop :=
  ∀ (s : State) (g : Group) (d a b : BitVec 7) (t c : BitVec 2) (ci : BitVec 3) (v : BitVec 8) (f : BitVec 4),
    let u := t.setWidth 4
    let x := fun l => typedRead u (srcA s g a (typedRegs u) l)
    let y := fun l => typedRead u (srcB s g b (typedRegs u) l)
    let w : Word := match g.preLit with
      | some p => BitVec.ofInt 32 ((p ++ v).toInt)
      | none => v.signExtend 32
    GivesMask s g (.icmp d a b t c) d (fun l =>
      decide (if c = 0#2 then x l = y l else if c = 1#2 then x l ≠ y l else if c = 2#2 then x l < y l else x l ≤ y l)) ∧
    GivesMask s g (.icmpi d a ci v) d (fun l =>
      let p := a32 s g a l
      decide (if ci = 0#3 then p = w else if ci = 1#3 then p ≠ w else if ci = 2#3 then p.toInt < w.toInt
        else if ci = 3#3 then p.toInt ≤ w.toInt else if ci = 4#3 then w.toInt < p.toInt else if ci = 5#3 then w.toInt ≤ p.toInt
        else if ci = 6#3 then p.toNat < w.toNat else w.toNat ≤ p.toNat)) ∧
    GivesMask s g (.vote d a f) d (fun l =>
      if f = 0#4 then decide (a32 s g a l ≠ 0) else if f = 1#4 then (a32 s g a l).getLsbD 0
      else if f = 2#4 then decide (a64 s g a l ≠ 0) else (a32 s g a l).getLsbD 31)

/-- R111, R112 (Tables 1, 2), R114, R117 (tininess after rounding), R118, R121 (Table 7): the tables of the formats, and RoundFloat of
a nonzero value m × 2^e and of the special values, with what FTZ makes of a subnormal result. -/
def Obligations.RoundFloatRoundsOnceToTheFormat : Prop :=
  ((fp32.maxBits, fp16.maxBits, bf16.maxBits, e4m3.maxBits, e5m2.maxBits) = (0x7F7FFFFF, 0x7BFF, 0x7F7F, 0x7E, 0x7B) ∧
  (fp32.canonNan, fp16.canonNan, bf16.canonNan, e4m3.canonNan, e5m2.canonNan) = (0x7FC00000, 0x7E00, 0x7FC0, 0x7F, 0x7E) ∧
  (decodeF fp16 0x7BFF).rat = 65504 ∧ (decodeF e4m3 0x7E).rat = 448 ∧ (decodeF e5m2 0xFB).rat = -57344 ∧
  (∀ f ∈ [fp32, fp16, bf16, e4m3, e5m2], (decodeF f (2 ^ f.fb)).rat = (2 : Rat) ^ f.emin ∧
    (decodeF f 1).rat = (2 : Rat) ^ (f.emin - f.fb) ∧ decodeF f f.canonNan = .nan false) ∧
  decodeF fp32 0x7F800001 = .nan true ∧ decodeF fp32 0xFF800000 = .inf true ∧ decodeF e4m3 0xFF = .nan false ∧
  decodeF e5m2 0xFC = .inf true ∧ decodeF fp16 0xFC01 = .nan true ∧ decodeF e5m2 0x7D = .nan false) ∧
  (∀ f ∈ [fp32, fp16, bf16, e4m3, e5m2], ∀ (rnd r m : Nat) (nsat neg : Bool) (e lg : Int),
    rnd < 3 → r < 65536 → 0 < m → (2 : Rat) ^ lg ≤ (m : Rat) * (2 : Rat) ^ e → (m : Rat) * (2 : Rat) ^ e < (2 : Rat) ^ (lg + 1) →
    let x := (m : Rat) * (2 : Rat) ^ e
    let q := (2 : Rat) ^ ((max lg f.emin) - (f.fb : Int))
    let y := roundAt rnd r x q
    let z := roundF f rnd nsat r false (.fin neg m e)
    (if (decodeF f f.maxBits).mag < y then
      z = (if rnd = 1 ∨ (f = e4m3 ∧ nsat = false) then f.signBit neg + f.maxBits
        else if f = e4m3 then f.canonNan else f.infBits neg, fOF ||| fNX)
    else (decodeF f z.1).finite = true ∧ (decodeF f z.1).mag = y ∧ isNegV (decodeF f z.1) = neg ∧ z.1 < 2 ^ f.bits ∧
      z.2 = (if y = x then 0 else fNX) |||
        (if y ≠ x ∧ roundAt rnd r x ((2 : Rat) ^ (lg - (f.fb : Int))) < (2 : Rat) ^ f.emin then fUF else 0))) ∧
  (∀ f ∈ [fp32, fp16, bf16, e4m3, e5m2], ∀ (rnd r m : Nat) (nsat ftz neg sg : Bool) (e : Int), rnd < 3 →
    roundF f rnd nsat r ftz (.nan sg) = (f.canonNan, if sg then fNV else 0) ∧
    roundF f rnd nsat r ftz (.inf neg) = (if f = e4m3 then (if nsat then 0x7F else if neg then 0xFE else 0x7E) else f.infBits neg, 0) ∧
    roundF f rnd nsat r ftz (.fin neg 0 e) = (f.signBit neg, 0) ∧
    (let z := roundF f rnd nsat r false (.fin neg m e)
     let v := decodeF f z.1
     let tiny := v.finite ∧ v.rat ≠ 0 ∧ v.mag < (2 : Rat) ^ f.emin
     (tiny → roundF f rnd nsat r true (.fin neg m e) = (f.signBit neg, z.2 ||| fUF ||| fNX)) ∧
     (¬ tiny → roundF f rnd nsat r true (.fin neg m e) = z)) ∧
    (∀ b < 2 ^ f.bits, let v := decodeF f b
      flushIn f false v = v ∧
      (v.finite = true → v.mag < (2 : Rat) ^ f.emin → (flushIn f true v).mag = 0 ∧ isNegV (flushIn f true v) = isNegV v) ∧
      (v.finite = true → (2 : Rat) ^ f.emin ≤ v.mag → flushIn f true v = v)))

/-- R146, R147: sums, products and fused multiply-adds are exact before their rounding, with the special values and zero signs of
IEEE 754-2019. -/
def Obligations.SumsAndProductsAreExact : Prop :=
  ∀ (s t u : Bool) (m n k : Nat) (e d c : Int),
    let x := Fval.fin s m e
    let y := Fval.fin t n d
    let z := Fval.fin u k c
    ((addV x y).2 = 0 ∧ (addV x y).1.finite = true ∧ (addV x y).1.rat = x.rat + y.rat) ∧
    ((mulV x y).2 = 0 ∧ (mulV x y).1.finite = true ∧ (mulV x y).1.rat = x.rat * y.rat ∧ isNegV (mulV x y).1 = (s != t)) ∧
    ((fmaV x y z).2 = 0 ∧ (fmaV x y z).1.finite = true ∧ (fmaV x y z).1.rat = x.rat * y.rat + z.rat) ∧
    (x.rat + y.rat = 0 → isNegV (addV x y).1 = (s && t)) ∧
    (addV (.inf s) (.inf t) = if s = t then (.inf s, 0) else (.nan false, fNV)) ∧
    (addV (.inf s) y = (.inf s, 0) ∧ addV x (.inf t) = (.inf t, 0)) ∧
    (mulV (.inf s) (.inf t) = (.inf (s != t), 0)) ∧
    (mulV (.inf s) y = if n = 0 then (.nan false, fNV) else (.inf (s != t), 0)) ∧
    (mulV x (.inf t) = if m = 0 then (.nan false, fNV) else (.inf (s != t), 0)) ∧
    (∀ v, isNanV (addV (.nan s) v).1 ∧ isNanV (mulV (.nan s) v).1 ∧ isNanV (addV v (.nan s)).1 ∧ isNanV (mulV v (.nan s)).1 ∧
      (addV (.nan s) v).2 = (if s || isSnanV v then fNV else 0) ∧ (mulV v (.nan s)).2 = (if s || isSnanV v then fNV else 0)) ∧
    ((fmaV (.inf s) (.fin t 0 d) (.nan u)) = (.nan false, fNV))

/-- R115, R116, R118, R146, R147, R156 (FSCL): the FP32 arithmetic, an exact value rounded once by its code, with FTZ on its inputs; the
draws of lanes 0, 1 and 32 of a generator value of the example of R116, and a generator never reaches zero. -/
def Obligations.FloatArithmeticRoundsTheExactValue : Prop :=
  (∀ (s : State) (g : Group) (d a b : BitVec 7) (r : BitVec 2),
    let x := fun l => fpIn g (a32 s g a l)
    let y := fun l => fpIn g (b32 s g b l)
    let z := fun l => fpIn g (d32 s g d l)
    let res := fun (v : Nat → Fval × Flagset) (w : Word) (l : Nat) =>
      roundF fp32 r.toNat false (if r = 2#2 then srDraw w l else 0) (ftzOf g) (v l).1
    let gives := fun (i : Instr) (v : Nat → Fval × Flagset) =>
      GivesFp s g i d (r == 2#2) (fun w l => BitVec.ofNat 128 (res v w l).1) (fun w l => (v l).2 ||| (res v w l).2)
    gives (.fadd d a b r) (fun l => addV (x l) (y l)) ∧
    gives (.fsub d a b r) (fun l => addV (x l) (negV (y l))) ∧
    gives (.fmul d a b r) (fun l => mulV (x l) (y l)) ∧
    gives (.ffma d a b r) (fun l => fmaV (x l) (y l) (z l)) ∧
    gives (.fscl d a b r) (fun l => (match x l with
      | .fin n m e => .fin n m (e + (b32 s g b l).toInt)
      | v => v, 0))) ∧
  ((∀ (w : Word) (i : Nat), srDraw w i = ((w.rotateLeft (i % 32)).extractLsb' 16 16).toNat ∧ srDraw w (i + 32) = srDraw w i ∧
    srDraw w i < 65536) ∧
  (∀ (w : Word) (i d k : Nat), d < 16 → k + d < 16 →
    (BitVec.ofNat 16 (srDraw w (i + d))).getLsbD (k + d) = (BitVec.ofNat 16 (srDraw w i)).getLsbD k) ∧
  (srDraw 0x80000001#32 0, srDraw 0x80000001#32 1, srDraw 0x80000001#32 32) = (0x8000, 0, 0x8000) ∧
  (∀ g : Word, g ≠ 0 → genStep g ≠ 0))

/-- R148, R149, R150, R157: minimum and maximum, comparison, sign and class of FP32 values. -/
def Obligations.FloatComparisonSignAndClass : Prop :=
  ∀ (s : State) (g : Group) (d a b : BitVec 7) (c : BitVec 3) (f : BitVec 4) (m : BitVec 1),
    let x := fun l => fpIn g (a32 s g a l)
    let y := fun l => fpIn g (b32 s g b l)
    let un := fun l => isNanV (x l) || isNanV (y l)
    let sn := fun l => isSnanV (x l) || isSnanV (y l)
    let less := fun l => (x l).below (y l)
    let more := fun l => (y l).below (x l)
    let cond := fun l =>
      if c = 0#3 then !un l && !less l && !more l else if c = 1#3 then un l || less l || more l
      else if c = 2#3 then less l else if c = 3#3 then !un l && !more l
      else if c = 4#3 then more l else if c = 5#3 then !un l && !less l
      else if c = 6#3 then un l else !un l
    let fl := unionFlags (g.active.map fun l => if (if 2 ≤ c.toNat ∧ c.toNat ≤ 5 then un l else sn l) then fNV else 0)
    (Issues s g (.fcmp d a b c) →
      (fl &&& fpEnables g = 0 → ∃ t, exec (.fcmp d a b c) s = .next t ∧ ∃ k : Dword,
        (∀ l, l < 64 → k.getLsbD l = (decide (l ∈ g.active) && cond l)) ∧
        OwnGroup s t { g.goesOn with k := storeSet g.k d.toNat k, fpstat := g.fpstat ||| fl }) ∧
      (fl &&& fpEnables g ≠ 0 → exec (.fcmp d a b c) s = .next (raiseAll s s.cur g .fpx (fl.setWidth 64)))) ∧
    Gives s g (.fsgn d a b f) d 1 (fun l =>
      let p := a32 s g a l
      let q := b32 s g b l
      BitVec.setWidth 128 (if isNanV (decodeF fp32 p.toNat) then 0x7FC00000#32
        else if f = 0#4 then q.extractLsb' 31 1 ++ p.extractLsb' 0 31
        else if f = 1#4 then ~~~(q.extractLsb' 31 1) ++ p.extractLsb' 0 31
        else if f = 2#4 then (p.extractLsb' 31 1 ^^^ q.extractLsb' 31 1) ++ p.extractLsb' 0 31
        else if f = 3#4 then 0#1 ++ p.extractLsb' 0 31 else ~~~(p.extractLsb' 31 1) ++ p.extractLsb' 0 31)) ∧
    (∃ k : Nat → Nat, Gives s g (.fic d a f) d 1 (fun l => BitVec.ofNat 128 (2 ^ k l)) ∧ ∀ l,
      let h := if f = 0#4 then fp32 else if f = 1#4 ∨ f = 2#4 then fp16 else bf16
      let e := if f = 0#4 then (a32 s g a l).toNat else (a32 s g a l).toNat / 2 ^ (if f = 1#4 ∨ f = 3#4 then 0 else 16) % 65536
      let v := decodeF h e
      k l < 10 ∧ (k l = 8 ↔ isSnanV v) ∧ (k l = 9 ↔ isNanV v ∧ isSnanV v = false) ∧ (k l = 0 ↔ v = .inf true) ∧
        (k l = 7 ↔ v = .inf false) ∧ (k l = 3 ∨ k l = 4 ↔ v.finite ∧ v.mag = 0) ∧
        (k l = 2 ∨ k l = 5 ↔ v.finite ∧ v.mag ≠ 0 ∧ v.mag < (2 : Rat) ^ h.emin) ∧
        (k l ≤ 3 → 2 ^ (h.bits - 1) ≤ e) ∧ (4 ≤ k l → k l ≤ 7 → e < 2 ^ (h.bits - 1))) ∧
    (wordOf (.fmin d a b m) = 0x34#7 ++ d ++ a ++ b ++ 0#3 ++ m ∧ wordOf (.fmax d a b m) = 0x35#7 ++ d ++ a ++ b ++ 0#3 ++ m ∧
      wordOf (.fcmp d a b c) = 0x36#7 ++ d ++ a ++ b ++ 0#1 ++ c ∧ wordOf (.fsgn d a b f) = 0x37#7 ++ d ++ a ++ b ++ f ∧
      wordOf (.fic d a f) = 0x47#7 ++ d ++ a ++ 112#7 ++ f) ∧
    ((2 ≤ f.toNat → IllWord (0x34#7 ++ d ++ a ++ b ++ f) ∧ IllWord (0x35#7 ++ d ++ a ++ b ++ f)) ∧
      (8 ≤ f.toNat → IllWord (0x36#7 ++ d ++ a ++ b ++ f)) ∧ (16 ≤ d.toNat → TrapsIll s g (.fcmp d a b c)) ∧
      (5 ≤ f.toNat ∨ (3 ≤ f.toNat ∧ b ≠ 112#7) → TrapsIll s g (.fsgn d a b f)) ∧
      (b ≠ 112#7 → IllWord (0x47#7 ++ d ++ a ++ b ++ f)) ∧ (5 ≤ f.toNat → TrapsIll s g (.fic d a f))) ∧
    ∀ isMin, GivesFp s g (if isMin then .fmin d a b m else .fmax d a b m) d false
      (fun _ l => BitVec.ofNat 128 (
        if (isNanV (x l) && isNanV (y l)) || (m == 1#1 && un l) then 0x7FC00000
        else if isNanV (x l) then encodeF fp32 (y l) else if isNanV (y l) then encodeF fp32 (x l)
        else if (less l || (!more l && isNegV (x l) && !isNegV (y l))) == isMin then encodeF fp32 (x l) else encodeF fp32 (y l)))
      (fun _ l => if sn l then fNV else 0)

/-- R121, R122, R152 to R154: conversions and packed arithmetic. The source is decoded in its format, with FTZ on it, and rounded once,
directly to its target, by RoundFloat or to an integer; an integer source is rounded as the number that it is, and INT32 to INT8 saturates.
Element e of a packed result of n bits draws as lane i + n × e. That FCVT draws for element j is the model's reading (log 37). -/
def Obligations.ConversionsAndPackedArithmetic : Prop :=
  ∀ (s : State) (g : Group) (d a b : BitVec 7) (sf tf : BitVec 3) (n : BitVec 1) (j r t : BitVec 2) (f : BitVec 1),
    let el := fun (n e : Nat) (x : BitVec 128) => x.toNat / 2 ^ (n * e) % 2 ^ n
    let draw := fun (w : Word) l n e => if r = 2#2 then srDraw w (l + n * e) else 0
    let src := fun l => if fmtBits sf = 32 then (a32 s g a l).toNat else el (fmtBits sf) j.toNat (srcA s g a 1 l)
    let cv := fun w l => convertE sf.toNat tf.toNat r.toNat (n == 1#1) (draw w l (if fmtBits tf = 32 then 0 else fmtBits tf) j.toNat)
      (ftzOf g) (src l)
    let h := if f = 0#1 then fp16 else bf16
    let at16 := fun (x : BitVec 128) e => flushIn h (ftzOf g) (decodeF h (el 16 e x))
    let packed := fun (i : Instr) (op : Nat → Nat → Fval × Flagset) =>
      let z := fun w l e => roundF h r.toNat false (draw w l 16 e) (ftzOf g) (op l e).1
      GivesFp s g i d (r == 2#2)
        (fun w l => BitVec.setWidth 128 (BitVec.ofNat 16 (z w l 1).1 ++ BitVec.ofNat 16 (z w l 0).1))
        (fun w l => (op l 0).2 ||| (z w l 0).2 ||| ((op l 1).2 ||| (z w l 1).2))
    let tgt := if t = 0#2 then e4m3 else if t = 1#2 then e5m2 else if t = 2#2 then bf16 else fp16
    let k := if t.ult 2#2 then 4 else 2
    let pv := fun l e => mulV (fpIn g ((srcA s g a k l).extractLsb' (32 * e) 32)) (fpIn g (b32 s g b l))
    let ps := fun w l e => roundF tgt r.toNat false (draw w l tgt.bits e) (ftzOf g) (pv l e).1
    GivesFp s g (.fcvt d a sf tf n j r) d (r == 2#2)
      (fun w l => if fmtBits tf = 32 then BitVec.ofNat 128 (cv w l).1
        else let z := d32 s g d l
          let m := fmtBits tf
          BitVec.ofNat 128 (z.toNat % 2 ^ (m * j.toNat) + (cv w l).1 * 2 ^ (m * j.toNat) +
            z.toNat / 2 ^ (m * (j.toNat + 1)) * 2 ^ (m * (j.toNat + 1))))
      (fun w l => (cv w l).2) ∧
    GivesFp s g (.fcvts d a b t r) d (r == 2#2)
      (fun w l => if t.ult 2#2 then
          BitVec.setWidth 128 (BitVec.ofNat 8 (ps w l 3).1 ++ BitVec.ofNat 8 (ps w l 2).1 ++ BitVec.ofNat 8 (ps w l 1).1 ++
            BitVec.ofNat 8 (ps w l 0).1)
        else BitVec.setWidth 128 (BitVec.ofNat 16 (ps w l 1).1 ++ BitVec.ofNat 16 (ps w l 0).1))
      (fun w l => unionFlags ((List.range k).map fun e => (pv l e).2 ||| (ps w l e).2)) ∧
    (∀ (sc tc rnd w x : Nat) (nsat ftz : Bool), 1 ≤ sc → sc ≤ 7 → 1 ≤ tc → tc ≤ 7 →
      let fmt := fun c : Nat => if c = 1 then fp32 else if c = 2 then fp16 else if c = 3 then bf16 else if c = 4 then e4m3 else e5m2
      let bits := fun c : Nat => if c = 6 then 8 else 32
      let v := flushIn (fmt sc) ftz (decodeF (fmt sc) x)
      let i := (BitVec.ofNat (bits sc) x).toInt
      let z := toInt (bits tc) rnd w v
      let c := convertE sc tc rnd nsat w ftz x
      (sc ≤ 5 → tc ≤ 5 → c = roundF (fmt tc) rnd nsat w ftz v) ∧
      (sc ≤ 5 → 6 ≤ tc → c = ((BitVec.ofInt (bits tc) z.1).toNat, z.2)) ∧
      (6 ≤ sc → tc ≤ 5 → c = roundF (fmt tc) rnd nsat w ftz (.fin (decide (i < 0)) i.natAbs 0)) ∧
      (sc = 7 → tc = 6 → c = ((BitVec.ofInt 8 (max (-128) (min 127 i))).toNat, if -128 ≤ i ∧ i ≤ 127 then 0 else fNV))) ∧
    packed (.hadd2 d a b f r) (fun l e => addV (at16 (srcA s g a 1 l) e) (at16 (srcB s g b 1 l) e)) ∧
    packed (.hmul2 d a b f r) (fun l e => mulV (at16 (srcA s g a 1 l) e) (at16 (srcB s g b 1 l) e)) ∧
    packed (.hfma2 d a b f r) (fun l e => fmaV (at16 (srcA s g a 1 l) e) (at16 (srcB s g b 1 l) e) (at16 (srcD s g d 1 l) e))

/-- R122, R156 (FRND): what conversion to an integer and rounding to an integral value give, over the reals. -/
def Obligations.IntegerRoundingOverTheReals : Prop :=
  (∀ (n rnd r m : Nat) (neg : Bool) (e : Int), n = 8 ∨ n = 32 → rnd < 3 → r < 65536 →
    let x := (m : Rat) * (2 : Rat) ^ e
    let y := roundAt rnd r x 1
    let v := if neg then -y else y
    let z := toInt n rnd r (.fin neg m e)
    (v < -(2 : Rat) ^ (n - 1) → z = (-(2 : Int) ^ (n - 1), fNV)) ∧
    ((2 : Rat) ^ (n - 1) ≤ v → z = ((2 : Int) ^ (n - 1) - 1, fNV)) ∧
    (-(2 : Rat) ^ (n - 1) ≤ v → v < (2 : Rat) ^ (n - 1) → (z.1 : Rat) = v ∧ z.2 = if y = x then 0 else fNX)) ∧
  (∀ (n rnd r : Nat) (sg : Bool), toInt n rnd r (.nan sg) = (0, fNV) ∧ toInt n rnd r (.inf true) = (-(2 : Int) ^ (n - 1), fNV) ∧
    toInt n rnd r (.inf false) = ((2 : Int) ^ (n - 1) - 1, fNV)) ∧
  (∀ (s : State) (g : Group) (d a : BitVec 7) (f : BitVec 4), ∃ v : Nat → Word,
    GivesFp s g (.frnd d a f) d false (fun _ l => (v l).setWidth 128)
      (fun _ l => if isSnanV (fpIn g (a32 s g a l)) then fNV else 0) ∧
    ∀ l, f.toNat < 5 →
      let x := fpIn g (a32 s g a l)
      let z := decodeF fp32 (v l).toNat
      (isNanV x → v l = 0x7FC00000#32) ∧ (∀ n, x = .inf n → z = x) ∧
      (x.finite → z.finite ∧ isNegV z = isNegV x ∧ z.mag =
        (if f = 0#4 then roundAt 0 0 x.mag 1
         else if f = 1#4 ∨ (f = 2#4 ∧ isNegV x = false) ∨ (f = 3#4 ∧ isNegV x = true) then (x.mag.floor : Rat)
         else if f = 4#4 then ((x.mag + 1 / 2).floor : Rat) else (x.mag.ceil : Rat))))

/-- R155 (and R147): DOT4. The floating sum is exact before its one rounding; infinities of both signs among its terms give NaN and NV, also
beside a quiet NaN, which is the model's reading (log 33). -/
def Obligations.DotProductsAreExactBeforeTheRounding : Prop :=
  ∀ (s : State) (g : Group) (d a b : BitVec 7) (f : BitVec 4),
    let el := fun (x : Word) j => x.toNat / 2 ^ (8 * j) % 256
    let fa := if f = 0#4 ∨ f = 2#4 then e4m3 else e5m2
    let fb := if f = 0#4 ∨ f = 3#4 then e4m3 else e5m2
    let x := fun l j => flushIn fa (ftzOf g) (decodeF fa (el (a32 s g a l) j))
    let y := fun l j => flushIn fb (ftzOf g) (decodeF fb (el (b32 s g b l) j))
    let z := fun l => fpIn g (d32 s g d l)
    let si := fun v : Nat => if v < 128 then (v : Int) else (v : Int) - 256
    let sum := fun l => (d32 s g d l).toInt + (((List.range 4).map fun j => si (el (a32 s g a l) j) * si (el (b32 s g b l) j)).sum)
    (4 ≤ f.toNat → GivesFp s g (.dot4 d a b f) d false (fun _ l => typedValue (if f = 5#4 then 4#4 else 0#4) (sum l)) (fun _ _ => 0)) ∧
    (f.toNat < 4 → ∃ v : Nat → Fval × Flagset,
      GivesFp s g (.dot4 d a b f) d false (fun _ l => BitVec.ofNat 128 (roundF fp32 0 false 0 (ftzOf g) (v l).1).1)
        (fun _ l => (v l).2 ||| (roundF fp32 0 false 0 (ftzOf g) (v l).1).2) ∧
      ∀ l,
        ((z l).finite → (∀ j < 4, (x l j).finite ∧ (y l j).finite) → (v l).2 = 0 ∧ (v l).1.finite ∧
          (v l).1.rat = (z l).rat + (((List.range 4).map fun j => (x l j).rat * (y l j).rat).sum) ∧
          ((v l).1.rat = 0 → isNegV (v l).1 = (isNegV (z l) && (List.range 4).all fun j => isNegV (x l j) != isNegV (y l j)))) ∧
        (isNanV (z l) ∨ (∃ j < 4, isNanV (x l j) ∨ isNanV (y l j) ∨ isNanV (mulV (x l j) (y l j)).1) → isNanV (v l).1) ∧
        (let inf := fun n => z l = .inf n ∨ ∃ j < 4, (mulV (x l j) (y l j)).1 = .inf n
         let both := inf true ∧ inf false
         let bad := isSnanV (z l) ∨ ∃ j < 4, (mulV (x l j) (y l j)).2 = fNV
         (both → isNanV (v l).1) ∧ (bad ∨ both → (v l).2 = fNV) ∧ (¬ bad → ¬ both → (v l).2 = 0) ∧
         (isNanV (v l).1 = false → ∀ n, inf n → (v l).1 = .inf n)))

/-- R35 to R38, R140, R151, R118: the long-latency instructions. The quotient is rounded toward zero; a zero divisor gives all ones, or the
dividend. LONG_LATENCY_RESULT writes the oldest result that is not yet written, which is the model's choice (log 6); a lane that its window
has written since keeps that value or takes the result, and the windows of earlier instructions see its lanes written. A window stays until
it closes, each instruction brings it one nearer, and the result of a window that has closed is written before the group issues. -/
def Obligations.LongLatencyResultsLand : Prop :=
  (∀ (s : State) (g : Group) (d a b : BitVec 7) (la : BitVec 4),
    let p := a32 s g a
    let q := b32 s g b
    let late := fun (i : Instr) (u : Flagset) (f : Nat → Word) => GivesLate s g i d la u (fun l => (f l).setWidth 128)
    let func := fun (i : Instr) (h : Bool → Word → Fval → Word × Flagset) =>
      let r := fun l => h (ftzOf g) (p l) (fpIn g (p l))
      let u := unionFlags (g.active.map fun l => (r l).2)
      Issues s g i → (u &&& fpEnables g = 0 → late i u fun l => (r l).1) ∧
        (u &&& fpEnables g ≠ 0 → exec i s = .next (raiseAll s s.cur g .fpx (u.setWidth 64)))
    (Issues s g (.idiv d a b la) → late (.idiv d a b la) 0 fun l => if q l = 0 then -1#32 else (p l).sdiv (q l)) ∧
    (Issues s g (.irem d a b la) → late (.irem d a b la) 0 fun l => if q l = 0 then p l else (p l).srem (q l)) ∧
    func (.frcp d a la) rcpF ∧ func (.frsq d a la) rsqF ∧ func (.fexp2 d a la) exp2F ∧ func (.flog2 d a la) log2F ∧
    func (.fsin d a la) (trigF false) ∧ func (.fcos d a la) (trigF true) ∧ func (.ftanh d a la) tanhF) ∧
  (∀ (s : State) (n : GroupId) (g : Group) (o : Outstanding) (pre r : List Outstanding), s.group? n = some g →
    o.vals.Pairwise (fun e f => (e.1, e.2.1) ≠ (f.1, f.2.1) ∧ regCell n g e.1 e.2.1 ≠ regCell n g f.1 f.2.1) →
    o.svals.Pairwise (fun e f => e.1 ≠ f.1) →
    let lands := fun (c : Nat × Nat) => !o.dirty.contains c || Config.windowChoice s.fresh c.1 c.2
    let cells := o.vals.map (fun e => (e.1, e.2.1)) ++ o.svals.map fun e => (512 + e.1, 0)
    let seen := fun (w : Outstanding) => if w.num < o.num then
      { w with dirty := w.dirty ++ cells.filter fun c => lands c && w.regs.contains c.1 && !w.dirty.contains c } else w
    let landed := fun (t : State) (g' : Group) =>
      t = { s with vregs := t.vregs, sregs := t.sregs, poison := t.poison, groups := t.groups, fresh := t.fresh } ∧
      (∀ p ∈ t.poison, p ∈ s.poison) ∧ (∀ m, m ≠ n → t.group? m = s.group? m) ∧
      (∀ e ∈ o.vals, lands (e.1, e.2.1) → cellGet t (regCell n g e.1 e.2.1) = e.2.2) ∧
      (∀ c, (∀ e ∈ o.vals, lands (e.1, e.2.1) → c ≠ regCell n g e.1 e.2.1) → cellGet t c = cellGet s c) ∧
      t.group? n = some g' ∧
      (∀ e ∈ o.svals, lands (512 + e.1, 0) → storeGet g'.s e.1 = e.2) ∧
      (∀ k, (∀ e ∈ o.svals, lands (512 + e.1, 0) → k ≠ e.1) → storeGet g'.s k = storeGet g.s k)
    (g.out = pre ++ o :: r → (∀ x ∈ pre, x.vals = [] ∧ x.svals = []) → o.vals ≠ [] ∨ o.svals ≠ [] →
      ∃ t g', exec (.longLatencyResult n) s = .next t ∧ landed t g' ∧
        g' = { g with s := g'.s, out := (pre ++ { o with vals := [], svals := [] } :: r).map seen }) ∧
    (n = s.cur → g.out = pre ++ o :: r → o.left = 0 → (∀ w ∈ pre ++ r, w.left ≠ 0) →
      ∃ t g', landed t g' ∧ g' = { g with s := g'.s, out := (pre ++ r).map seen, eccNow := g.eccNow ++ o.ecc.toList } ∧
        (∀ i body, issue i s body = issue i t body) ∧
        ∀ d a b f, exec (.iadd d a b f) s = exec (.iadd d a b f) t ∧ exec (.mov d a 0) s = exec (.mov d a 0) t) ∧
    (n = s.cur → (∀ w ∈ g.out, w.left ≠ 0) → g.eccNow = [] → checkIssue s n g .nop = none →
      ∃ t, exec .nop s = .next t ∧ t.group? n = some { g.goesOn with out := g.out.map fun w => { w with left := w.left - 1 } }))

/-- R151 (Table 13): the exact and the special results of the functions, the enclosure of 1/x and 1/√x, and the bounds of the others. The result
within a bound is a free value, and the bounds are said of the function as it is computed in fixed point of 160 fraction bits, to a part in
2^60 (log 7). -/
def Obligations.FunctionsReturnTable13Results : Prop :=
  ∀ (x : Word) (ftz : Bool),
    let v := decodeF fp32 x.toNat
    let neg := isNegV v
    let big := fun (w : Word) => decodeF fp32 w.toNat
    let near := fun (r : Word × Flagset) (below above : Rat → Prop) => ∃ lo : Word, lo.toNat < 0x7F800000 ∧ below (big lo).mag ∧
      (lo.toNat + 1 < 0x7F800000 → above (big (lo + 1)).mag) ∧ (r.1 = signedW neg lo ∨ r.1 = signedW neg (lo + 1)) ∧
      r.2 = (if (big r.1).finite = false then fOF ||| fNX else if (big r.1).mag < (2 : Rat) ^ (-126 : Int) then fUF ||| fNX else fNX)
    (∀ sg, v = .nan sg → (∀ h ∈ [rcpF, rsqF, exp2F, log2F, trigF false, trigF true, tanhF], h ftz x v = (0x7FC00000#32, if sg then fNV else 0))) ∧
    (∀ n, v = .inf n → rcpF ftz x v = (signedW n 0, 0) ∧ rsqF ftz x v = (if n then (0x7FC00000#32, fNV) else (0, 0)) ∧
      exp2F ftz x v = (if n then 0 else 0x7F800000#32, 0) ∧ log2F ftz x v = (if n then (0x7FC00000#32, fNV) else (0x7F800000#32, 0)) ∧
      trigF false ftz x v = (0x7FC00000#32, fNV) ∧ trigF true ftz x v = (0x7FC00000#32, fNV) ∧
      tanhF ftz x v = (signedW n 0x3F800000#32, 0)) ∧
    (v.finite → v.mag = 0 → rcpF ftz x v = (signedW neg 0x7F800000#32, fDZ) ∧ rsqF ftz x v = (signedW neg 0x7F800000#32, fDZ) ∧
      exp2F ftz x v = (0x3F800000#32, 0) ∧ log2F ftz x v = (0xFF800000#32, fDZ) ∧ trigF false ftz x v = (signedW neg 0, 0) ∧
      trigF true ftz x v = (0x3F800000#32, 0) ∧ tanhF ftz x v = (signedW neg 0, 0)) ∧
    (v.finite → v.mag ≠ 0 →
      (v.mag < (2 : Rat) ^ (-128 : Int) → rcpF ftz x v = (signedW neg 0x7F800000#32, fOF ||| fNX)) ∧
      (∀ n : Int, v.mag = (2 : Rat) ^ n → -127 ≤ n → n ≤ 126 → (rcpF ftz x v).2 = 0 ∧ (big (rcpF ftz x v).1).rat = 1 / v.rat) ∧
      ((2 : Rat) ^ (-128 : Int) ≤ v.mag → (∀ n : Int, v.mag = (2 : Rat) ^ n → n < -127 ∨ 126 < n) →
        near (rcpF false x v) (fun r => r * v.mag ≤ 1) (fun r => 1 < r * v.mag)) ∧
      (neg = true → rsqF ftz x v = (0x7FC00000#32, fNV) ∧ log2F ftz x v = (0x7FC00000#32, fNV)) ∧
      (neg = false → ∀ n : Int, v.mag = (2 : Rat) ^ (2 * n) → (rsqF ftz x v).2 = 0 ∧ (big (rsqF ftz x v).1).rat = (2 : Rat) ^ (-n)) ∧
      (neg = false → (∀ n : Int, v.mag ≠ (2 : Rat) ^ (2 * n)) →
        near (rsqF false x v) (fun r => r * r * v.mag ≤ 1) (fun r => 1 < r * r * v.mag)) ∧
      (128 ≤ v.rat → exp2F ftz x v = (0x7F800000#32, fOF ||| fNX)) ∧ (v.rat < -149 → exp2F ftz x v = (0, fUF ||| fNX)) ∧
      (∀ n : Int, v.rat = n → -126 ≤ n → n < 128 → (exp2F ftz x v).2 = 0 ∧ (big (exp2F ftz x v).1).rat = (2 : Rat) ^ n) ∧
      (∀ n : Int, v.rat = n → -149 ≤ n → n < -126 → (exp2F false x v).2 = 0 ∧ (big (exp2F false x v).1).rat = (2 : Rat) ^ n) ∧
      (neg = false → ∀ n : Int, v.mag = (2 : Rat) ^ n → (log2F ftz x v).2 = 0 ∧ (big (log2F ftz x v).1).rat = n) ∧
      (9 ≤ v.mag → tanhF ftz x v = (signedW neg 0x3F800000#32, fNX))) ∧
    -- the bounds: a result is at most w from the value a
    (∀ n m e, v = .fin n m e → m ≠ 0 →
      let within := fun (r : Word × Flagset) (a : Fval) (w : Rat) => ∃ c : Word, r = inexactRes ftz c ∧ (big c).finite = true ∧
        (big c).rat - a.rat ≤ w ∧ a.rat - (big c).rat ≤ w
      let part := 1 / (2 : Rat) ^ (60 : Nat)
      let ulp := fun (a : Fval) => (2 : Rat) ^ ulpExp a
      let p := exp2Val n m e
      let q := log2Val m e
      let t := tanhVal n m e
      (v.rat < 128 → -149 ≤ v.rat → (∀ k : Int, v.rat ≠ k) → p.mag ≤ (2 : Rat) ^ (128 : Nat) - (2 : Rat) ^ (104 : Nat) →
        within (exp2F ftz x v) p ((2 + part) * ulp p)) ∧
      (n = false → (∀ k : Int, v.rat ≠ (2 : Rat) ^ k) →
        (1 / 2 ≤ v.rat → v.rat < 2 → q.mag ≤ 4 → within (log2F ftz x v) q ((1 + part) * (2 : Rat) ^ (-22 : Int))) ∧
        (v.rat < 1 / 2 ∨ 2 ≤ v.rat → within (log2F ftz x v) q ((2 + part) * ulp q))) ∧
      (∀ cosine, let a := trigVal cosine n m e
        (v.mag ≤ (2 : Rat) ^ (20 : Nat) → within (trigF cosine ftz x v) a ((1 + part) * (2 : Rat) ^ (-21 : Int))) ∧
        ((2 : Rat) ^ (20 : Nat) < v.mag → ∃ c : Word, trigF cosine ftz x v = inexactRes ftz c ∧ (big c).finite = true ∧ (big c).mag ≤ 1)) ∧
      (v.mag < 9 → within (tanhF ftz x v) t ((2 + part) * ulp t) ∨ within (tanhF ftz x v) t ((1 + part) * (2 : Rat) ^ (-24 : Int))))

/-- R158, R162, R163: the moves between lanes and the reads of masks into registers. R135, R161, R128: the instructions that rebuild masks
and EM; bits at or above W are cleared. -/
def Obligations.LaneMovesAndMasksAreRebuilt : Prop :=
  (∀ (s : State) (g : Group) (d a b : BitVec 7) (f : BitVec 4) (e : BitVec 1),
    let n := if f.getLsbD 3 then 2 else 1
    let c := fun l => (b32 s g b l).toNat % 64
    let sh := fun (l : Nat) => if f.toNat % 8 = 0 then (c l : Int) else if f.toNat % 8 = 1 then (l : Int) - c l
      else if f.toNat % 8 = 2 then (l : Int) + c l else (((l ^^^ c l) : Nat) : Int)
    let m := storeGet g.k a.toNat
    let bits := fun (p : Nat → Bool) => ((List.range 64).filter fun i => m.getLsbD i && p i).length
    let k := if e = 1#1 then 2 else 1
    Gives s g (.shfl d a b f) d n (fun l => srcA s g a n (if 0 ≤ sh l ∧ sh l < g.width then (sh l).toNat else l)) ∧
    (f = 0#4 → Gives s g (.kcnt d a f) d 1 fun _ => BitVec.ofNat 128 (bits fun _ => true)) ∧
    (f = 1#4 → ∃ v : Nat, Gives s g (.kcnt d a f) d 1 (fun _ => BitVec.ofNat 128 v) ∧ v ≤ 64 ∧ (∀ i < v, m.getLsbD i = false) ∧
      (v < 64 → m.getLsbD v = true)) ∧
    (f = 2#4 → ∃ v : Nat, Gives s g (.kcnt d a f) d 1 (fun _ => BitVec.ofNat 128 v) ∧ (m = 0 → v = 64) ∧
      (m ≠ 0 → v < 64 ∧ m.getLsbD v = true ∧ ∀ i, v < i → m.getLsbD i = false)) ∧
    (f = 3#4 → Gives s g (.kcnt d a f) d 2 fun _ => m.setWidth 128) ∧
    (f = 4#4 → Gives s g (.kcnt d a f) d 1 fun l => BitVec.ofNat 128 (bits fun i => decide (i < l))) ∧
    (∀ lane, g.lowest = some lane → Gives s g (.bcst d a b e) d k fun _ => if c lane < g.width then srcA s g a k (c lane) else 0) ∧
    (g.active = [] → GivesGroup s g (.bcst d a b e) g.goesOn)) ∧
  (∀ (s : State) (g : Group) (d a b : BitVec 7) (f : BitVec 4),
    let x := storeGet g.k a.toNat
    let y := storeGet g.k b.toNat
    let lane := fun (m : Dword) (v : Nat → Bool) => ∀ l, l < 64 → m.getLsbD l = (decide (l < g.width) && v l)
    let src : Dword := if a = 115#7 then (match g.preLit with | some p => litValue64 p | none => 0)
      else if a = 112#7 then 0 else storeGet g.s (a.toNat - 96)
    GivesMaskAll s g (.kop d a b f) d (fun l =>
      if f = 0#4 then x.getLsbD l && y.getLsbD l else if f = 1#4 then x.getLsbD l || y.getLsbD l
      else if f = 2#4 then x.getLsbD l != y.getLsbD l else if f = 3#4 then x.getLsbD l && !y.getLsbD l
      else if f = 4#4 then !x.getLsbD l else if f = 5#4 then x.getLsbD l else if f = 6#4 then true else if f = 7#4 then false
      else src.getLsbD l) ∧
    GivesMaskAll s g (.kemRd d) d g.em.getLsbD ∧
    (∃ m, lane m x.getLsbD ∧ GivesGroup s g (.kemSet a) { g.goesOn with em := m }) ∧
    (∃ m, lane m (fun l => g.em.getLsbD l && x.getLsbD l) ∧ GivesGroup s g (.kemAnd a) { g.goesOn with em := m }) ∧
    (∃ m, lane m (fun l => g.em.getLsbD l && !x.getLsbD l) ∧ GivesGroup s g (.kemAndn a) { g.goesOn with em := m }) ∧
    (∃ m k, lane m x.getLsbD ∧ lane k g.em.getLsbD ∧
      GivesGroup s g (.kemSwap d a) { g.goesOn with em := m, k := storeSet g.k d.toNat k }))

/-- R160: RDCE and SCAN. RDCE combines 64 leaves over six levels, SCAN the active lanes one by one; the sum of integers is that of the
active lanes whatever the order, and a step of FP32 values is FADD with RNE, FMIN.NUM or FMAX.NUM of the two. -/
def Obligations.ReductionsCombineInTheFixedOrder : Prop :=
  ∀ (s : State) (g : Group) (d a : BitVec 7) (f : BitVec 4),
    let x := a32 s g a
    let all := redTree f g (fun l => if l ∈ g.active then x l else redIdentity f) 6 0
    let run := fun l => redRun f g ((g.active.filter (· ≤ l)).map x)
    GivesFp s g (.rdce d a f) d false (fun _ _ => all.1.setWidth 128) (fun _ _ => all.2) ∧
    GivesFp s g (.scan d a f) d false (fun _ l => (run l).1.setWidth 128) (fun _ l => (run l).2) ∧
    (g.width ≤ 64 →
      (f = 0#4 → all.1 = (g.active.map x).foldl (· + ·) 0 ∧ all.2 = 0) ∧
      (f = 1#4 → (∀ l ∈ g.active, all.1.toInt ≤ (x l).toInt) ∧ (g.active ≠ [] → ∃ l ∈ g.active, all.1 = x l)) ∧
      (f = 2#4 → (∀ l ∈ g.active, (x l).toInt ≤ all.1.toInt) ∧ (g.active ≠ [] → ∃ l ∈ g.active, all.1 = x l)) ∧
      (f = 3#4 → (∀ l ∈ g.active, all.1.toNat ≤ (x l).toNat) ∧ (g.active ≠ [] → ∃ l ∈ g.active, all.1 = x l)) ∧
      (f = 4#4 → (∀ l ∈ g.active, (x l).toNat ≤ all.1.toNat) ∧ (g.active ≠ [] → ∃ l ∈ g.active, all.1 = x l)) ∧
      (f = 5#4 → ∀ i < 32, all.1.getLsbD i = g.active.all fun l => (x l).getLsbD i) ∧
      (f = 6#4 → ∀ i < 32, all.1.getLsbD i = g.active.any fun l => (x l).getLsbD i) ∧
      (f = 7#4 → all.1 = (g.active.map x).foldl (· ^^^ ·) 0)) ∧
    (∀ p q : Word,
      let v := fpIn g p
      let w := fpIn g q
      let sum := addV v w
      let r := roundF fp32 0 false 0 (ftzOf g) sum.1
      let less := v.below w || (!w.below v && isNegV v && !isNegV w)
      (f = 8#4 → redOp f g p q = (BitVec.ofNat 32 r.1, sum.2 ||| r.2)) ∧
      (f = 9#4 ∨ f = 10#4 → redOp f g p q = (BitVec.ofNat 32 (
        if isNanV v && isNanV w then 0x7FC00000 else if isNanV v then encodeF fp32 w else if isNanV w then encodeF fp32 v
        else if less == (f == 9#4) then encodeF fp32 v else encodeF fp32 w), if isSnanV v || isSnanV w then fNV else 0)))

/-- R133 (and R134): branches, calls and jumps; a mask field of BRA or CALL traps ILL, and a fetch at bit 48 or above PROT. A jump to a target that is no multiple of 4 traps ALN. -/
def Obligations.BranchesAndJumpsGoToTheirTargets : Prop :=
  ∀ (s : State) (g : Group) (k : BitVec 4) (h : BitVec 2) (p : BitVec 19) (d a : BitVec 7),
    let target := g.pc + BitVec.ofInt 64 (4 * p.toInt)
    let some? := fun (v : Bool → Bool → Bool) => ∃ l, l < 64 ∧ v ((storeGet g.k k.toNat).getLsbD l) (g.em.getLsbD l) = true
    let goes := fun (i : Instr) (c : Prop) => (c → GivesGroup s g i (g.goesTo target)) ∧ (¬ c → GivesGroup s g i g.goesOn)
    let t := storeGet g.s (a.toNat - 96)
    let linked := if d = 112#7 then g.goesTo t else { g.goesTo t with s := storeSet g.s (d.toNat - 96) (g.pc + 4) }
    (wordOf (.bra h p) = 0x01#7 ++ 0#4 ++ h ++ p ∧ wordOf (.brany k h p) = 0x02#7 ++ k ++ h ++ p ∧ wordOf (.brall k h p) = 0x03#7 ++ k ++ h ++ p ∧
      wordOf (.brnone k h p) = 0x04#7 ++ k ++ h ++ p ∧ wordOf (.call h p) = 0x05#7 ++ 0#4 ++ h ++ p) ∧
    ((k ≠ 0#4 → IllWord (0x01#7 ++ k ++ h ++ p) ∧ IllWord (0x05#7 ++ k ++ h ++ p)) ∧
      (Instr.brany k h p).fieldsOk = true ∧ (Instr.brall k h p).fieldsOk = true ∧ (Instr.brnone k h p).fieldsOk = true) ∧
    (∀ off, 2 ^ 48 ≤ off → translate s (unitOf s.cur) g.part false g.mode .fetch 4 off = .error .prot) ∧
    GivesGroup s g (.bra h p) (g.goesTo target) ∧
    goes (.brany k h p) (some? fun x e => x && e) ∧
    goes (.brall k h p) (¬ some? fun x e => !x && e) ∧
    goes (.brnone k h p) (¬ some? fun x e => x && e) ∧
    GivesGroup s g (.call h p) { g.goesTo target with s := storeSet g.s 15 (g.pc + 4) } ∧
    (t.toNat % 4 = 0 → GivesGroup s g (.jmpr d a) linked ∧ GivesGroup s g (.ret a) (g.goesTo t)) ∧
    (t.toNat % 4 ≠ 0 → (Issues s g (.jmpr d a) → exec (.jmpr d a) s = .next (raiseAll s s.cur g .aln t)) ∧
      (Issues s g (.ret a) → exec (.ret a) s = .next (raiseAll s s.cur g .aln t)))

/-- R32 to R34 (prefixes), R100 (WINB), R143 (ABSET), R288 (NOP, YIELD: not ready for the next 16 clocks): what these leave in the group. -/
def Obligations.PrefixesWindowAndBasesSetTheGroup : Prop :=
  ∀ (s : State) (g : Group) (a : BitVec 7) (i : BitVec 11) (j : BitVec 10) (n : BitVec 3) (hi : BitVec 1) (p : BitVec 25)
    (e : BitVec 1) (x : BitVec 2) (f : BitVec 1) (y : BitVec 2) (c : BitVec 1) (z : BitVec 2),
    let v := if a = 112#7 then 0 else storeGet g.s (a.toNat - 96)
    let imm : Int := match g.preLit with
      | some l => (l ++ i).toInt
      | none => i.toInt
    let imj : Int := match g.preLit with
      | some l => (l ++ j).toInt
      | none => j.toInt
    let w := v.toInt + imm
    let u := v + BitVec.ofInt 64 imj
    let old := storeGet g.ab n.toNat
    GivesGroup s g (.lit p) { g with preLit := some p, preStart := some (g.preStart.getD g.pc), pc := g.pc + 4 } ∧
    GivesGroup s g (.ix e x f y c z)
      { g with preIx := some (0#16 ++ e ++ x ++ f ++ y ++ c ++ z), preStart := some (g.preStart.getD g.pc), pc := g.pc + 4 } ∧
    GivesGroup s g .nop g.goesOn ∧
    GivesGroup s g .yield { g.goesOn with yieldUntil := groupClk s s.cur + 17 } ∧
    (w = 0 ∨ (0 < w ∧ w % 8 = 0 ∧ w + 96 ≤ g.view) → GivesGroup s g (.winb a i) { g.goesOn with wb := BitVec.ofInt 9 w }) ∧
    (¬ (w = 0 ∨ (0 < w ∧ w % 8 = 0 ∧ w + 96 ≤ g.view)) → Current s g → midIssue g = false → (Instr.winb a i).legal g.gen g.pre = true →
      exec (.winb a i) s = .next (raiseAll s s.cur g .win (BitVec.ofInt 64 w))) ∧
    (hi = 0#1 → GivesGroup s g (.abset n a hi j) { g.goesOn with ab := storeSet g.ab n.toNat (old.extractLsb' 64 16 ++ u) }) ∧
    (hi = 1#1 → GivesGroup s g (.abset n a hi j)
      { g.goesOn with ab := storeSet g.ab n.toNat (u.extractLsb' 0 16 ++ old.extractLsb' 0 64) })

/-- R284, R285: taking a trap. From U it goes to S, from S and H to H; a trap that S cannot take becomes DBL to H; when H cannot take it the
group wedges. -/
def Obligations.TrapsEnterTheirHandler : Prop :=
  ∀ (s : State) (g : Group) (c : Cause) (val lanes epc : Dword),
    s.group? s.cur = some g → g.out = [] → g.dbg.haltReq = false → g.stopping = false → g.parking = false →
    let p := s.part g.part
    let saved := fun (t : TrapRegs) (code : BitVec 8) (v : Dword) =>
      { t with epc := epc, cause := code, eval := v, eem := g.em, tlm := lanes, edone := g.dm, held := true,
               pm := if g.mode = .u then 0 else if g.mode = .s then 1 else 2, pwb := g.wb.extractLsb' 3 6 }
    let entered := fun (m : Mode) (wb : BitVec 9) (tvec : Dword) (toH : Bool) =>
      { g with mode := m, wb := wb, em := lanes, dm := 0, pc := tvec &&& ~~~3#64, preLit := none, preIx := none, preStart := none,
               wait := .none, ecc := g.ecc ++ g.eccNow.map (fun e => (toH, e)), eccNow := [] }
    let usable := fun (tvec : Dword) (wb : BitVec 9) (view : Nat) => tvec.getLsbD 0 = true ∧ (wb = 0 ∨ wb.toNat + 96 ≤ view)
    let sTakes := g.st.held = false ∧ usable p.stvec p.stwb g.viewS
    let hTakes := g.ht.held = false ∧ usable p.htvec p.htwb g.allot
    (g.mode = .u → sTakes → takeTrap s s.cur c val lanes epc =
      s.setGroup s.cur { entered .s p.stwb p.stvec false with st := saved g.st c.code val }) ∧
    (g.mode = .u → ¬ sTakes → hTakes → takeTrap s s.cur c val lanes epc =
      s.setGroup s.cur { entered .h p.htwb p.htvec true with ht := saved g.ht 0x13 (c.code.setWidth 64) }) ∧
    (g.mode ≠ .u → hTakes → takeTrap s s.cur c val lanes epc =
      s.setGroup s.cur { entered .h p.htwb p.htvec true with ht := saved g.ht c.code val }) ∧
    (¬ hTakes → (g.mode = .u → ¬ sTakes) → ∃ x, (takeTrap s s.cur c val lanes epc).group? s.cur = some x ∧ x.wedged = true ∧
      x.dbg.halted = true ∧ x.dbg.pendCause = 0x13 ∧ x.dbg.pc = epc ∧ x.dbg.done = g.dm ∧ x.dbg.pendTlm = lanes ∧
      x.dbg.pendEval = (if g.mode = .u then c.code.setWidth 64 else val) ∧ x.mode = g.mode ∧ x.st = g.st ∧ x.ht = g.ht)

/-- R42, R41, R288, R280, R210, R131, R30, R32, R37, R357, R72, R55: the checks before issue, in their order, each with its cause and EVAL; a
word that fails one takes that trap and does nothing else, and a PREF meets ILL alone. Of two causes of WIN the register field is recorded
before the refused base, which is the model's choice (log 55). An uncorrectable word of a register that an instruction reads counts as zero
and its ECC waits for the next issue (log 54). -/
def Obligations.ChecksBeforeIssueTrapInOrder : Prop :=
  ∀ (s : State) (g : Group) (i : Instr), i.fmt.isSome →
    let w : Dword := (wordOf i).setWidth 64
    let q := isSeq s.cur
    let legal := i.legal g.gen g.pre = true
    let priv := g.mode = .u ∧ (i = .stop ∨ i = .rte ∨ (∃ h, i = .mbrd h ∨ i = .mbrdTry h) ∨ ∃ d a b, i = .evsigSet d a b)
    let csr := fun (n : Nat) => (∃ d c, i = .csrr d c ∧ c.toNat = n) ∨ ∃ d c a, i = .csrw d c a ∧ c.toNat = n
    let far := ∃ n, csr n ∧ ((g.mode = .u ∧ 0x100 ≤ n) ∨ (g.mode = .s ∧ 0x400 ≤ n))
    let none_ := ∃ n, csr n ∧ csrAssigned q n = false
    let major := ((wordOf i).extractLsb' 25 7).toNat
    let barred := (g.role = .copy ∧ (0x30 ≤ major ∧ major ≤ 0x47 ∨ (major = 0x52 ∨ major = 0x53) ∧ 8 ≤ ((wordOf i).extractLsb' 0 4).toNat)) ∨
      (g.role = .matrix ∧ major ∈ [0x5A, 0x5B, 0x73, 0x74, 0x78, 0x7A]) ∨ (g.role = .service ∧ major = 0x75) ∨
      ((g.role = .vector ∨ g.role = .matrix) ∧ 0x70 ≤ major ∧ major ≤ 0x72) ∨ (g.role ≠ .matrix ∧ 0x7C ≤ major)
    let role := ¬ barred
    let pref := (∃ a n h, i = .prefL1 a n h) ∨ ∃ a n h, i = .prefL2 a n h
    let pass := legal ∧ ¬ priv ∧ ¬ far ∧ ¬ none_ ∧ role ∧ ¬ pref
    let x := fun (o : Opnd) => match g.preIx with
      | none => none
      | some p =>
        let (e, n) := match o.sel with
          | .d => (p.getLsbD 8, p.extractLsb' 6 2)
          | .a => (p.getLsbD 5, p.extractLsb' 3 2)
          | .b => (p.getLsbD 2, p.extractLsb' 0 2)
        if e then some (storeGet g.x n.toNat).toNat else none
    let num := fun (o : Opnd) => g.wb.toNat + o.fld.toNat + (x o).getD 0
    let beyond := fun (r : Nat) => ∃ o ∈ i.opnds, o.fld.toNat < 96 ∧ x o = none ∧ ∃ k < o.wid, r = num o + k ∧ g.view ≤ r
    let indexed := fun (r : Nat) => ∃ o ∈ i.opnds, o.fld.toNat < 96 ∧ x o ≠ none ∧
      ((r = num o ∧ num o % o.wid ≠ 0) ∨ ∃ k < o.wid, r = num o + k ∧ g.view ≤ r)
    let inWindow := fun (r : Nat) => g.dbg.lavCheck = true ∧ (∃ w ∈ g.out, r ∈ w.regs) ∧
      ((∃ o ∈ i.opnds, o.fld.toNat < 96 ∧ ∃ k < o.wid, r = num o + k) ∨
       (∃ o ∈ i.opnds, 96 ≤ o.fld.toNat ∧ o.fld.toNat < 112 ∧ r = 416 + o.fld.toNat) ∨ ∃ n ∈ instrScalars i, r = 512 + n)
    let least := fun (P : Nat → Prop) (r : Nat) => P r ∧ ∀ k, P k → r ≤ k
    let base := baseFail s s.cur g i
    -- an instruction that waits for room, or for the answers of an atomic, has passed its checks, and nothing comes between
    let begun := (∃ l, g.wait = .room l) ∨ ∃ l, g.wait = .atomic l
    (begun → s.group? s.cur = some g → g.out = [] → ∀ body, issue i s body = .next (body s s.cur g)) ∧
    (∀ c v, checkIssue s s.cur g i = some (c, v) → Current s g → ¬ begun → exec i s = .next (raiseAll s s.cur g c v)) ∧
    (∀ h c v, s.group? s.cur = some h → (closeWindows s s.cur).group? s.cur = some g → g.eccNow = [] → ¬ begun →
      checkIssue (closeWindows s s.cur) s.cur g i = some (c, v) → exec i s = .next (raiseAll (closeWindows s s.cur) s.cur g c v)) ∧
    (¬ legal → checkIssue s s.cur g i = some (.ill, w)) ∧
    (legal → priv ∨ far → checkIssue s s.cur g i = some (.priv, w)) ∧
    (legal → ¬ priv → ¬ far → none_ → checkIssue s s.cur g i = some (.ill, w)) ∧
    (legal → ¬ priv → ¬ far → ¬ none_ → barred → checkIssue s s.cur g i = some (.role, w)) ∧
    (legal → role → pref → checkIssue s s.cur g i = none) ∧
    (pass → ∀ r, least beyond r → checkIssue s s.cur g i = some (.win, BitVec.ofNat 64 r)) ∧
    (pass → (∀ r, ¬ beyond r) → ∀ v, base = some v → checkIssue s s.cur g i = some (.win, v)) ∧
    (pass → (∀ r, ¬ beyond r) → base = none → ∀ r, least indexed r → checkIssue s s.cur g i = some (.idx, BitVec.ofNat 64 r)) ∧
    (pass → (∀ r, ¬ beyond r) → base = none → (∀ r, ¬ indexed r) → ∀ r, least inWindow r →
      checkIssue s s.cur g i = some (.lav, BitVec.ofNat 64 r)) ∧
    (pass → (∀ r, ¬ beyond r) → base = none → (∀ r, ¬ indexed r) → (∀ r, ¬ inWindow r) → checkIssue s s.cur g i = none) ∧
    (∀ h e l, s.group? s.cur = some g → g.out = [] → ¬ begun → g.eccNow = e :: l → h = { g with eccNow := l } →
      exec i s = .next (takeTrap (s.setGroup s.cur h) s.cur .ecc (e.off.setWidth 64) e.lanes g.epc)) ∧
    (∀ d a, i = .mov d a 0#1 → d.toNat < 96 → a.toNat < 96 → s.group? s.cur = some g → g.out = [] → g.eccNow = [] → isSeq s.cur = false →
      g.width ≤ 64 → ¬ begun → checkIssue s s.cur g i = none →
      let cell := fun l => regCell s.cur g (num (srcOpnd .a a 1)) l
      let bad := fun l => l ∈ g.active ∧ cellBad s (cell l) = true
      ((∃ l, bad l) → ∃ t g' e, exec i s = .next t ∧ t.group? s.cur = some g' ∧ g'.eccNow = [e] ∧
        (∀ l, l < 64 → (e.lanes.getLsbD l = true ↔ bad l)) ∧ g'.pc = g.pc + 4) ∧
      ∀ t, exec i s = .next t → ∀ l ∈ g.active, cellGet t (regCell s.cur g (num (dstOpnd d 1)) l) =
        if cellBad s (cell l) then 0 else cellGet s (cell l))

/-- R287, R288 (BKPT): SYSC, HCALL, TRAP and BKPT; with an empty EM they do nothing, and HCALL in U mode traps PRIV. R289, R55: RTE restores
mode, window, EM, DM and PC from the trap state of its level and clears its HELD; a saved window beyond the view traps WIN. -/
def Obligations.SystemEntriesTrapAndRteReturns : Prop :=
  (∀ (s : State) (g : Group) (d : BitVec 7) (c : BitVec 18),
    let v : Dword := BitVec.ofNat 64 (d.toNat * 2 ^ 18 + c.toNat)
    let enters := fun (i : Instr) (x : Cause) => (g.em = 0 → GivesGroup s g i g.goesOn) ∧
      (g.em ≠ 0 → Issues s g i → exec i s = .next (takeTrap s s.cur x v g.em (g.pc + 4)))
    enters (.sysc d c) .sysc ∧ enters (.trap d c) .trap ∧
    (g.mode ≠ .u → enters (.hcall d c) .hcall) ∧
    (g.mode = .u → (g.em = 0 → GivesGroup s g (.hcall d c) g.goesOn) ∧ (g.em ≠ 0 → Issues s g (.hcall d c) →
      exec (.hcall d c) s = .next (raiseAll s s.cur g .priv ((wordOf (.hcall d c)).setWidth 64)))) ∧
    (g.em = 0 → GivesGroup s g .bkpt g.goesOn) ∧
    (g.em ≠ 0 → g.dbg.bkptHalts = false → Issues s g .bkpt → exec .bkpt s = .next (takeTrap s s.cur .bkpt 0 g.em g.epc)) ∧
    (g.em ≠ 0 → g.dbg.bkptHalts = true → Issues s g .bkpt → ∃ t, exec .bkpt s = .next t ∧
      OwnGroup s t { g.goesOn with dbg := { g.dbg with halted := true, haltReq := false, resume := false, armed := false, pc := g.pc + 4, done := 0 } })) ∧
  (∀ (s : State) (g : Group), Issues s g .rte →
    let h := g.mode == .h
    let t := if g.mode = .h then g.ht else g.st
    let m : Mode := if t.pm = 0#2 then .u else if t.pm = 1#2 then .s else .h
    let bad := t.pwb ≠ 0 ∧ g.viewOf m < t.pwb.toNat * 8 + 96
    (bad → exec .rte s = .next (raiseAll s s.cur g .win (BitVec.ofNat 64 (t.pwb.toNat * 8)))) ∧
    (¬ bad → ∃ u g' em, exec .rte s = .next u ∧ OwnGroup s u g' ∧
      (∀ l, l < 64 → em.getLsbD l = (decide (l < g.width) && t.eem.getLsbD l)) ∧
      g' = { g with mode := m, wb := t.pwb ++ 0#3, em := em, dm := t.edone &&& em, pc := t.epc &&& ~~~3#64, preLit := none, preIx := none,
                    preStart := none, wait := .none, ecc := g.ecc.filter (fun e => e.1 != h),
                    eccNow := (g.ecc.filter (fun e => e.1 == h)).map (fun e => e.2),
                    st := if h then g.st else { g.st with held := false }, ht := if h then { g.ht with held := false } else g.ht }))

/-- R280, R281 and the CSR tables of 02, 05, 06, 12 and 13: what CSRR reads. -/
def Obligations.CsrReadsGiveTheRegisters : Prop :=
  ∀ (s : State) (g : Group) (d : BitVec 7) (n : Nat),
    let reads := fun (c : Nat) (v : Dword) => Gives s g (.csrr d (BitVec.ofNat 11 c)) d 2 (fun _ => v.setWidth 128)
    let p := s.part g.part
    let stat := fun (t : TrapRegs) =>
      BitVec.ofNat 64 ((if t.held then 2 ^ 63 else 0) + t.lim.toNat * 2 ^ 11 + t.pwb.toNat * 8 + t.pm.toNat)
    let set := fun (b : Nat) (t : TrapRegs) (tvec : Dword) (twb : BitVec 9) =>
      reads b (stat t) ∧ reads (b + 1) t.epc ∧ reads (b + 2) (t.cause.setWidth 64) ∧ reads (b + 3) t.eval ∧ reads (b + 4) t.eem ∧
      reads (b + 5) t.tlm ∧ reads (b + 6) t.edone ∧ reads (b + 7) tvec ∧ reads (b + 8) (twb.setWidth 64) ∧
      (n < 4 → reads (b + 12 + n) (storeGet t.scr n))
    (n < 2048 → n ≠ 0x1B2 → ∃ v, reads n v) ∧
    (n < 4 → reads n ((storeGet g.x n).setWidth 64)) ∧ reads 4 (g.wb.setWidth 64) ∧ reads 5 (if g.spov then 1 else 0) ∧
    reads 6 (BitVec.ofNat 64 (g.rbase.toNat * 64 + g.rsize.toNat)) ∧ reads 8 (g.fpctl.setWidth 64) ∧
    reads 9 (g.fpstat.setWidth 64) ∧ reads 10 (g.atcause.setWidth 64) ∧ reads 11 (g.wto.setWidth 64) ∧
    (n < 8 → reads (0x30 + 2 * n) ((storeGet g.ab n).extractLsb' 0 64)) ∧
    (n < 8 → reads (0x31 + 2 * n) (((storeGet g.ab n).extractLsb' 64 16).setWidth 64)) ∧
    set 0x100 g.st p.stvec p.stwb ∧ set 0x400 g.ht p.htvec p.htwb ∧
    reads 0x1A0 (p.s1root.setWidth 64 <<< 15) ∧ reads 0x4A0 (p.s2root.setWidth 64 <<< 15) ∧ reads 0x4A2 (p.hroot.setWidth 64 <<< 15) ∧
    reads 0x1E8 p.feat ∧ reads 0x1E9 (g.udgen.setWidth 64) ∧ reads 0x489 s.slEpoch

/-- R281 and the CSR tables: what CSRW writes into the registers of the group and of its partition. The value is that of the lowest active lane, or
of lane 0 when EM is empty; d takes the old value, in the registers of the old window when WB is written (log 44). -/
def Obligations.CsrWritesSetTheRegisters : Prop :=
  ∀ (s : State) (g : Group) (a d : BitVec 7) (n : Nat),
    let v := a64 s g a (g.lowest.getD 0)
    let op := fun (c : Nat) => Instr.csrw d (BitVec.ofNat 11 c) a
    let sets := fun (c : Nat) (g' : Group) => Issues s g (op c) → ∃ t, exec (op c) s = .next t ∧
      LaneResult s t g g' (dstOpnd d 2) (fun _ => (csrRead s s.cur g c).2.setWidth 128)
    let trap := fun (b : Nat) (t : TrapRegs) (w : TrapRegs → Group) (top : BitVec 2) =>
      sets b (if 16 < (v.extractLsb' 11 5).toNat ∨ top = 3#2 then g.goesOn else
        w { t with held := v.getLsbD 63, lim := v.extractLsb' 11 5, pwb := v.extractLsb' 3 6, pm := top }) ∧
      sets (b + 1) (w { t with epc := v &&& ~~~3#64 }) ∧ sets (b + 2) (w { t with cause := v.extractLsb' 0 8 }) ∧
      sets (b + 3) (w { t with eval := v }) ∧ sets (b + 4) (w { t with eem := v }) ∧ sets (b + 5) (w { t with tlm := v }) ∧
      sets (b + 6) (w { t with edone := v }) ∧ (n < 4 → sets (b + 12 + n) (w { t with scr := storeSet t.scr n v }))
    (n < 4 → sets n { g.goesOn with x := storeSet g.x n (v.extractLsb' 0 9) }) ∧
    (let wb := v.toNat / 8 % 64 * 8
     (wb = 0 ∨ wb + 96 ≤ g.view → sets 4 { g.goesOn with wb := BitVec.ofNat 9 wb }) ∧
     (¬ (wb = 0 ∨ wb + 96 ≤ g.view) → Current s g → midIssue g = false → (op 4).legal g.gen g.pre = true → (∀ r, winFail g g.pre (op 4) ≠ some r) → exec (op 4) s = .next (raiseAll s s.cur g .win (BitVec.ofNat 64 wb)))) ∧
    sets 5 { g.goesOn with spov := g.spov && !v.getLsbD 0 } ∧
    sets 8 { g.goesOn with fpctl := BitVec.ofNat 9 (v.toNat % 32 + v.toNat / 256 % 2 * 256) } ∧
    sets 9 { g.goesOn with fpstat := g.fpstat &&& ~~~(v.extractLsb' 0 5) } ∧
    sets 10 g.goesOn ∧ sets 11 { g.goesOn with wto := v.extractLsb' 0 32 } ∧
    (n < 8 → sets (0x30 + 2 * n) { g.goesOn with ab := storeSet g.ab n ((storeGet g.ab n).extractLsb' 64 16 ++ v) }) ∧
    (n < 8 → sets (0x31 + 2 * n) { g.goesOn with ab := storeSet g.ab n (v.extractLsb' 0 16 ++ (storeGet g.ab n).extractLsb' 0 64) }) ∧
    trap 0x100 g.st (fun t => { g.goesOn with st := t }) ((v.extractLsb' 0 1).setWidth 2) ∧
    trap 0x400 g.ht (fun t => { g.goesOn with ht := t }) (v.extractLsb' 0 2) ∧
    (let vec := fun (c : Nat) (q : Partition → Partition) => Issues s g (op c) → ∃ t, exec (op c) s = .next t ∧
       t.part g.part = q (s.part g.part) ∧ ∀ m, m ≠ g.part → t.part m = s.part m
     vec 0x107 (fun p => { p with stvec := v &&& ~~~2#64 }) ∧ vec 0x108 (fun p => { p with stwb := v.extractLsb' 3 6 ++ 0#3 }) ∧
     vec 0x407 (fun p => { p with htvec := v &&& ~~~2#64 }) ∧ vec 0x408 (fun p => { p with htwb := v.extractLsb' 3 6 ++ 0#3 }) ∧
     vec 0x1A0 (fun p => { p with s1root := v.extractLsb' 15 33 }) ∧ vec 0x4A0 (fun p => { p with s2root := v.extractLsb' 15 33 }))

/-- R51, R55, R64, R71: LD of lanes that reach memory on this device: each pending lane's bytes, extended by size, land in the destination. -/
def Obligations.LoadsDeliverTheBytesInMemory : Prop :=
  ∀ (s : State) (g : Group) (d a : BitVec 7) (n sz : BitVec 3) (h : BitVec 1) (la : BitVec 4) (o : BitVec 5) (ph : Nat → Phys),
    let k := if sz.toNat < 2 then 1 else if sz.toNat < 4 then 2 else if sz = 4#3 then 4 else if sz = 5#3 then 8 else 16
    let w := if sz = 5#3 then 2 else if sz = 6#3 then 4 else 1
    let sx : BitVec 2 := sz.extractLsb' 0 2
    let kx := if sx = 0#2 then 4 else if sx = 1#2 then 8 else 16
    let wx := if sx = 1#2 then 2 else if sx = 2#2 then 4 else 1
    let off := match g.preLit with
      | some p => p.toInt
      | none => 0
    let val := fun l =>
      let x := placeValue s (ph l) k
      if sz = 1#3 then ((BitVec.ofNat 8 x).signExtend 32).setWidth 128
      else if sz = 3#3 then ((BitVec.ofNat 16 x).signExtend 32).setWidth 128 else BitVec.ofNat 128 x
    (Issues s g (.ld d a n sz h la) → Reaches s g .load g.pending (addrOf s g n a off) k ph →
      ∃ t s1 x, exec (.ld d a n sz h la) s = .next t ∧ OnlyTlbs s s1 ∧ x.left = effLa g la ∧
        OwnGroup s1 t { g.goesOn with out := [x] } ∧
        LaneResultIn s1 (landAll t s.cur) g g.goesOn (dstOpnd d w) g.pending val) ∧
    (Issues s g (.ldx d a o sx n) → Reaches s g .load g.pending (addrOf s g n a 0) kx ph →
      ∃ t s1, exec (.ldx d a o sx n) s = .next t ∧ OnlyTlbs s s1 ∧
        LaneResultIn s1 t g g.goesOn (dstOpnd d wx) g.pending (fun l => BitVec.ofNat 128 (placeValue s (ph l) kx)))

/-- R71, R267, R286: ST and STX of lanes that reach memory on this device store the bytes of each pending lane's value, where lanes meet
the highest lane's; every other byte of memory is as before. -/
def Obligations.StoresWriteTheirBytesAlone : Prop :=
  ∀ (s : State) (g : Group) (d a : BitVec 7) (n sz : BitVec 3) (h : BitVec 1) (o : BitVec 5) (ph : Nat → Phys),
    let k := if sz.toNat < 2 then 1 else if sz.toNat < 4 then 2 else if sz = 4#3 then 4 else if sz = 5#3 then 8 else 16
    let w := if sz = 5#3 then 2 else if sz = 6#3 then 4 else 1
    let sx : BitVec 2 := sz.extractLsb' 0 2
    let kx := if sx = 0#2 then 4 else if sx = 1#2 then 8 else 16
    let wx := if sx = 1#2 then 2 else if sx = 2#2 then 4 else 1
    let off := match g.preLit with
      | some p => p.toInt
      | none => 0
    (Issues s g (.st d a n sz h) → Reaches s g .store g.pending (addrOf s g n a off) k ph →
      ∃ t, exec (.st d a n sz h) s = .next t ∧ StoreFrame s t ∧ t.group? s.cur = some g.goesOn ∧
        LaneBytes s t g.pending ph k (fun l => (srcD s g d w l).toNat)) ∧
    (Issues s g (.stx d a o sx n) → Reaches s g .store g.pending (addrOf s g n a 0) kx ph →
      ∃ t, exec (.stx d a o sx n) s = .next t ∧ StoreFrame s t ∧ t.group? s.cur = some g.goesOn ∧
        LaneBytes s t g.pending ph kx (fun l => (srcD s g d wx l).toNat))

/-- R51, R66, R71, R267, R284, R286: misaligned lanes trap ALN before any lane acts. LD and ST perform the lanes that translate, which are done
when the lowest of the others traps; STX performs none. -/
def Obligations.FailingLanesTrapAndTheOthersAreDone : Prop :=
  ∀ (s : State) (g : Group) (d a : BitVec 7) (n sz : BitVec 3) (h : BitVec 1) (la : BitVec 4) (o : BitVec 5) (ph : Nat → Phys)
    (cs : Nat → Cause),
    let k := if sz.toNat < 2 then 1 else if sz.toNat < 4 then 2 else if sz = 4#3 then 4 else if sz = 5#3 then 8 else 16
    let w := if sz = 5#3 then 2 else if sz = 6#3 then 4 else 1
    let sx : BitVec 2 := sz.extractLsb' 0 2
    let kx := if sx = 0#2 then 4 else if sx = 1#2 then 8 else 16
    let off := match g.preLit with
      | some p => p.toInt
      | none => 0
    let va := addrOf s g n a off
    let vx := addrOf s g n a 0
    let odd := g.pending.filter fun l => (va l).toNat % k != 0
    let oddx := g.pending.filter fun l => (vx l).toNat % kx != 0
    let tr := fun (grant : Grant) (v : VAddr) => translate s (unitOf s.cur) g.part false g.mode grant (vaKind v) (vaOff v)
    let ok := fun (grant : Grant) => g.pending.filter fun l => (tr grant (va l)).toBool
    let bad := fun (grant : Grant) => g.pending.filter fun l => !(tr grant (va l)).toBool
    let badx := g.pending.filter fun l => !(tr .store (vx l)).toBool
    let traps := fun (t u : State) (c : Cause) (v : VAddr) (lanes : List Nat) =>
      t = takeTrap u s.cur c (packVa v) (maskOf lanes) g.epc
    let placed := fun (grant : Grant) (va : Nat → VAddr) => ∀ l ∈ g.pending, isLocal s (va l) = true ∧
      (tr grant (va l) = .ok (ph l) ∨ tr grant (va l) = .error (cs l))
    (∀ l, odd.head? = some l →
      (Issues s g (.ld d a n sz h la) → ∃ t u, exec (.ld d a n sz h la) s = .next t ∧ OnlyOwn s u ∧ u.group? s.cur = some g ∧
        traps t u .aln (va l) odd) ∧
      (Issues s g (.st d a n sz h) → ∃ t u, exec (.st d a n sz h) s = .next t ∧ OnlyOwn s u ∧ u.group? s.cur = some g ∧
        traps t u .aln (va l) odd)) ∧
    (∀ l, oddx.head? = some l → (∀ m ∈ g.pending, vaKind (vx m) ≤ 4 ∧ vaOff (vx m) < 2 ^ 48) →
      (Issues s g (.ldx d a o sx n) → ∃ t u, exec (.ldx d a o sx n) s = .next t ∧ OnlyOwn s u ∧ u.group? s.cur = some g ∧
        traps t u .aln (vx l) oddx) ∧
      (Issues s g (.stx d a o sx n) → ∃ t u, exec (.stx d a o sx n) s = .next t ∧ OnlyOwn s u ∧ u.group? s.cur = some g ∧
        traps t u .aln (vx l) oddx)) ∧
    (odd = [] → placed .load va → (∀ l ∈ ok .load, poisonIn s (ph l).kind (ph l).off k = none) → ∀ l, (bad .load).head? = some l →
      Issues s g (.ld d a n sz h la) → ∃ t u s1, exec (.ld d a n sz h la) s = .next t ∧ OnlyTlbs s s1 ∧
        LaneResultIn s1 u g { g with dm := g.dm ||| maskOf (ok .load) } (dstOpnd d w) (ok .load) (fun l =>
          if sz = 1#3 then ((BitVec.ofNat 8 (placeValue s (ph l) k)).signExtend 32).setWidth 128
          else if sz = 3#3 then ((BitVec.ofNat 16 (placeValue s (ph l) k)).signExtend 32).setWidth 128
          else BitVec.ofNat 128 (placeValue s (ph l) k)) ∧
        traps t u (cs l) (va l) (bad .load)) ∧
    (odd = [] → placed .store va → (∀ l ∈ ok .store, (ph l).kind = 3 → s.cxlUp = true) → ∀ l, (bad .store).head? = some l →
      Issues s g (.st d a n sz h) → ∃ t u, exec (.st d a n sz h) s = .next t ∧ StoreFrame s u ∧
        (∃ x, u.group? s.cur = some x ∧ x = { g with dm := g.dm ||| maskOf (ok .store), wait := x.wait }) ∧
        LaneBytes s u (ok .store) ph k (fun l => (srcD s g d w l).toNat) ∧ traps t u (cs l) (va l) (bad .store)) ∧
    (oddx = [] → (∀ m ∈ g.pending, vaKind (vx m) ≤ 4 ∧ vaOff (vx m) < 2 ^ 48) → placed .store vx → ∀ l, badx.head? = some l →
      Issues s g (.stx d a o sx n) → ∃ t u, exec (.stx d a o sx n) s = .next t ∧ OnlyOwn s u ∧ u.group? s.cur = some g ∧
        traps t u (cs l) (vx l) badx)

/-- R96, R98, R101, R102: LDS and STS at the team's scratchpad, whose bytes lie where scratchLocate places them; a byte in the gap of an
allocation that is no power of two reads zero and is not written, and SPOV is set. -/
def Obligations.ScratchpadAccessesStayInTheTeam : Prop :=
  ∀ (s : State) (g : Group) (t : Team) (d a : BitVec 7) (n sz : BitVec 3) (h : BitVec 1) (la : BitVec 4), s.team? g.team = some t →
    let k := if sz.toNat < 2 then 1 else if sz.toNat < 4 then 2 else if sz = 4#3 then 4 else if sz = 5#3 then 8 else 16
    let w := if sz = 5#3 then 2 else if sz = 6#3 then 4 else 1
    let off : Int := match g.preLit with
      | some p => p.toInt
      | none => 0
    let c := coreOf s.cur
    let base : Int := ((storeGet g.ab n.toNat).extractLsb' 0 32).toNat
    let at_ := fun l => ((base + (a32 s g a l).toNat + off) % 2 ^ 32).toNat / k * k
    let byte := fun l i => scratchLocate t c (at_ l + i)
    let gap := fun l => (byte l 0).2.2
    let place := fun l => Phys.mk 1 ((byte l 0).1 * 0x100000 + (byte l 0).2.1) false
    let anyGap := g.active.any gap
    let val := fun l =>
      let x := if gap l then 0 else placeValue s (place l) k
      if sz = 1#3 then ((BitVec.ofNat 8 x).signExtend 32).setWidth 128
      else if sz = 3#3 then ((BitVec.ofNat 16 x).signExtend 32).setWidth 128 else BitVec.ofNat 128 x
    t.sbase.toNat + t.ssize.toNat ≤ 128 → (t.paired = true → t.core < 255) → c < 256 →
    (Issues s g (.lds d a n sz h la) → (∀ l ∈ g.active, gap l = false → poisonIn s 1 (place l).off k = none) →
      ∃ u x, exec (.lds d a n sz h la) s = .next u ∧ x.left = effLa g la ∧
        OwnGroup s u { g.goesOn with spov := g.spov || anyGap, out := [x] } ∧
        LaneResult s (landAll u s.cur) g { g.goesOn with spov := g.spov || anyGap } (dstOpnd d w) val) ∧
    (Issues s g (.sts d a n sz h) → ∃ u, exec (.sts d a n sz h) s = .next u ∧ StoreFrame s u ∧
      u.group? s.cur = some { g.goesOn with spov := g.spov || anyGap } ∧
      LaneBytes s u (g.active.filter fun l => !gap l) place k (fun l => (srcD s g d w l).toNat))

/-- R269, R270, R271 (Table 11): an atomic whose lanes reach disjoint places, with nothing queued at their tellers, gives each pending lane the
old value and leaves the new one; every other byte of memory is as before. That a request to a teller with nothing queued is served in the step
that sends it is the model's choice (log 17), not the spec's words; requests that queue are served as AtomicOperationsFollowTable11 says. -/
def Obligations.AtomicsReturnTheOldValueAndStoreTheNew : Prop :=
  ∀ (s : State) (g : Group) (d a b : BitVec 7) (n : BitVec 3) (e : BitVec 1) (ph : Nat → Phys) (i : Instr) (op : AtOp),
    (i, op) ∈ [(Instr.atadd d a b n e, AtOp.add), (.atsmin d a b n e, .smin), (.atsmax d a b n e, .smax), (.atnmin d a b n e, .nmin),
      (.atnmax d a b n e, .nmax), (.atand d a b n e, .and), (.ator d a b n e, .or), (.atxor d a b n e, .xor), (.atxch d a b n e, .xch),
      (.atcas d a b n e, .cas), (.atfadd d a b n, .fadd), (.atbadd2 d a b n, .badd2)] →
    let wide := e == 1#1 && op != .fadd && op != .badd2
    let k := if wide then 8 else 4
    let w := if wide then 2 else 1
    let old := fun l => BitVec.ofNat 64 (placeValue s (ph l) k)
    let new := fun l => atomicNew op wide (old l) ((srcB s g b w l).setWidth 64) ((srcD s g d w l).setWidth 64)
    Issues s g i → g.wait = .none → Reaches s g .store g.pending (addrOf s g n a 0) k ph →
    (∀ l ∈ g.pending, (ph l).shd = false ∧ (s.cluster (homeOf (ph l).kind (ph l).off)).teller = [] ∧
      ((ph l).kind = 1 → ∃ x y, regionOf (ph l).off = .pinned x y)) →
    (∀ l ∈ g.pending, ∀ m ∈ g.pending, l < m → ∀ j < k, ¬ inPlace (ph m) k (ph l).kind ((ph l).off + j)) →
    ∃ t s1, exec i s = .next t ∧ StoreFrame s s1 ∧ LaneBytes s t g.pending ph k (fun l => (new l).toNat) ∧
      LaneResultIn s1 t g g.goesOn (dstOpnd d w) g.pending (fun l => (old l).setWidth 128)

/-- R271 (Table 11): what each operation leaves, on 32 or 64 bits. R269, R270: a teller serves its oldest request, indivisibly: the answer is
the old value, or the refusal of a target that cannot hold an atomic. -/
def Obligations.AtomicOperationsFollowTable11 : Prop :=
  (∀ (wide : Bool) (m v c : Dword),
    let x : Int := if wide then m.toInt else (m.setWidth 32).toInt
    let y : Int := if wide then v.toInt else (v.setWidth 32).toInt
    let nm := if wide then m.toNat else m.toNat % 2 ^ 32
    let nv := if wide then v.toNat else v.toNat % 2 ^ 32
    let r := fun op => (atomicNew op wide m v c).toNat
    let z := fun op => if wide then (atomicNew op wide m v c).toInt else ((atomicNew op wide m v c).setWidth 32).toInt
    let mod := if wide then 2 ^ 64 else 2 ^ 32
    r .add = (nm + nv) % mod ∧ z .smin = min x y ∧ z .smax = max x y ∧ r .nmin = min nm nv ∧ r .nmax = max nm nv ∧
    r .and = nm &&& nv ∧ r .or = nm ||| nv ∧ r .xor = nm ^^^ nv ∧ r .xch = nv ∧
    r .cas = (if (if wide then m = c else m.setWidth 32 = c.setWidth 32) then nv else nm) ∧
    (∀ op, wide = false → r op < 2 ^ 32) ∧
    (wide = false → r .fadd = (roundF fp32 0 false 0 false (addV (decodeF fp32 nm) (decodeF fp32 nv)).1).1 ∧
      ∀ j < 2, r .badd2 / 2 ^ (16 * j) % 2 ^ 16 = (roundF bf16 0 false 0 false
        (addV (decodeF bf16 (nm / 2 ^ (16 * j) % 2 ^ 16)) (decodeF bf16 (nv / 2 ^ (16 * j) % 2 ^ 16))).1).1)) ∧
  (∀ (s : State) (c : Nat) (r : TellerReq) (rest : List TellerReq),
    ((s.cluster c).teller = [] → exec (.tellerServe c) s = .next s) ∧
    ((s.cluster c).teller = r :: rest →
      let k := if r.wide then 8 else 4
      let old := placeValue s ⟨r.kind, r.phys, false⟩ k
      let new := atomicNew r.op r.wide (BitVec.ofNat 64 old) r.val r.cmp
      let poisoned := (poisonIn s r.kind r.phys k).isSome
      let unfit := r.shadowed = true ∨ (r.kind = 1 ∧ ∀ x y, regionOf r.phys ≠ .pinned x y)
      ∃ t, exec (.tellerServe c) s = .next t ∧ (t.cluster c).teller = rest ∧
        (unfit ∨ poisoned = true → ∀ kind a, kind ≤ 4 → memByte t kind a = memByte s kind a) ∧
        (¬ unfit → poisoned = false → r.kind ≤ 4 → LaneBytes s t [0] (fun _ => ⟨r.kind, r.phys, false⟩) k (fun _ => new.toNat)) ∧
        (r.asker = .host → (unfit ∨ poisoned = true → t.sent = s.sent ++ [.hostPoison]) ∧
          (¬ unfit → poisoned = false → t.sent = s.sent ++ [.hostReply (leBytes k old)])) ∧
        (∀ id g l x, r.asker = .lane id l → s.group? id = some g → g.wait = .atomic x → ∃ ans y,
          t.group? id = some y ∧ y = { g with wait := .atomic (x ++ [ans]) } ∧ ans.1 = l ∧
          (¬ unfit → poisoned = false → ans.2 = (true, BitVec.ofNat 64 old)) ∧ (unfit ∨ poisoned = true → ans.2.1 = false))))

/-- R51, R52, R327: whatever the tables and TLBs hold, an access that translates lies within its physical space, in the kind that it names.
R64: a walk that completes fills the TLBs of the unit and its die with an entry that serves the access; a failed walk installs nothing. -/
def Obligations.TranslationsStayInsideAndWalksFillTlbs : Prop :=
  (∀ (s : State) (unit part kind off : Nat) (engine : Bool) (m : Mode) (grant : Grant) (p : Phys),
    translate s unit part engine m grant kind off = .ok p →
    p.kind = kind ∧ kind ≤ 4 ∧ off < 2 ^ 48 ∧
    (kind = 4 → grant = .load ∨ grant = .fetch) ∧ (grant = .fetch → kind = 4) ∧
    (kind = 0 ∨ kind = 4 → p.off < (if s.eccMode = 1#2 then 540 else 576) * 2 ^ 30) ∧
    (kind = 2 → p.off < 64 * 2 ^ 30) ∧ (kind = 3 → p.off < s.poolSz.toNat * 2 ^ 34) ∧
    (kind = 1 → engine = false → (∃ c o, regionOf p.off = .scratch c o ∧ c < 256 ∧ o < 0x80000) ∨
      ∃ d u, regionOf p.off = .pinned d u ∧ u < 96 ∧ tabGet s.pinned (d * 96 + u) = some part)) ∧
  (∀ (s : State) (unit : Nat) (r : WalkReq), ∃ t, exec (.pageWalkComplete unit r) s = .next t ∧ OnlyTlbs s t ∧
    ((combined s r.part r.mode r.grant (vaKind r.va) (vaOff r.va)).toBool = false → t = s) ∧
    (∀ p, combined s r.part r.mode r.grant (vaKind r.va) (vaOff r.va) = .ok p → p.shd = false → unit < 384 →
      ∃ e ∈ unitTlb t unit, e ∈ (tabGet t.l2tlb (dieOf unit)).getD [] ∧
        tlbHit e r.part r.mode r.grant (vaKind r.va) (vaOff r.va) = true ∧
        e.ppage * 2 ^ e.logSize + vaOff r.va % 2 ^ e.logSize = p.off))

/-- R257, R259, R268, R272, R273: WAITL reads every pending lane against d, sleeps, and its sleep ends; bytes written to a monitored line, by a
store or by another, end it, and so does a FENCE.PUBB. WAITL_WAKE ends the sleep of the group and does nothing else. That it may come at any
turn, and that FENCE.PUBB ends every sleep whatever its lines, is the model's choice (log 30). -/
def Obligations.WaitlSleepsUntilItsLinesChange : Prop :=
  (∀ (s : State) (g : Group) (d a : BitVec 7) (n : BitVec 3) (o : BitVec 5) (sz : BitVec 1) (ph : Nat → Phys),
    let k := if sz = 0#1 then 4 else 8
    let w := if sz = 0#1 then 1 else 2
    let va := addrOf s g n a 0
    let now := fun l => placeValue s (ph l) k
    let differs := ∃ l ∈ g.pending, now l ≠ (srcD s g d w l).toNat % 256 ^ k
    let reads := ∃ t s1, exec (.waitl d a o sz n) s = .next t ∧ OnlyTlbs s s1 ∧
      LaneResultIn s1 t g g.goesOn (dstOpnd d w) g.pending (fun l => BitVec.ofNat 128 (now l))
    Issues s g (.waitl d a o sz n) → Reaches s g .wait g.pending va k ph →
    (g.wait = .none → differs → reads) ∧
    (g.wait = .none → ¬ differs → ∃ t s1 x, exec (.waitl d a o sz n) s = .next t ∧ OnlyTlbs s s1 ∧ OwnGroup s1 t { g with wait := x } ∧
      x = .line (g.pending.map fun l => (normKind (ph l).kind, (ph l).off / 64)) false
        (if g.wto = 0 then none else some (groupClk s s.cur + 64 * g.wto.toNat))
        (if g.pending.any fun l => vaKind (va l) == 2 || vaKind (va l) == 3 then some (s.time + 4000) else none)) ∧
    (∀ ls woken limit latest, g.wait = .line ls woken limit latest →
      let due := woken = true ∨ (∃ c, limit = some c ∧ c ≤ groupClk s s.cur) ∨ ∃ c, latest = some c ∧ c ≤ s.time
      (due → reads) ∧ (¬ due → exec (.waitl d a o sz n) s = .next s))) ∧
  (∀ (s : State) (n : GroupId), ∃ t, exec (.waitlWake n) s = .next t ∧ t = { s with groups := t.groups } ∧
    (∀ m, m ≠ n → t.group? m = s.group? m) ∧
    (∀ g, s.group? n = some g → ∃ x, t.group? n = some x ∧ x = { g with wait := x.wait } ∧
      (∀ l w u v, g.wait = .line l w u v → x.wait = .line l true u v) ∧ ((∀ l w u v, g.wait ≠ .line l w u v) → x.wait = g.wait))) ∧
  (∀ (s : State) (id : GroupId) (x : Group) (ls : List (Nat × Nat)) (u v : Option Nat), s.group? id = some x → x.wait = .line ls false u v →
    let wakes := fun (t : State) (b : Bool) => ∃ y, t.group? id = some y ∧ y = { x with wait := .line ls b u v }
    let hit := fun (kind off : Nat) (n : Nat) => ∃ i < n, (normKind kind, (off + i) / 64) ∈ ls
    (∀ kind off l, (kind = 3 → s.cxlUp = true) → (hit kind off l.length → wakes (writeMem s kind off l) true) ∧
      (¬ hit kind off l.length → wakes (writeMem s kind off l) false)) ∧
    (∀ (g : Group) (d a : BitVec 7) (n sz : BitVec 3) (h : BitVec 1) (o : BitVec 5) (ph : Nat → Phys), id ≠ s.cur →
      let k := if sz.toNat < 2 then 1 else if sz.toNat < 4 then 2 else if sz = 4#3 then 4 else if sz = 5#3 then 8 else 16
      let sx : BitVec 2 := sz.extractLsb' 0 2
      let kx := if sx = 0#2 then 4 else if sx = 1#2 then 8 else 16
      let off := match g.preLit with
        | some p => p.toInt
        | none => 0
      let met := fun (k : Nat) => ∃ l ∈ g.pending, hit (ph l).kind (ph l).off k
      (Issues s g (.st d a n sz h) → Reaches s g .store g.pending (addrOf s g n a off) k ph →
        ∃ t, exec (.st d a n sz h) s = .next t ∧ (met k → wakes t true) ∧ (¬ met k → wakes t false)) ∧
      (Issues s g (.stx d a o sx n) → Reaches s g .store g.pending (addrOf s g n a 0) kx ph →
        ∃ t, exec (.stx d a o sx n) s = .next t ∧ (met kx → wakes t true) ∧ (¬ met kx → wakes t false)) ∧
      (Issues s g (.fencePubb a o n) → g.active ≠ [] → (∀ l ∈ g.active, (pubbPair s s.cur g (addrOf s g n a 0 l)).toBool = true) →
        ∃ t, exec (.fencePubb a o n) s = .next t ∧ wakes t true)))

/-- R261, R263: KACQ reads the generation of a bound key, KREL adds one to it and reads it; both trap PROT where the partition has no such key
or it is not bound. A write of KBASE binds the selected key to the region of KLEN lines. -/
def Obligations.KeysCountTheirReleases : Prop :=
  ∀ (s : State) (g : Group) (d a : BitVec 7) (i : BitVec 11) (v : Dword),
    let imm : Int := match g.preLit with
      | some p => (p ++ i).toInt
      | none => i.toInt
    let k := (if a = 112#7 then (0 : Dword) else storeGet g.s (a.toNat - 96)).toInt + imm
    let p := s.part g.part
    let m := p.kLo.toNat + k.toNat
    let bound := 0 ≤ k ∧ k < p.kN.toNat ∧ (s.key m).v = true
    (bound → Gives s g (.kacq d a i) d 1 (fun _ => ((s.key m).gen.setWidth 32).setWidth 128)) ∧
    (bound → Issues s g (.krel d a i) → ∃ t s1, exec (.krel d a i) s = .next t ∧ s1 = { s with keys := s1.keys } ∧
      s1.key m = { s.key m with gen := (s.key m).gen + 1 } ∧ (∀ j, j ≠ m → s1.key j = s.key j) ∧
      Answers s1 t g d (((s.key m).gen + 1).setWidth 32)) ∧
    (¬ bound → (Issues s g (.kacq d a i) → exec (.kacq d a i) s = .next (raiseAll s s.cur g .prot (BitVec.ofInt 64 k))) ∧
      (Issues s g (.krel d a i) → exec (.krel d a i) s = .next (raiseAll s s.cur g .prot (BitVec.ofInt 64 k)))) ∧
    (s.group? s.cur = some g → g.mode ≠ .u →
      let kind : BitVec 3 := v.extractLsb' 48 3
      let q := p.kLo.toNat + g.ksel.toNat
      (kind.toNat ≤ 1 → g.ksel.toNat < p.kN.toNat → ∃ t, exec (.kbaseWrite v) s = .next t ∧ t = { s with keys := t.keys } ∧
        t.key q = { s.key q with v := v.getLsbD 63, kind := kind, base := v.extractLsb' 6 42 ++ 0#6, lines := g.klen } ∧
        ∀ j, j ≠ q → t.key j = s.key j) ∧
      (1 < kind.toNat ∨ p.kN.toNat ≤ g.ksel.toNat → exec (.kbaseWrite v) s = .next s))

/-- R264, R266, R274: shadow pairs are added and removed by SHDCTL; FENCE.PUBB inverts each pair that an active lane names once, or none if a lane
fails; FENCE orders accesses, all of which this model performs at once (log 3). -/
def Obligations.PublishingInvertsThePairsNamed : Prop :=
  ∀ (s : State) (g : Group) (a : BitVec 7) (o : BitVec 5) (n : BitVec 3) (v : Dword) (pr : Nat → Pair) (cs : Nat → Cause),
    let va := addrOf s g n a 0
    let good := fun l => (pubbPair s s.cur g (va l)).toBool
    let bad := g.active.filter fun l => !good l
    let z : BitVec 2 := v.extractLsb' 60 2
    let lower := (v.extractLsb' 16 32).toNat * 2 ^ 16
    let kind := (v.extractLsb' 57 3).toNat
    let log := if z = 0#2 then 16 else if z = 1#2 then 21 else 30
    let malformed := z = 3#2 ∨ lower % 2 ^ (log + 1) ≠ 0
    let found := ∃ q ∈ s.pairs, q.part = g.part ∧ q.kind = kind ∧ q.logSize = log ∧ q.lower = lower
    let p := s.part g.part
    let tells := fun (i : Instr) (c : BitVec 3) => ∃ t, exec i s = .next t ∧ OnePart s t g.part { p with shdStatus := c }
    GivesGroup s g (.fence o) g.goesOn ∧
    (Issues s g (.fencePubb a o n) → (∀ l ∈ g.active, pubbPair s s.cur g (va l) = .ok (pr l) ∨ pubbPair s s.cur g (va l) = .error (cs l)) →
      (bad = [] → ∃ t, exec (.fencePubb a o n) s = .next t ∧
        t = { s with pairs := t.pairs, groups := t.groups, fresh := t.fresh } ∧
        t.pairs = s.pairs.map (fun q => { q with front := q.front != g.active.any fun l => pr l == q }) ∧
        t.group? s.cur = some g.goesOn ∧
        ∀ id x, id ≠ s.cur → s.group? id = some x → ∃ y, t.group? id = some y ∧ y = { x with wait := y.wait }) ∧
      (∀ l, bad.head? = some l → ∃ t u, exec (.fencePubb a o n) s = .next t ∧ OnlyOwn s u ∧
        u.group? s.cur = some { g with dm := 0 } ∧ t = takeTrap u s.cur (cs l) (packVa (va l)) (maskOf bad) g.epc)) ∧
    (s.group? s.cur = some g → g.mode ≠ .u →
      (malformed → tells (.shdctlAdd v) 3 ∧ tells (.shdctlRemove v) 3) ∧
      (¬ malformed → found → tells (.shdctlAdd v) 2 ∧ ∃ t q, exec (.shdctlRemove v) s = .next t ∧ q ∈ s.pairs ∧
        (q.part = g.part ∧ q.kind = kind ∧ q.logSize = log ∧ q.lower = lower) ∧
        OnePart { s with pairs := s.pairs.filter (· != q) } t g.part { p with shdStatus := 0 }) ∧
      (¬ malformed → ¬ found → tells (.shdctlRemove v) 2 ∧ (4096 ≤ s.pairs.length → tells (.shdctlAdd v) 1) ∧
        (s.pairs.length < 4096 → ∃ t, exec (.shdctlAdd v) s = .next t ∧
          OnePart { s with pairs := s.pairs ++ [⟨g.part, kind, log, lower, false⟩] } t g.part { p with shdStatus := 0 })))

/-- R275 to R278: BAR checks membership and count once, arrives, waits until every member has and PB is zero, and consumes PASS, whoever has
joined or left while it waited; a wrong membership or count traps BARM. PBADD adds to PB. A copy that ends for a saved team lowers PB in the
team's image, where the phase passes as in a live one. -/
def Obligations.BarriersPassWhenEveryMemberHasArrived : Prop :=
  ∀ (s : State) (g : Group) (tm : Team) (d : BitVec 7) (v : BitVec 2) (n : BitVec 4) (x : Dword), s.team? g.team = some tm →
    let i := if v = 0#2 then n.toNat else if v = 1#2 then 16 + n.toNat else 24 + n.toNat
    let scope := if v = 0#2 then g.team else if v = 1#2 then tm.core / 2 else tm.part
    let member := if v = 0#2 then (storeGet tm.tbar n.toNat).getLsbD g.gid else if v = 1#2 then tm.cbar.getLsbD n.toNat
      else tm.gbar.getLsbD n.toNat
    let members := (memberArr s i scope).length
    let p := match g.preLit with
      | some l => l.toNat
      | none => 0
    let rest := (s.groups.all fun e => e.1 == s.cur || !isMember s e.2 i scope || e.2.arr.getLsbD i) &&
      s.images.all (fun im => im.groups.all fun e => !imageMember im e.2 i scope || e.2.arr.getLsbD i)
    let bytes := v = 0#2 → storeGet tm.pb n.toNat = 0
    let bit := 1#28 <<< i
    (Issues s g (.bar d v n) → (s.groups.filter fun e => e.1 == s.cur).length = 1 →
    (g.wait ≠ .barrier i → member = false ∨ (p ≠ 0 ∧ p ≠ members) → exec (.bar d v n) s = .next (raiseAll s s.cur g .barm
      (BitVec.ofNat 64 ((if member then 0 else 2 ^ 63) + members * 2 ^ 32 + p)))) ∧
    (g.wait = .barrier i ∨ (member = true ∧ (p = 0 ∨ p = members)) →
      (g.pass.getLsbD i = true → ∃ t, exec (.bar d v n) s = .next t ∧
        LaneResult s t g { g.goesOn with pass := g.pass &&& ~~~bit } (dstOpnd d 1) (fun _ => (phaseOf s i scope).setWidth 128)) ∧
      (member = true → g.pass.getLsbD i = false → g.arr.getLsbD i = false → rest = true → bytes → ∃ t s2, exec (.bar d v n) s = .next t ∧
        s2 = { s with groups := s2.groups, images := s2.images, teams := s2.teams, clusters := s2.clusters, parts := s2.parts } ∧
        phaseOf s2 i scope = phaseOf s i scope + 1 ∧
        LaneResult s2 t g g.goesOn (dstOpnd d 1) (fun _ => (phaseOf s i scope + 1).setWidth 128) ∧
        ∀ id y, id ≠ s.cur → s.group? id = some y → isMember s y i scope → t.group? id = some { y with
          arr := y.arr &&& ~~~bit, pass := y.pass ||| bit }) ∧
      (g.pass.getLsbD i = false → g.arr.getLsbD i = false → (rest = false ∨ ¬ bytes) → ∃ t, exec (.bar d v n) s = .next t ∧
        OwnGroup s t { g with arr := g.arr ||| bit, wait := .barrier i }) ∧
      (g.pass.getLsbD i = false → g.arr.getLsbD i = true → ∃ t, exec (.bar d v n) s = .next t ∧
        OwnGroup s t { g with wait := .barrier i }))) ∧
    (s.group? s.cur = some g → ∃ t tm', exec (.pbadd x) s = .next t ∧ t.team? g.team = some tm' ∧
      storeGet tm'.pb (x.toNat / 2 ^ 48 % 16) = storeGet tm.pb (x.toNat / 2 ^ 48 % 16) + x.extractLsb' 0 48 ∧
      ∀ j, j ≠ x.toNat / 2 ^ 48 % 16 → storeGet tm'.pb j = storeGet tm.pb j) ∧
    (∀ (im : Image) (k : Nat) (w : BitVec 48), k < 16 →
      let y := imageBytesDone im k w
      let mem := fun (e : Nat × Group) => (storeGet im.team.tbar k).getLsbD e.2.gid = true
      let passes := (∃ e ∈ im.groups, mem e) ∧ (∀ e ∈ im.groups, mem e → e.2.arr.getLsbD k = true) ∧ storeGet im.team.pb k = w
      let flag := 1#28 <<< k
      y = { im with team := { im.team with pb := y.team.pb, ph := y.team.ph }, groups := y.groups } ∧
      storeGet y.team.pb k = storeGet im.team.pb k - w ∧ (∀ j, j ≠ k → storeGet y.team.pb j = storeGet im.team.pb j) ∧
      (passes → storeGet y.team.ph k = storeGet im.team.ph k + 1 ∧ ∀ e ∈ im.groups, (mem e →
        (e.1, { e.2 with arr := e.2.arr &&& ~~~flag, pass := e.2.pass ||| flag }) ∈ y.groups) ∧ (¬ mem e → e ∈ y.groups)) ∧
      (¬ passes → y.groups = im.groups ∧ y.team.ph = im.team.ph))

/-- R104 to R109 (Table 8): SPOP, SPOP.OPEN, SREL and SREL.FREE on a ring of N slots of B bytes. -/
def Obligations.RingsMoveSlotsThroughTheirStates : Prop :=
  ∀ (s : State) (g : Group) (tm : Team) (d r b : BitVec 7), s.team? g.team = some tm →
    let x := ringOf tm r.toNat
    let count := x.nm1.toNat + 1
    let bytes := 64 * (x.sz.toNat + 1)
    let word := fun (i : Nat) (ph : Bool) =>
      BitVec.ofNat 32 ((if ph then 2 ^ 31 else 0) + i * 2 ^ 24 + (x.base.toNat + i * bytes))
    let mine := fun (isOpen : Bool) => g.wait = .ring r.toNat isOpen
    let first := fun (isOpen : Bool) => (if g.wait == .ring r.toNat isOpen then (ringWaiters s tm r.toNat isOpen).takeWhile (· != s.cur)
      else ringWaiters s tm r.toNat isOpen) = []
    let takes := fun (i : Instr) (w : Word) (y : Ring) => Issues s g i → ∃ t s1, exec i s = .next t ∧
      OneTeam s s1 g.team { tm with rings := tabSet tm.rings r.toNat y, ringWait := tm.ringWait.filter (fun e => e.1 != s.cur) } ∧
      Answers s1 t g d w
    let waits := fun (i : Instr) (isOpen : Bool) => Issues s g i → (mine isOpen → exec i s = .next s) ∧
      (¬ mine isOpen → ∃ t s1, exec i s = .next t ∧ OneTeam s s1 g.team
        { tm with ringWait := tm.ringWait.filter (fun e => e.1 != s.cur) ++ [(s.cur, r.toNat, isOpen)] } ∧
        OwnGroup s1 t { g with wait := .ring r.toNat isOpen })
    let tells := fun (i : Instr) (v : Word) => Issues s g i → ∃ t, exec i s = .next t ∧ Answers s t g d v
    let releases := fun (i : Instr) (y : Ring) => Issues s g i → ∃ t s1, exec i s = .next t ∧
      OneTeam s s1 g.team { tm with rings := tabSet tm.rings r.toNat y } ∧ Answers s1 t g d 0
    (g.em = 0 → GivesGroup s g (.spop d r) g.goesOn ∧ GivesGroup s g (.spopOpen d r) g.goesOn) ∧
    (g.em ≠ 0 → x.en = false → tells (.spop d r) 0xFFFFFFFF ∧ tells (.spopOpen d r) 0xFFFFFFFF) ∧
    (g.em ≠ 0 → x.en = true →
      (first false → slotSt x x.ch.toNat = 2 → ∃ y, takes (.spop d r) (word x.ch.toNat (x.ph.getLsbD x.ch.toNat)) y ∧
        SlotNow x y x.ch.toNat 3 ∧ y.ch.toNat = (x.ch.toNat + 1) % count ∧
        y.cph = (if (x.ch.toNat + 1) % count = 0 then !x.cph else x.cph) ∧ y = { x with st := y.st, ch := y.ch, cph := y.cph }) ∧
      (first false → slotSt x x.ch.toNat ≠ 2 → waits (.spop d r) false) ∧ (¬ first false → waits (.spop d r) false) ∧
      (first true → slotSt x x.pt.toNat = 0 → ∃ y, takes (.spopOpen d r) (word x.pt.toNat (!x.ph.getLsbD x.pt.toNat)) y ∧
        SlotNow x y x.pt.toNat 1 ∧ y.pt.toNat = (x.pt.toNat + 1) % count ∧ y = { x with st := y.st, pt := y.pt }) ∧
      (first true → slotSt x x.pt.toNat ≠ 0 → waits (.spopOpen d r) true) ∧ (¬ first true → waits (.spopOpen d r) true)) ∧
    (g.active = [] → GivesGroup s g (.srel d r b) g.goesOn ∧ GivesGroup s g (.srelFree d r b) g.goesOn) ∧
    ∀ l, g.lowest = some l →
      let i := (b32 s g b l).toNat / 2 ^ 24 % 16
      (x.en = false → tells (.srel d r b) 1 ∧ tells (.srelFree d r b) 1) ∧
      (x.en = true → count ≤ i → tells (.srel d r b) 3 ∧ tells (.srelFree d r b) 3) ∧
      (x.en = true → i < count → slotSt x i = 3 → ∃ y, releases (.srelFree d r b) y ∧ SlotNow x y i 0 ∧ y = { x with st := y.st }) ∧
      (x.en = true → i < count → slotSt x i ≠ 3 → tells (.srelFree d r b) 2) ∧
      (x.en = true → i < count → emitRing s (.live g.team) r.toNat = false → slotSt x i ≤ 1 → ∃ y, releases (.srel d r b) y ∧
        SlotNow x y i 2 ∧ (∀ j, y.ph.getLsbD j = (x.ph.getLsbD j != (decide (j = i)))) ∧ y = { x with st := y.st, ph := y.ph }) ∧
      (x.en = true → i < count → emitRing s (.live g.team) r.toNat = false → 1 < slotSt x i → tells (.srel d r b) 2) ∧
      (x.en = true → i < count → emitRing s (.live g.team) r.toNat = true → Issues s g (.srel d r b) → ∃ t tm', exec (.srel d r b) s = .next t ∧
        t.team? g.team = some tm' ∧ ringOf tm' r.toNat = { x with badc := true } ∧ t.group? s.cur = some (withScalar g g.goesOn (dstOpnd d 1) fun _ => 2))

/-- R18, R19, R311, R325, R327, R330, R331: the steps of the hub's registers, and the strongbox's records. That a frozen strongbox keeps its cause
is log 45, that the steps come at any turn log 27, that FREEZE reads as set until FROZEN is cleared log 53; the UNIT of a throttling record (0)
and of the CXL port (18) is the model's choice too (log 45). -/
def Obligations.HubStepsChangeTheirFieldsAlone : Prop :=
  ∀ (s : State) (v : Dword) (port : Nat) (up : Bool),
    let frozen := fun (c : BitVec 3) => if s.sbFrozen = true then s else { s with sbFrozen := true, sbCause := c }
    let eccm : BitVec 2 := v.extractLsb' 10 2
    let vatx : BitVec 2 := v.extractLsb' 8 2
    let pinf : BitVec 2 := v.extractLsb' 6 2
    let prof : BitVec 2 := v.extractLsb' 0 2
    let reserved := 1 < eccm.toNat ∨ vatx = 3#2 ∨ prof = 3#2
    let locked := s.devLock = true ∧ (eccm ≠ s.devEccm ∨ vatx ≠ s.devVatx ∨ pinf ≠ s.devPinf)
    let limited := s.thrHot = true ∨ s.thrCur = true
    let steps := fun (n : BitVec 4) => ∃ t, exec .throttleStep s = .next t ∧ Recorded { s with thrLvl := n } t 5 0
    exec (.sbctlFreeze v) s = .next (if v.getLsbD 0 = true then { frozen 4 with sbFreeze := true } else s) ∧
    exec (.sbstatUnfreeze v) s = .next (if v.getLsbD 63 = true then { s with sbFrozen := false, sbFreeze := false } else s) ∧
    exec .thermalTrip s = .next (if 115 ≤ s.thrTemp.toNat then { frozen 3 with inReset := true } else s) ∧
    exec (.devmodeWrite v) s = .next (if reserved ∨ locked then { s with devBadw := true } else
      { s with devEccm := eccm, devVatx := vatx, devPinf := pinf, devProf := prof, devLock := s.devLock || v.getLsbD 31,
               devBadw := s.devBadw && !v.getLsbD 30 }) ∧
    exec .profileTransitionComplete s = .next { s with devPact := s.devProf } ∧
    (s.firstStart = true → exec (.featenWrite v) s = .next s) ∧
    (s.firstStart = false → ∃ t, exec (.featenWrite v) s = .next t ∧ t = { s with featen := t.featen } ∧
      ∀ i < 11, t.featen.getLsbD i = (decide (i = 0) || (v.getLsbD i && Config.featCap.getLsbD i))) ∧
    (limited → s.thrLvl.toNat < 8 → steps (s.thrLvl + 1)) ∧
    (¬ limited → s.thrTemp.toNat < 100 → 0 < s.thrLvl.toNat → steps (s.thrLvl - 1)) ∧
    (limited ∧ 8 ≤ s.thrLvl.toNat ∨ ¬ limited ∧ (100 ≤ s.thrTemp.toNat ∨ s.thrLvl = 0) → exec .throttleStep s = .next s) ∧
    (port < 18 → s.portUp.getLsbD port ≠ up → ∃ t u, exec (.linkChange port up) s = .next t ∧
      u = { s with portUp := u.portUp } ∧ (∀ j < 18, u.portUp.getLsbD j = if j = port then up else s.portUp.getLsbD j) ∧ Recorded u t 4 port) ∧
    (s.cxlUp ≠ up → ∃ t, exec (.linkChange 18 up) s = .next t ∧ Recorded { s with cxlUp := up } t 4 18) ∧
    (port < 18 ∧ s.portUp.getLsbD port = up ∨ port = 18 ∧ s.cxlUp = up → exec (.linkChange port up) s = .next s)

/-- R21, R328, R329, R330, R331: a start that passes leaves the machine as after reset but for what it keeps (what the model counts for itself, time,
the strongbox's records and the contents of the pool: log 2, the temperature: log 1, its input on the pool: log 9); a warm start keeps the
strongbox, frozen, and the mode and identity of the device. Step 4 fails by the image's key, version or signature, unless an earlier step
has failed. A start whose step fails leaves the device in reset. The bytes that the signature covers are a free value (log 57). That one that fails before the memory clear leaves memory, that a
device that has tripped waits for a cold start, that the CXL link is then up and CAUSE kept are the model's choice (log 45). -/
def Obligations.StartsLeaveWhatTheyKeep : Prop :=
  ∀ (s : State) (b : BootInput),
    let own : State := { State.reset with
      time := s.time, fresh := s.fresh, turns := s.turns, agenda := s.agenda, sent := s.sent, naks := s.naks, cxl := s.cxl, thrTemp := s.thrTemp,
      starts := s.starts + 1, nextUid := s.nextUid, nextCopy := s.nextCopy, nextXid := s.nextXid,
      poison := s.poison.filter (fun p => p.1 == 3), strongbox := s.strongbox, poolSz := b.poolSz, cxlUp := decide (b.poolSz ≠ 0) }
    let good := leNat (shake256 b.key 32) = b.fusedHash.toNat ∧ b.fusedVersion ≤ b.version ∧
      Machine.slhVerify b.key (Config.signedMessage b.key b.version b.image) b.signature = true
    let cause := if s.sbFrozen = true then s.sbCause else 2
    let fails := fun (i : Instr) (n : Nat) (c : BitVec 3) => ∃ t, exec i s = .next t ∧ t.inReset = true ∧ t.bfail = true ∧
      t.bootFail = BitVec.ofNat 8 n ∧ t.sbFrozen = true ∧ t.sbCause = c ∧ (n < 6 → ∀ k a, k ≤ 4 → memByte t k a = memByte s k a)
    let ends := fun (i : Instr) (c : BitVec 3) (none_ : Prop) (pass : Prop) => (none_ → good → pass) ∧
      (none_ ∧ ¬ good ∨ ¬ none_ ∧ 4 < b.failAt ∧ ¬ good → fails i 4 c) ∧ (¬ none_ → b.failAt ≤ 4 ∨ good → fails i b.failAt c)
    let skipped := b.failAt = 2 ∨ (b.failAt = 1 ∧ b.storedOk = true)
    let passes := b.failAt = 0 ∨ 6 < b.failAt
    ends (.coldStart b) 1 passes (∃ t, exec (.coldStart b) s = .next t ∧
      t = { own with strongbox := t.strongbox, sbWidx := 6, bootKind := 1, bootStep := 6 } ∧
      (∀ k, 6 ≤ k → storeGet t.strongbox k = storeGet s.strongbox k) ∧
      ∀ k < 6, (storeGet t.strongbox k).extractLsb' 0 64 = BitVec.ofNat 64 s.time ∧
        (storeGet t.strongbox k).extractLsb' 64 32 = BitVec.ofNat 32 k ∧ (storeGet t.strongbox k).extractLsb' 96 8 = 6#8) ∧
    (s.inReset = true → s.bootFail = 0 → exec (.warmStart b) s = .next s) ∧
    (s.inReset = false ∨ s.bootFail ≠ 0 → ends (.warmStart b) cause (passes ∨ skipped) (exec (.warmStart b) s = .next { own with
        sbWidx := s.sbWidx, sbFrozen := true, sbCause := cause, sbDrop := BitVec.ofNat 16 (min 65535 (s.sbDrop.toNat + 5)),
        devNum := s.devNum, devEccm := s.devEccm, devVatx := s.devVatx, devPinf := s.devPinf, eccMode := s.devEccm, bootKind := 2,
        bootRetrain := !b.storedOk, bootStep := 6, warms := s.warms + 1 }))

/-- R306 (Tables 22, 23): an accepted start gives the partition the registers of its record, zero events, unbound keys, no pairs and the cores it
names, and launches its first team; an accepted end releases what the partition held. Each refusal has its STATUS and no other effect. That an
end removes the partition's mailbox records, that PSTART is carried out in the step of its write, and that LSTAT stays as the last refused first
launch left it, is the model's choice (log 46). -/
def Obligations.PartitionsStartAndEnd : Prop :=
  ∀ (s : State) (v : Dword),
    let part := (v.extractLsb' 56 6).toNat
    let off := (v.extractLsb' 6 42).toNat * 64
    let l := bytesAt s 0 off 128
    let w := fun (k : Nat) => BitVec.ofNat 64 (leField l (8 * k) 8)
    let tells := fun (i : Instr) (n : BitVec 3) => exec i s = .next { s with psStatus := n }
    let there := off + 128 ≤ hbmSize s ∧ poisonIn s 0 off 128 = none
    let used := (s.teams.any fun e => e.2.part == part) ||
      (s.reserves.any fun r => s.images.any fun im => im.team.uid == r.uid && im.part == part) ||
      (s.queues.any fun e => e.2.en && e.2.owner.toNat == part) || s.vacate.any fun x => x.part == part
    let p := s.part part
    (s.psPend = true → exec (.partitionStart v) s = .next s ∧ exec (.partitionEnd v) s = .next s) ∧
    (s.psPend = false → s.live.getLsbD part = true → tells (.partitionStart v) 2 ∧ (used = true → tells (.partitionEnd v) 2) ∧
      (used = false → ∃ t, exec (.partitionEnd v) s = .next t ∧ t.psStatus = 0 ∧ t.psLstat = s.psLstat ∧ t.live = s.live &&& ~~~(1#64 <<< part) ∧
        (∀ u q, (u, q) ∈ t.pinned → (u, q) ∈ s.pinned ∧ q ≠ part) ∧ (∀ q, q ∈ t.pairs ↔ q ∈ s.pairs ∧ q.part ≠ part) ∧
        (∀ e, e ∈ t.cellar ↔ e ∈ s.cellar ∧ ¬ (e.part = part ∧ e.released = true)) ∧
        (∀ k, t.key k = if p.kLo.toNat ≤ k ∧ k < p.kLo.toNat + p.kN.toNat then { s.key k with v := false } else s.key k) ∧
        (∀ c, (t.core c).mailbox = (s.core c).mailbox.filter (fun r => r.1 != part) ∧ coreHeld t c part = false) ∧
        ∀ q, q ≠ part → t.part q = s.part q)) ∧
    (s.psPend = false → s.live.getLsbD part = false → tells (.partitionEnd v) 1 ∧ (¬ there → tells (.partitionStart v) 3) ∧
      (there → startBad l = true → tells (.partitionStart v) 1) ∧
      (there → startBad l = false → (∃ c ∈ startCores l, (s.core c).slmap.getLsbD 7 = true) → tells (.partitionStart v) 2) ∧
      (there → startBad l = false → (∀ c ∈ startCores l, (s.core c).slmap.getLsbD 7 = false) → ∃ t s0 q,
        exec (.partitionStart v) s = .next t ∧ s0.part part = q ∧
        q = { Partition.start with
          s1root := (w 0).extractLsb' 15 33, s2root := (w 1).extractLsb' 15 33, hroot := (w 2).extractLsb' 15 33, stvec := w 3,
          stwb := (w 4).extractLsb' 0 9, htvec := w 5, htwb := (w 6).extractLsb' 0 9, evN := (w 7).extractLsb' 32 17,
          evLo := (w 7).extractLsb' 16 16, evDpn := (w 7).extractLsb' 0 16, kN := (w 8).extractLsb' 32 15, kLo := (w 8).extractLsb' 0 14,
          pinq := (w 9).extractLsb' 0 7, feat := s.featen.setWidth 64 } ∧
        (∀ j, j ≠ part → s0.part j = s.part j) ∧
        (∀ i, storeGet s0.events i = if q.evLo.toNat ≤ i ∧ i < q.evLo.toNat + q.evN.toNat then 0 else storeGet s.events i) ∧
        (∀ k, s0.key k = if q.kLo.toNat ≤ k ∧ k < q.kLo.toNat + q.kN.toNat then Key.unbound else s.key k) ∧
        (∀ x, x ∈ s0.pairs ↔ x ∈ s.pairs ∧ x.part ≠ part) ∧ s0.live = s.live ||| 1#64 <<< part ∧
        s0.devLock = true ∧ s0.idLock = true ∧ s0.firstStart = true ∧
        (∀ c ∈ startCores l, slByte (s0.core c).slmap 0 = 0x80#8 + BitVec.ofNat 8 part) ∧
        (let x := launch s0 part (leField l 80 8)
         (x.2 = 0 → (∀ r, tableRead s0 part (leField l 80 8) 320 = some r → ∀ c ∈ coresOf r, c ∈ startCores l) →
           t = { x.1 with psStatus := 0 } ∧ t.psLstat = s.psLstat) ∧
         (x.2 = 0 → (∃ r, tableRead s0 part (leField l 80 8) 320 = some r ∧ ∃ c ∈ coresOf r, c ∉ startCores l) →
           t = { s0 with psStatus := 4, psLstat := 2 }) ∧
         (x.2 ≠ 0 → t.psStatus = 4 ∧ t.psLstat ≠ 0 ∧ t = { s0 with psStatus := 4, psLstat := t.psLstat }))))

/-- R6, R52, R60, R320, R323, R324, R326, R327: what arrives from outside: RDMA writes, peers' accesses, and the host complex's loads, stores and
register writes, each performed where it may be and refused where it may not. An access to the pool whose link is down is an uncorrectable
error. The ranges of RDMA writes and of peers lie in one 64 KiB page here. The model's choices: the lowest region with an RKEY serves, a KIND
other than 0 and 2 is refused, a peer's access is in S mode and one that passes out of its page is refused (log 43); registers take stores of
their own width and the host's fault (log 25), a refusal's causes (log 10), a teller that has nothing queued serves at once (log 17), the
die on which an error at the pool's port is counted and its record (log 45). -/
def Obligations.OutsideAccessesReachWhatTheyMay : Prop :=
  ∀ (s : State) (m : RdmaMsg) (r : Nat) (q : RemoteReq) (a : HostAccess) (off kind : Nat) (v : Dword) (l : List Byte) (p : Phys),
    let c := storeGet s.nrctl r
    let b := storeGet s.nrbase r
    let part := (c.extractLsb' 48 6).toNat
    let place := (b.extractLsb' 16 32).toNat * 65536 + m.off
    let nak := { s with naks := s.naks + 1 }
    let is := fun (k : Nat) => (storeGet s.nrctl k).getLsbD 63 = true ∧ (storeGet s.nrctl k).extractLsb' 0 32 = m.rkey
    let inside := m.off + m.data.length ≤ (b.extractLsb' 48 16).toNat * 65536
    let answer := fun (i : Instr) (x : Sent) => exec i s = .next { s with sent := s.sent ++ [x] }
    let down := fun (k : Nat) => k = 3 ∧ s.cxlUp = false
    let noted := fun (u : State) => ∃ w, Recorded { s with eccUe := w } u 3 18 ∧ (∀ d, d ≠ 4 → storeGet w d = storeGet s.eccUe d) ∧
      storeGet w 4 = if storeGet s.eccUe 4 = 0xFFFFFFFF#32 then 0xFFFFFFFF#32 else storeGet s.eccUe 4 + 1
    let fails := fun (i : Instr) (x : Sent) => ∃ t u, exec i s = .next t ∧ noted u ∧ t = { u with sent := s.sent ++ [x] }
    -- what a unit's read leaves behind while the pool's link is down
    (∀ k engine mode va, (s.cxlUp = true ∨ vaKind va ≠ 3 → linkNote s k engine mode va = s) ∧
      (s.cxlUp = false → vaKind va = 3 → vaDev va = s.devNum.toNat → ∀ ph, translate s 384 k engine mode .load 3 (vaOff va) = .ok ph →
        noted (linkNote s k engine mode va))) ∧
    let bound := fun (k : Nat) => boundPart s q.dev q.part = some k ∧ vaDev q.va = s.devNum.toNat ∧
      vaOff q.va % 65536 + kindBytes q.kind ≤ 65536
    let memory := 0 < kindBytes a.kind ∧ (kind = 2 ∧ a.addr = 0x1000000000 + off ∧ off + kindBytes a.kind ≤ 2 ^ 36 ∨
      kind = 0 ∧ a.addr = 0x10000000000 + off ∧ off + kindBytes a.kind ≤ hbmSize s ∨
      kind = 3 ∧ a.addr = 0x20000000000 + off ∧ off + kindBytes a.kind ≤ poolSize s)
    let serves := fun (i : Instr) (x : TellerReq) (h : Nat) (reply : List Byte → Sent) (refusal : Cause → Sent) =>
      ((s.cluster h).teller = [] → (∀ o, (serveAtomic s x).2 = .ok o → exec i s = .next
        { (serveAtomic s x).1 with sent := s.sent ++ [reply (leBytes (atomicBytes x.wide) o.toNat)] }) ∧
        ∀ e, (serveAtomic s x).2 = .error e → exec i s = .next { (serveAtomic s x).1 with sent := s.sent ++ [refusal e] }) ∧
      ((s.cluster h).teller ≠ [] → ∃ t, exec i s = .next t ∧ OneCluster s t h { s.cluster h with teller := (s.cluster h).teller ++ [x] })
    -- the network
    exec (.roceRefusedOperation m) s = .next nak ∧
    ((∀ k < 64, ¬ is k) → exec (.rdmaWrite m) s = .next nak) ∧
    (r < 64 → is r → (∀ k < r, ¬ is k) →
      (c.getLsbD 62 = true →
        (¬ inside ∨ ¬ (c.extractLsb' 59 3 = 0#3 ∨ c.extractLsb' 59 3 = 2#3) → exec (.rdmaWrite m) s = .next nak) ∧
        (inside → (c.extractLsb' 59 3 = 0#3 ∨ c.extractLsb' 59 3 = 2#3) → 0 < m.data.length → place % 65536 + m.data.length ≤ 65536 →
          (∀ e, translate s 384 part false .s .store (c.extractLsb' 59 3).toNat place = .error e → exec (.rdmaWrite m) s = .next nak) ∧
          (translate s 384 part false .s .store (c.extractLsb' 59 3).toNat place = .ok p →
            ∃ t, exec (.rdmaWrite m) s = .next t ∧ Stored s t p.kind p.off m.data))) ∧
      (c.getLsbD 62 = false → (8192 < m.off + m.data.length → exec (.rdmaWrite m) s = .next nak) ∧
        (m.off + m.data.length ≤ 8192 → 0 < m.data.length → exec (.rdmaWrite m) s =
          exec (.wake ⟨m.off / 64, m.off % 64 == 0 && m.data.length == 64, m.data⟩) s))) ∧
    -- peers
    ((∀ k, ¬ bound k) → answer (.remoteAccess q) (.refusal q.dev 0x08)) ∧
    (∀ k, bound k →
      let tgt := translate s 384 k q.copy .s (kindGrant q.kind) (vaKind q.va) (vaOff q.va)
      (∀ e, tgt = .error e → answer (.remoteAccess q) (.refusal q.dev e.code)) ∧
      (tgt = .ok p →
        (∀ n, q.kind = .read n → poisonIn s p.kind p.off n = none → answer (.remoteAccess q) (.reply q.dev (bytesAt s p.kind p.off n))) ∧
        (∀ n, q.kind = .read n → poisonIn s p.kind p.off n ≠ none → ¬ down p.kind → answer (.remoteAccess q) (.refusal q.dev 0x11)) ∧
        (∀ n, q.kind = .read n → 0 < n → down p.kind → fails (.remoteAccess q) (.refusal q.dev 0x11)) ∧
        (q.kind = .write l → down p.kind → fails (.remoteAccess q) (.reply q.dev [])) ∧
        (q.kind = .write l → ¬ down p.kind → ∃ t u, exec (.remoteAccess q) s = .next t ∧ Stored s u p.kind p.off l ∧
          t = { u with sent := s.sent ++ [.reply q.dev []] }) ∧
        ∀ op wide x y, q.kind = .atomic op wide x y →
          serves (.remoteAccess q) ⟨.peer q.dev, op, wide, p.kind, p.off, p.shd, k, x, y, s.qepoch⟩ (homeOf p.kind p.off) (.reply q.dev)
            (fun e => .refusal q.dev e.code))) ∧
    -- the host complex
    (memory →
      (∀ n, a.kind = .read n → poisonIn s kind off n = none → answer (.hostMemoryAccess a) (.hostReply (bytesAt s kind off n))) ∧
      (∀ n, a.kind = .read n → poisonIn s kind off n ≠ none → ¬ down kind → answer (.hostMemoryAccess a) .hostPoison) ∧
      (∀ n, a.kind = .read n → down kind → fails (.hostMemoryAccess a) .hostPoison) ∧
      (a.kind = .write l → down kind → ∃ t, exec (.hostMemoryAccess a) s = .next t ∧ noted t) ∧
      (a.kind = .write l → ¬ down kind → ∃ t, exec (.hostMemoryAccess a) s = .next t ∧ Stored s t kind off l) ∧
      ∀ op wide x y, a.kind = .atomic op wide x y →
        serves (.hostMemoryAccess a) ⟨.host, op, wide, kind, off, false, 0, x, y, s.qepoch⟩ (homeOf kind off) .hostReply (fun _ => .hostPoison)) ∧
    (hbmSize s ≤ off → off + kindBytes a.kind ≤ 576 * 2 ^ 30 → a.addr = 0x10000000000 + off → 0 < kindBytes a.kind →
      (∀ n, a.kind = .read n → answer (.hostMemoryAccess a) (.hostReply (List.replicate n 0))) ∧
      (a.kind = .write l → exec (.hostMemoryAccess a) s = .next s)) ∧
    (0x100000 ≤ a.addr → a.addr < 0x110000 → a.mmode = false → answer (.hostMemoryAccess a) .hostFault) ∧
    (off + 8 ≤ 0x10000 → off % 8 = 0 → l.length = 8 →
      exec (.hostMemoryAccess ⟨0x100000 + off, true, a.hsmode, .write l⟩) s = exec (.registerWrite (.housekeeping off) (BitVec.ofNat 64 (leNat l))) s ∧
      exec (.hostMemoryAccess ⟨0x200000 + off, false, true, .write l⟩) s = exec (.registerWrite (.queueBlock off) (BitVec.ofNat 64 (leNat l))) s) ∧
    (l.length = 4 → exec (.hostMemoryAccess ⟨0x100040, true, a.hsmode, .write l⟩) s = exec (.devmodeWrite (BitVec.ofNat 64 (leNat l))) s) ∧
    -- registers without a row of their own
    exec (.registerWrite (.housekeeping 0) v) s = .next (if s.idLock = true then s else { s with devNum := v.extractLsb' 0 13 }) ∧
    exec (.registerWrite (.housekeeping 0x10) v) s = .next { s with warmReq := s.warmReq || v.getLsbD 0 } ∧
    (∃ t, exec (.registerWrite (.housekeeping 0x88) v) s = .next t ∧ t = { s with eccUe := t.eccUe, eccCe := t.eccCe } ∧
      ∀ d < 5, storeGet t.eccUe d = (if v.getLsbD d = true then 0 else storeGet s.eccUe d) ∧
        storeGet t.eccCe d = if v.getLsbD d = true then 0 else storeGet s.eccCe d) ∧
    (r < 64 → exec (.registerWrite (.queueBlock (0x3000 + 16 * r)) v) s =
        .next { s with nrctl := storeSet s.nrctl r (v &&& 0xF83F0000FFFFFFFF#64) } ∧
      exec (.registerWrite (.queueBlock (0x3008 + 16 * r)) v) s = .next { s with nrbase := storeSet s.nrbase r (v &&& 0xFFFFFFFFFFFF0000#64) }) ∧
    (∀ g n, s.group? s.cur = some g → n < 4 → ∃ t, exec (.registerWrite (.csr (BitVec.ofNat 11 n)) v) s = .next t ∧
      t = { s with groups := t.groups } ∧ t.group? s.cur = some { g with x := storeSet g.x n (v.extractLsb' 0 9) }) ∧
    (∀ u g, s.group? u = some g → ∃ t, exec (.registerWrite (.debug u 0x605#11) v) s = .next t ∧ t = { s with groups := t.groups } ∧
      t.group? u = some { g with dbg := { g.dbg with pc := v &&& ~~~3#64 } })

/-- R56, R57, R65, R68, R69, R72: pinned units, TLB invalidation, the cellar, and the prefetches. The page that TLBI and TLBIG name, for an entry
of another size, and the removal of H mode's entries by a TLBI follow R65 as log 47 says. -/
def Obligations.MemorySystemOperationsTakeEffect : Prop :=
  ∀ (s : State) (g : Group) (v : Dword) (a d : BitVec 7) (n : BitVec 3) (h : BitVec 1), s.group? s.cur = some g →
    let first := (v.extractLsb' 42 7).toNat
    let count := (v.extractLsb' 35 7).toNat
    let die := (v.extractLsb' 56 2).toNat
    let limit := s.devPinf.toNat * (if s.devVatx = 0#2 then 32 else if s.devVatx = 1#2 then 28 else 24)
    let bad := count = 0 ∨ 96 < first + count
    let named := fun (u : Nat) => die * 96 + first ≤ u ∧ u < die * 96 + first + count
    let mine := (s.pinned.filter fun e => e.1 / 96 == die && e.2 == g.part).length
    let p := s.part g.part
    let tells := fun (i : Instr) (c : BitVec 3) => ∃ t, exec i s = .next t ∧ OnePart s t g.part { p with pinStatus := c }
    let units := fun (i : Instr) (o : Option Nat) => ∃ t, exec i s = .next t ∧ (t.part g.part).pinStatus = 0 ∧
      t = { s with win := t.win, poison := t.poison, pinned := t.pinned, parts := t.parts } ∧
      (∀ u, tabGet t.pinned u = if named u then o else tabGet s.pinned u) ∧
      ∀ u, u < 384 → ∀ j < 0x100000, memByte t 1 (0x100000000 + u / 96 * 0x10000000 + u % 96 * 0x100000 + j) =
        if named u then 0 else memByte s 1 (0x100000000 + u / 96 * 0x10000000 + u % 96 * 0x100000 + j)
    let kind := (v.extractLsb' 59 3).toNat
    let page := fun (k : Nat) => (v.extractLsb' 16 32).toNat * 65536 / 2 ^ k
    let drops := fun (i : Instr) (f : TlbEnt → Bool) => ∃ t, exec i s = .next t ∧ Dropped s t f
    let z : BitVec 2 := v.extractLsb' 62 2
    let pg : BitVec 32 := v.extractLsb' 16 32
    let refused := z = 3#2 ∨ pg.toNat * 2 ^ 16 % 2 ^ (if z = 0#2 then 16 else if z = 1#2 then 21 else 30) ≠ 0 ∨ 16384 ≤ s.cellar.length
    let released := s.cellar.filter fun e => e.part == g.part && e.released
    (g.mode ≠ .u →
      (bad → tells (.l2pinPin v) 4 ∧ tells (.l2pinUnpin v) 4) ∧
      (¬ bad → limit < first + count → tells (.l2pinPin v) 1) ∧
      (¬ bad → first + count ≤ limit → (∃ u, named u ∧ (tabGet s.pinned u).isSome = true) → tells (.l2pinPin v) 2) ∧
      (¬ bad → first + count ≤ limit → (∀ u, named u → tabGet s.pinned u = none) → p.pinq.toNat < mine + count → tells (.l2pinPin v) 3) ∧
      (¬ bad → first + count ≤ limit → (∀ u, named u → tabGet s.pinned u = none) → mine + count ≤ p.pinq.toNat →
        units (.l2pinPin v) (some g.part)) ∧
      (¬ bad → (∀ u, named u → tabGet s.pinned u = some g.part) → units (.l2pinUnpin v) none) ∧
      (¬ bad → (∃ u, named u ∧ tabGet s.pinned u ≠ some g.part) → tells (.l2pinUnpin v) 4) ∧
      drops (.tlbiAll v) (fun e => e.part == g.part) ∧
      drops (.tlbiPage v) (fun e => e.part == g.part && e.kind == kind && e.vpage == page e.logSize) ∧
      (refused → ∃ t, exec (.celadd v) s = .next t ∧ OnePart s t g.part { p with celRef := true }) ∧
      (¬ refused → exec (.celadd v) s = .next
        { s with cellar := s.cellar ++ [⟨g.part, z, v.extractLsb' 48 3, pg, s.qepoch, false⟩], qepoch := (s.qepoch + 1) % 2 ^ 64 })) ∧
    (g.mode = .h →
      drops (.tlbigAll v) (fun e => e.part == (v.extractLsb' 48 6).toNat) ∧
      drops (.tlbigPage v) (fun e => e.part == (v.extractLsb' 48 6).toNat && e.kind == kind && e.ipage == page e.logSize)) ∧
    (∃ t, exec .cellarRelease s = .next t ∧ t = { s with cellar := t.cellar } ∧
      ∀ e, e.stamp < qold s → e ∈ s.cellar → s.live.getLsbD e.part = true → { e with released := true } ∈ t.cellar) ∧
    (∀ t, exec .cellarRelease s = .next t → ∀ e ∈ t.cellar, e ∈ s.cellar ∨ ∃ x ∈ s.cellar, x.stamp < qold s ∧ e = { x with released := true }) ∧
    (released = [] → Issues s g (.csrr d 0x1B2#11) → ∃ t, exec (.celtake d) s = .next t ∧
      LaneResult s t g g.goesOn (dstOpnd d 2) (fun _ => 0)) ∧
    (∀ e rest, released = e :: rest → Issues s g (.csrr d 0x1B2#11) → ∃ t s1, exec (.celtake d) s = .next t ∧
      s1 = { s with cellar := s.cellar.erase e } ∧
      LaneResult s1 t g g.goesOn (dstOpnd d 2) (fun _ => (e.size ++ 0#11 ++ e.kind ++ e.page ++ 1#16).setWidth 128)) ∧
    GivesGroup s g (.prefL1 a n h) g.goesOn ∧ GivesGroup s g (.prefL2 a n h) g.goesOn

/-- R224 to R229, R231 to R233: EVSIG and its forms lower, set and read counters and post LAUNCH records; mailboxes are read in order and posted
to; JOB_POST holds a job for its operator's point and picks the least loaded unit. That MBRD takes the first record of the group's own
partition, JPOST's status without the slot in force, and which names a signal may have follow log 34; a remote signal of no binding counts
for the partition of its index (log 43). -/
def Obligations.EventsAndMailboxesCountAndDeliver : Prop :=
  ∀ (s : State) (g : Group) (d a b : BitVec 7) (h : BitVec 2) (part : Nat) (m : RemoteSignal),
    let n4 := 4 * h.toNat
    -- a counter is lowered by n for a partition: from s1 on
    let lowers := fun (s1 : State) (q i n cls : Nat) (t : State) =>
      let c := (storeGet s1.events i).toNat
      (n = 0 → t = s1) ∧
      (0 < n → n < c → t = { s1 with events := storeSet s1.events i (BitVec.ofNat 31 (c - n)) }) ∧
      (0 < n → c ≤ n → (s1.part q).jobs = [] → (s1.part q).streams = [] →
        t = { s1 with events := storeSet s1.events i 0, parts := t.parts } ∧ (∀ j, j ≠ q → t.part j = s1.part j) ∧
        let u := if c < n then satInc (s1.part q).undf else (s1.part q).undf
        (c = 0 ∨ cls = 0 ∧ (boundRecord s1 q i).2 = false → t.part q = { s1.part q with undf := u }) ∧
        (0 < c → ∀ l card, boundRecord { s1 with events := storeSet s1.events i 0 } q i = (some l, false) → leField l 0 2 ≠ 0 →
          readCard { s1 with events := storeSet s1.events i 0 } q (leField l 0 2) = some card →
          t.part q = if cardValid card = true then { s1.part q with undf := u, ready := (s1.part q).ready ++ [⟨recordFlags l card 2, byteAt card 0, none⟩] }
            else { s1.part q with undf := u, bindf := satInc (s1.part q).bindf }))
    (∀ l, g.lowest = some l →
      let e := a32 s g a l
      let dev := (e.extractLsb' 19 13).toNat
      let i := (e.extractLsb' 3 16).toNat
      let cls := (e.extractLsb' 0 3).toNat
      let dec := if b = 112#7 then 1 else (b32 s g b l).toNat
      let n := b32 s g b l
      let tells := fun (i : Instr) (s1 : State) (v : Word) => Issues s g i → ∃ t, exec i s = .next t ∧ Answers s1 t g d v
      let here := cls < 4 ∧ dev = s.devNum.toNat
      (4 ≤ cls → tells (.evsig d a b) s 2 ∧ tells (.evsigRd d a) s 0x80000002) ∧ (2 ≤ cls → tells (.evsigSet d a b) s 2) ∧
      (cls < 4 → dev ≠ s.devNum.toNat → tells (.evsigRd d a) s 0x80000003 ∧
        (reachable s dev = false → tells (.evsig d a b) s 3) ∧
        (reachable s dev = true → tells (.evsig d a b) { s with sent := s.sent ++ [.signal dev e false (BitVec.ofNat 32 dec)] } 0)) ∧
      (cls < 2 → dev ≠ s.devNum.toNat → (reachable s dev = false → tells (.evsigSet d a b) s 3) ∧
        (reachable s dev = true → tells (.evsigSet d a b) { s with sent := s.sent ++ [.signal dev e true n] } 0)) ∧
      (here → ∀ s1 c, evtClass s g.part i = (s1, c) →
        (c ≠ some cls → tells (.evsig d a b) s1 1 ∧ tells (.evsigRd d a) s1 0x80000001 ∧ (cls < 2 → tells (.evsigSet d a b) s1 1)) ∧
        (c = some cls → tells (.evsigRd d a) s1 ((storeGet s1.events i).setWidth 32) ∧
          (Issues s g (.evsig d a b) → ∃ t s2, exec (.evsig d a b) s = .next t ∧ lowers s1 g.part i dec cls s2 ∧ s2 = decrement s1 g.part i dec ∧
            Answers s2 t g d 0) ∧
          (cls < 2 → 2 ^ 31 ≤ n.toNat → tells (.evsigSet d a b) s1 4) ∧
          (cls < 2 → n.toNat < 2 ^ 31 → n ≠ 0 ∨ storeGet s1.events i = 0 →
            tells (.evsigSet d a b) { s1 with events := storeSet s1.events i (n.setWidth 31) } 0)))) ∧
    (∀ q s1, boundPart s m.dev m.part = some q → m.set = false → evtNamed (s.part q) (m.handle.extractLsb' 3 16).toNat = true →
      evtClass s q (m.handle.extractLsb' 3 16).toNat = (s1, some (m.handle.extractLsb' 0 3).toNat) → ∃ t, exec (.remoteEventSignal m) s = .next t ∧
        lowers s1 q (m.handle.extractLsb' 3 16).toNat m.n.toNat (m.handle.extractLsb' 0 3).toNat t) ∧
    (boundPart s m.dev m.part = none →
      ((∀ q < 64, s.live.getLsbD q = true → evtNamed (s.part q) (m.handle.extractLsb' 3 16).toNat = false ∧
        evtPool (s.part q) (m.handle.extractLsb' 3 16).toNat = false) → exec (.remoteEventSignal m) s = .next s) ∧
      ∀ q < 64, s.live.getLsbD q = true → (evtNamed (s.part q) (m.handle.extractLsb' 3 16).toNat = true ∨
          evtPool (s.part q) (m.handle.extractLsb' 3 16).toNat = true) →
        (∀ j < q, s.live.getLsbD j = true → evtNamed (s.part j) (m.handle.extractLsb' 3 16).toNat = false ∧
          evtPool (s.part j) (m.handle.extractLsb' 3 16).toNat = false) →
        ∃ t, exec (.remoteEventSignal m) s = .next t ∧ OnePart s t q { s.part q with rej := satInc (s.part q).rej }) ∧
    (∀ q, boundPart s m.dev m.part = some q → evtNamed (s.part q) (m.handle.extractLsb' 3 16).toNat = false →
      ∃ t, exec (.remoteEventSignal m) s = .next t ∧ OnePart s t q { s.part q with rej := satInc (s.part q).rej }) ∧
    -- mailboxes
    (let box := (boxOf s s.cur).1
     let peers := (boxOf s s.cur).2.filter fun i => ((s.group? i).map (fun x => x.part == g.part)).getD false
     let first := (if g.wait == .mailbox then peers.takeWhile (· != s.cur) else peers) = []
     let takes := fun (i : Instr) => Issues s g i → ∀ e, box.find? (fun e => e.1 == g.part) = some e → ∃ t, exec i s = .next t ∧
       t = { s with cores := t.cores, clusters := t.clusters, groups := t.groups, fresh := t.fresh } ∧ (boxOf t s.cur).1 = box.erase e ∧
       (∀ id, id ≠ s.cur → t.group? id = s.group? id) ∧
       t.group? s.cur = some { g.goesOn with
         job := true,
         s := storeSet (storeSet (storeSet (storeSet g.s n4 (e.2.record.extractLsb' 0 64)) (n4 + 1) (e.2.record.extractLsb' 64 64)) (n4 + 2)
           (e.2.record.extractLsb' 128 64)) (n4 + 3) (e.2.record.extractLsb' 192 64) }
     let empty := box.find? (fun e => e.1 == g.part) = none
     (first → takes (.mbrd h) ∧ takes (.mbrdTry h)) ∧
     (empty ∨ ¬ first → GivesGroup s g (.mbrdTry h) { g.goesOn with s := storeSet g.s n4 (BitVec.allOnes 64), job := false }) ∧
     (empty ∨ ¬ first → g.wait = .mailbox → Issues s g (.mbrd h) → exec (.mbrd h) s = .next s) ∧
     (empty ∨ ¬ first → g.wait ≠ .mailbox → Issues s g (.mbrd h) → ∃ t, exec (.mbrd h) s = .next t ∧ (boxOf t s.cur).1 = box ∧
       t.group? s.cur = some { g with job := false, wait := .mailbox } ∧ ∀ id, id ≠ s.cur → t.group? id = s.group? id)) ∧
    (∀ l card, g.lowest = some l → Issues s g (.jpost d h b) →
      let r := storeGet g.s (n4 + 3) ++ storeGet g.s (n4 + 2) ++ storeGet g.s (n4 + 1) ++ storeGet g.s n4
      let tgt := (b32 s g b l).toNat
      let seq := isSeq s.cur
      let kind := if tgt = 2 ∨ (tgt = 0 ∧ seq = true) then 1 else 0
      let u := if tgt = 0 then (if seq then clusterOf s.cur else coreOf s.cur) else if tgt = 1 then coreOf s.cur + 1 - 2 * (coreOf s.cur % 2) else clusterOf s.cur
      let named := readCard s g.part (r.extractLsb' 0 16).toNat = some card
      let good := cardValid card = true ∧ byteAt card 1 / (if g.mode = .u then 8 else 4) % 2 = 1
      let load := (if kind = 0 then (s.core u).mailbox else (s.cluster u).mailbox).length
      let room := if kind = 0 then 16 else 8
      let mine := unitOpen s g.part (if kind = 0 then u else 2 * u) = true
      let record : ReadyRec := ⟨recordFlags (leBytes 32 r.toNat) card 4, byteAt card 0, none⟩
      let tells := fun (s1 : State) (v : Word) => ∃ t, exec (.jpost d h b) s = .next t ∧ Answers s1 t g d v
      (3 < tgt ∨ (tgt = 1 ∧ seq = true) → tells s 3) ∧
      (tgt ≤ 3 → ¬ (tgt = 1 ∧ seq = true) → (readCard s g.part (r.extractLsb' 0 16).toNat = none → tells s 2) ∧
        (named → ¬ good ∨ (tgt < 3 ∧ byteAt card 0 ≠ kind) → tells s 2) ∧
        (named → good → tgt = 3 → ∃ s1, OnePart s s1 g.part { s.part g.part with ready := (s.part g.part).ready ++ [record] } ∧ tells s1 0) ∧
        (named → good → tgt < 3 → byteAt card 0 = kind → (¬ mine → tells s 3) ∧ (mine → room ≤ load → tells s 1) ∧
          (mine → load < room → ∃ s1, tells s1 0 ∧
            (kind = 0 → OneCore s s1 u { s.core u with mailbox := (s.core u).mailbox ++ [(g.part, record)] }) ∧
            (kind = 1 → OneCluster s s1 u { s.cluster u with mailbox := (s.cluster u).mailbox ++ [(g.part, record)] }))))) ∧
    -- the dispatcher's posting
    (let p := s.part part
     (∀ target u, pickUnit s part target = some u → unitOpen s part (unitCore target u) = true ∧ boxLoad s target u < boxSize target ∧
       ∀ w, w < (if target = 0 then 256 else if target = 1 then 128 else 0) → unitOpen s part (unitCore target w) = true →
         boxLoad s target w < boxSize target → boxLoad s target u ≤ boxLoad s target w ∧ (boxLoad s target u = boxLoad s target w → u ≤ w)) ∧
     (∀ r o, opOfReady p r = some o → (heldPoint p r = true ↔ o.started = false ∧ ((o.hint ≠ 0 ∧ o.hint ≠ p.point) ∨
       (o.held = true ∧ ∃ j ∈ p.jobs, j.phase = 2 ∧ j.hint ≠ 0 ∧ j.hint ≠ o.hint ∧
         ∀ st seq k, r.job = some (st, seq, k) → j.stream ≠ st ∨ j.seq < seq)))) ∧
     (∀ r, opOfReady p r = none → heldPoint p r = false) ∧
     (∀ r rest u, p.ready = r :: rest → heldPoint p r = false → pickUnit s part r.target = some u → ∃ t, exec (.jobPost part) s = .next t ∧
       t = { s with parts := t.parts, cores := t.cores, clusters := t.clusters } ∧ (t.part part).ready = rest ∧
       (r.target = 0 → (t.core u).mailbox = (s.core u).mailbox ++ [(part, r)] ∧ ∀ c, c ≠ u → t.core c = s.core c) ∧
       (r.target ≠ 0 → (t.cluster u).mailbox = (s.cluster u).mailbox ++ [(part, r)] ∧ ∀ c, c ≠ u → t.cluster c = s.cluster c) ∧
       (t.part part).jobs = p.jobs.map fun j => if r.job = some (j.stream, j.seq, j.r, j.c, j.kk) then { j with phase := 2 } else j) ∧
     (∀ r o, p.ready = [r] → opOfReady p r = some o → o.started = false → o.hint ≠ 0 → o.hint ≠ p.point →
       ∃ t q, exec (.jobPost part) s = .next t ∧ OnePart s t part q ∧ q = { p with pointReq := q.pointReq, streams := q.streams } ∧
         (opOfReady q r).map (fun x => x.held) = some true ∧
         q.pointReq = if p.pointReq.isSome then p.pointReq else if pointBusy p r o.hint then none else some o.hint) ∧
     (∀ o, p.pointReq = some o → ∃ t, exec (.operatingPointStable part) s = .next t ∧ OnePart s t part { p with point := o, pointReq := none }))

/-- R187 to R199 (Tables 2, 3, 9): tags are allocated, take contributions once each, combine them in ascending CIDX, element by element, and are
freed; MEET sends a contribution and its answers come back as status records. ORPHAN_TIMEOUT acts at the first turn past TOUT, and time does not
pass TOUT and 2 µs without it (log 39); that a TAGF of a tag that is FREEING, or that a TAGF awaits in FWD, returns 1 at once, and what a router
leaves in an entry (a free value), are log 13; an uncorrectable operand reads zero (log 54). -/
def Obligations.TagsTakeEveryContributionOnce : Prop :=
  ∀ (s : State) (g : Group) (tm : Team) (d a b : BitVec 7) (v : Dword) (part tag n : Nat), s.team? g.team = some tm →
    let p := s.part g.part
    let q := s.part part
    (∀ l, g.lowest = some l →
      let o := (a32 s g a l).toNat / 32 * 32
      let desc := BitVec.ofNat 256 (leNat (scratchRead s tm tm.core o 32))
      let router : Option Nat := if b = 112#7 then none else if (b32 s g b l).toNat ≤ 63 then some (b32 s g b l).toNat else none
      let found := freeTag p g.part (2 ^ p.mtagLog.toNat) router (min (2 ^ p.mtagLog.toNat) (64 * (p.tags.length + 1))) 0
      let tells := fun (w : Word) => Issues s g (.taga d a b) → ∃ t, exec (.taga d a b) s = .next t ∧ Answers s t g d w
      (p.mtagEn = false → tells 0x80000003) ∧
      (∀ k, found = some k → tabGet p.tags k = none ∧ k < 2 ^ p.mtagLog.toNat ∧ (∀ r, router = some r → routerOf g.part k = r) ∧
        ∀ j < k, tabGet p.tags j = none → ∃ r, router = some r ∧ routerOf g.part j ≠ r) ∧
      (p.mtagEn = true → scratchGap tm tm.core o 32 = false → (refClean s (.live g.team) o 32).2 = none →
        (tagBad desc = true → tells 0x80000002) ∧ (tagBad desc = false → found = none → tells 0x80000001) ∧
        (tagBad desc = false → ∀ k, found = some k →
          let w := tableWrite s g.part (p.mtagBase.toNat + 64 * k) (leBytes 32 desc.toNat ++ tagStateBytes s)
          (w = none → tells 0x80000004) ∧
          (∀ s1, w = some s1 → Issues s g (.taga d a b) → ∃ t s2, exec (.taga d a b) s = .next t ∧
            OnePart s1 s2 g.part { s1.part g.part with tags := tabSet (s1.part g.part).tags k ⟨.idle, desc, 0, 0, none, 0, 0, g.mode, [], false⟩ } ∧
            Answers s2 t g d (BitVec.ofNat 32 k))))) ∧
    (∀ l, g.lowest = some l → let k := (a32 s g a l).toNat
      (tabGet p.tags k = none → (g.wait = .none → Issues s g (.tagf d a) → ∃ t, exec (.tagf d a) s = .next t ∧ Answers s t g d 1)) ∧
      (∀ x, k < 2 ^ 20 → g.wait = .none → tabGet p.tags k = some x → x.st = .freeing ∨ x.freeReq = true → Issues s g (.tagf d a) →
        ∃ t, exec (.tagf d a) s = .next t ∧ Answers s t g d 1) ∧
      (∀ x, k < 2 ^ 20 → g.wait = .none → tabGet p.tags k = some x → x.st ≠ .freeing → x.freeReq = false → Issues s g (.tagf d a) → ∃ t s1, exec (.tagf d a) s = .next t ∧
        OnePart s s1 g.part { p with tags := tabSet p.tags k (if x.st = .fwd then { x with freeReq := true } else
          { x with st := .freeing, chunks := [], freeReq := false }) } ∧ OwnGroup s1 t { g with wait := .tagf k false }) ∧
      (g.wait = .tagf k true → Issues s g (.tagf d a) → ∃ t, exec (.tagf d a) s = .next t ∧ Answers s t g d 0)) ∧
    (∀ x, tabGet q.tags tag = some x → x.st = .freeing → (∀ c ∈ s.net, ¬ (c.part = part ∧ c.tag = tag)) → ∃ t, exec (.tagFreeingComplete part tag) s = .next t ∧
      t = { s with parts := t.parts, groups := t.groups } ∧ t.part part = { q with tags := tabDel q.tags tag } ∧
      ∀ id y, s.group? id = some y → t.group? id = some (if y.part = part ∧ y.wait = .tagf tag false then { y with wait := .tagf tag true } else y)) ∧
    (s.group? s.cur = some g → g.mode ≠ .u →
      let log : BitVec 5 := v.extractLsb' 58 5
      let base : BitVec 48 := v.extractLsb' 6 42 ++ 0#6
      let discards := log.toNat < 4 ∨ 20 < log.toNat ∨ (p.tags ≠ [] ∧ (p.mtagLog ≠ log ∨ p.mtagBase ≠ base))
      (discards → exec (.mtagtWrite v) s = .next s) ∧
      (¬ discards → ∃ t, exec (.mtagtWrite v) s = .next t ∧ OnePart s t g.part { p with mtagEn := v.getLsbD 63, mtagLog := log, mtagBase := base })) ∧
    -- MEET and the answers
    (∀ l, g.lowest = some l → Issues s g (.meet d a b) →
      let w := b64 s g b l
      let kind := (w.extractLsb' 30 2).toNat
      let bad := w.extractLsb' 48 3 ≠ 0#3 ∨ 2 ≤ kind
      let o := (a32 s g a l).toNat / 64 * 64
      let from_ : Sender := ⟨g.uid, tm.uid, coreOf s.cur, w.extractLsb' 51 13, if kind = 1 then some (w.extractLsb' 26 4).toNat else none⟩
      let c : Contr := ⟨g.part, (w.extractLsb' 0 20).toNat, (w.extractLsb' 20 6).toNat, w.extractLsb' 32 16, s.nextXid, from_,
        scratchRead s tm tm.core o 4096⟩
      (bad → ∃ t, exec (.meet d a b) s = .next t ∧ Answers s t g d 1) ∧
      (¬ bad → 32 ≤ meetsOf s (coreOf s.cur) → ∃ t, exec (.meet d a b) s = .next t ∧ OwnGroup s t { g with wait := .meetLimit }) ∧
      (¬ bad → meetsOf s (coreOf s.cur) < 32 → scratchGap tm tm.core o 4096 = false → (refClean s (.live g.team) o 4096).2 = none →
        ∃ t, exec (.meet d a b) s = .next t ∧ Answers { s with net := s.net ++ [c], nextXid := s.nextXid + 1 } t g d 0) ∧
      (¬ bad → meetsOf s (coreOf s.cur) < 32 → (refClean s (.live g.team) o 4096).2 ≠ none → ∃ t y, exec (.meet d a b) s = .next t ∧
        t.net = s.net ++ [{ c with data := (refClean s (.live g.team) o 4096).1 }] ∧ t.group? s.cur = some y ∧ y.eccNow.length = 1 ∧
        y.pc = g.pc + 4)) ∧
    (∀ x, s.answers[n]? = some x → ∃ t, exec (.meetAnswer n) s = .next t ∧ t.answers = s.answers.eraseIdx n ∧
      (refOfTeam s x.sender.team = none → t = { s with answers := t.answers }) ∧
      (∀ k y, refOfTeam s x.sender.team = some (.live k) → s.team? k = some y → scratchGap y y.core (x.sender.soff.toNat * 64) 16 = false →
        (∃ z, t.team? k = some z ∧ scratchRead t z z.core (x.sender.soff.toNat * 64) 16 =
          leBytes 1 x.status.toNat ++ [0#8] ++ leBytes 2 x.seq.toNat ++ leBytes 4 (x.tag % 2 ^ 20 + x.cidx % 64 * 2 ^ 20) ++ leBytes 8 x.pres.toNat ∧
          ∀ j, storeGet z.pb j = if x.first = true ∧ x.sender.barn = some j then storeGet y.pb j - 4096 else storeGet y.pb j))) ∧
    -- a contribution at its router
    (∀ c, s.net[n]? = some c →
      let pt := s.part c.part
      let counted := fun (s0 t : State) (k : Nat) => ∀ j, storeGet (t.part c.part).mrcnt j =
        if j = routerOf c.part c.tag * 8 + k then storeGet (s0.part c.part).mrcnt j + 1 else storeGet (s0.part c.part).mrcnt j
      let rest := fun (t : State) => t = { s with net := s.net.eraseIdx n, lastContr := some c, parts := t.parts, answers := t.answers, answered := t.answered } ∧
        ∀ j, j ≠ c.part → t.part j = s.part j
      let answered := fun (status : BitVec 8) (k : Nat) (tags : Tab Tag) => ∃ t, exec (.contribution n) s = .next t ∧ rest t ∧ counted s t k ∧
        t.answers = s.answers ++ [⟨c.sender, c.tag, c.cidx, c.seq, status, 0, true⟩] ∧ t.answered = s.answered ++ [c.xid] ∧ (t.part c.part).tags = tags
      (s.answered.contains c.xid = true → ∃ t, exec (.contribution n) s = .next t ∧ rest t ∧ counted s t 1 ∧ t.answers = s.answers) ∧
      (s.answered.contains c.xid = false →
        (tabGet pt.tags c.tag = none → answered 7 6 pt.tags) ∧
        ∀ x, tabGet pt.tags c.tag = some x →
          let lag := (x.cur - c.seq).toNat
          let known := tagU x.desc 2 1
          let now := x.st = .idle ∨ x.st = .fill ∨ x.st = .fwd
          (x.st = .freeing → answered 7 6 pt.tags) ∧ (x.st = .pois → answered 4 6 pt.tags) ∧
          (now → known ≤ c.cidx → answered 8 6 pt.tags) ∧
          (now → c.cidx < known → (1 ≤ lag ∧ lag ≤ 32767) ∨ (lag = 0 ∧ x.pres.getLsbD c.cidx = true) → answered 5 1 pt.tags) ∧
          (now → c.cidx < known → 32767 < lag → answered 3 3 pt.tags) ∧
          (now → c.cidx < known → lag = 0 → x.pres.getLsbD c.cidx = false →
            let full := x.st = .fwd ∨ vatSize s ≤ blocksUsed s (routerOf c.part c.tag)
            let pres := x.pres ||| (1#64 <<< c.cidx)
            (full → answered 2 2 pt.tags) ∧
            (¬ full → answered 1 0 (tabSet pt.tags c.tag { x with
              st := if pres = fullMask known then .fwd else .fill, pres := pres, chunks := x.chunks ++ [(c.cidx, c.data)],
              first := if x.st = .idle then some (c.sender, c.cidx, c.seq) else x.first, started := if x.st = .idle then s.time else x.started,
              tout := if x.st = .idle then pt.mrtout.toNat else x.tout }))))) ∧
    -- a round ends
    (∀ x s1, tabGet q.tags tag = some x → x.st = .fwd → tagU x.desc 16 4 = 0xFFFFFFFF → x.freeReq = false →
      (writeResult { s with fresh := s.fresh + 1 } part tag x = some s1 → ∃ t, exec (.roundResultWritten part tag) s = .next t ∧
        t = { s1 with parts := t.parts } ∧ tabGet (t.part part).tags tag = some { x with st := .idle, cur := x.cur + 1, pres := 0, chunks := [] }) ∧
      (writeResult { s with fresh := s.fresh + 1 } part tag x = none → ∃ t, exec (.roundResultWritten part tag) s = .next t ∧
        tabGet (t.part part).tags tag = some { x with st := .pois, chunks := [] } ∧
        (∀ sd c e, x.first = some (sd, c, e) → t.answers = s.answers ++ [⟨sd, tag, c, e, 9, 0, false⟩]))) ∧
    (∀ x, tabGet q.tags tag = some x → x.freeReq = false →
      (x.st = .fill → x.started + x.tout * 1000 ≤ s.time → ∃ t, exec (.orphanTimeout part tag) s = .next t ∧
        tabGet (t.part part).tags tag = some { x with st := .pois, chunks := [] } ∧
        (∀ sd c e, x.first = some (sd, c, e) → t.answers = s.answers ++ [⟨sd, tag, c, e, 6, x.pres, false⟩])) ∧
      (x.st ≠ .fill ∨ s.time < x.started + x.tout * 1000 → exec (.orphanTimeout part tag) s = .next s)) ∧
    (∀ ns temp cur x, s.live.getLsbD part = true → tabGet ((elapse s ns temp cur).part part).tags tag = some x → x.st = .fill →
      (elapse s ns temp cur).time < x.started + x.tout * 1000 + 2000) ∧
    -- with an event, which is lowered from the state that holds the result
    (∀ x s1, tabGet q.tags tag = some x → x.st = .fwd → tagU x.desc 16 4 ≠ 0xFFFFFFFF →
      writeResult { s with fresh := s.fresh + 1 } part tag x = some s1 →
      let s2 := unitSignal s1 part (BitVec.ofNat 32 (tagU x.desc 16 4))
      ∃ t r, exec (.roundResultWritten part tag) s = .next t ∧ OnePart s2 t part r ∧ r = { s2.part part with tags := r.tags, mrcnt := r.mrcnt } ∧
        ∀ y, tabGet (s2.part part).tags tag = some y → y.freeReq = false →
          tabGet r.tags tag = some { y with st := .idle, cur := y.cur + 1, pres := 0, chunks := [] }) ∧
    -- the result: the contributions in ascending CIDX, whatever the order of their arrival, and where it is stored
    (∀ (x : Tag) (c : Nat → List Byte), 0 < tagU x.desc 2 1 → (∀ i < tagU x.desc 2 1, x.chunks.find? (fun e => e.1 == i) = some (i, c i)) →
      roundResult x = if tagU x.desc 0 1 = 4 then c 0 else
        (List.range (tagU x.desc 2 1 - 1)).foldl (fun r i => combineChunk (tagU x.desc 0 1) (tagU x.desc 1 1) r (c (i + 1))) (c 0)) ∧
    (∀ x s1 ph, let dst := BitVec.ofNat 80 (tagU x.desc 4 10)
      isLocal s dst = true → vaOff dst % 65536 + (roundResult x).length ≤ 65536 → (ph.kind = 3 → s.cxlUp = true) →
      translate s 384 part false x.mode .store (vaKind dst) (vaOff dst) = .ok ph → writeResult s part tag x = some s1 →
      ∃ u, Stored s u ph.kind ph.off (roundResult x) ∧ tableWrite u part (q.mtagBase.toNat + 64 * tag + 32) (tagStateBytes s) = some s1) ∧
    -- two chunks, element by element: FP additions rounded once, the .NUM results, INT32 and OR
    (∀ (op fmt : Nat) (x y : List Byte), opFmtOk op fmt = true → op ≠ 4 →
      let w := if fmt = 2 ∨ fmt = 3 then 2 else 4
      let h := if fmt = 2 then fp16 else if fmt = 3 then bf16 else fp32
      ∀ e < 4096 / w,
        let m := leField x (w * e) w
        let n := leField y (w * e) w
        let r := leField (combineChunk op fmt x y) (w * e) w
        let i := (BitVec.ofNat 32 m).toInt
        let j := (BitVec.ofNat 32 n).toInt
        let v := decodeF h m
        let z := decodeF h n
        let less := v.below z || (!z.below v && isNegV v && !isNegV z)
        (op = 3 → r = m ||| n) ∧
        (fmt = 7 → (op = 0 → r = (m + n) % 2 ^ 32) ∧ (op = 1 → (BitVec.ofNat 32 r).toInt = max i j) ∧
          (op = 2 → (BitVec.ofNat 32 r).toInt = min i j)) ∧
        (1 ≤ fmt → fmt ≤ 3 → (op = 0 → r = (roundF h 0 false 0 false (addV v z).1).1) ∧
          (op ≠ 0 → r = if isNanV v && isNanV z then h.canonNan else if isNanV v then encodeF h z else if isNanV z then encodeF h v
            else if less == (op == 2) then encodeF h v else encodeF h z)))

/-- R200 to R206 (Tables 11, 12, 15): TTRDY fires a tile table entry; the collective unit sends its pairs one after another and ends the firing when
all have landed; a pair is sent when the one before it has landed, as log 22 reads R202 and R205. What arrives in the partition that the
monitor has bound goes to a landing slot or to the spill ring, each in the order of arrival, or is refused (R326). What a peer answers to a
pair is its own choice (log 10). That a tile table entry with an uncorrectable sector is malformed, its ECC waiting for the next issue, and that BADMAP marks blocks of 512
bytes whatever the format, is the model's choice (log 22). That a refetched chunk whose header is uncorrectable lands with flags 5, VALID and BAD, is the model's choice, and no
words of the spec (log 54). -/
def Obligations.FiringsSendTheirPairsAndArrivalsLand : Prop :=
  ∀ (s : State) (g : Group) (d a : BitVec 7) (v : Dword) (part entry n : Nat) (x : Arrival) (f : Firing),
    let p := s.part part
    let memory := fun (s t : State) => t = { s with
      hbm := t.hbm, win := t.win, lpddr := t.lpddr, cxl := t.cxl, vregs := t.vregs, accs := t.accs, poison := t.poison, groups := t.groups,
      parts := t.parts }
    (∀ l, g.lowest = some l → Issues s g (.ttrdy d a) →
      let q := s.part g.part
      let i := (a32 s g a l).toNat
      let tells := fun (c : Word) => ∃ t, exec (.ttrdy d a) s = .next t ∧ Answers s t g d c
      let read := unitRead s g.part false .s (mkVa s.devNum.toNat 0 (q.ttBase.toNat + 64 * i)) 64
      (q.ttEn = false ∨ 2 ^ q.ttLog.toNat ≤ i → tells 2) ∧
      (q.ttEn = true → i < 2 ^ q.ttLog.toNat →
        (∀ c va, read = .error (c, va) → exec (.ttrdy d a) s = .next (wholeTrap s g c (packVa va))) ∧
        -- an entry with an uncorrectable sector
        (∀ b va, read = .ok (b, some va) → ∃ t e, exec (.ttrdy d a) s = .next t ∧
          LaneResult s t g { g.goesOn with eccNow := [e] } (dstOpnd d 1) (fun _ => 3) ∧ ∀ k < 64, e.lanes.getLsbD k = decide (k = l)) ∧
        ∀ b, read = .ok (b, none) →
          let e := BitVec.ofNat 512 (leNat b)
          let state := byteAt b 38
          let resume := leField b 6 2
          let peers := byteAt b 3
          (state = 1 → tells 1) ∧ (state ≠ 1 → ttBad e = true → tells 3) ∧
          (state ≠ 1 → ttBad e = false → ∃ t s1, exec (.ttrdy d a) s = .next t ∧ memory s s1 ∧ Answers s1 t g d 0 ∧
            (∀ j, j ≠ g.part → s1.part j = s.part j) ∧ (s1.part g.part).firings = q.firings.filter (fun y => y.entry != i) ++
              [⟨i, e, g.mode, if state = 2 then resume / 16 * peers + resume % 16 else 0, false, 0, false⟩]))) ∧
    (p.firings.find? (fun y => y.entry == entry) = some f →
      let peers := ttU f.desc 3 1
      let pairs := ttU f.desc 4 2 * peers
      let dev := fun (k : Nat) => ttU f.desc (40 + 2 * (k % peers)) 2
      let now := fun (t : State) (w : Firing → Firing) => (t.part part).firings = p.firings.map (fun y => if y.entry = entry then w y else y)
      let k := f.next
      let block := fun (j : Nat) =>
        unitRead s part false f.mode (vaAdd (vaAdd (BitVec.ofNat 80 (ttU f.desc 8 10)) (4096 * (k / peers : Nat))) (512 * (j : Nat))) 512
      let idle := f.halted = false ∧ f.flying = false
      let stops := ∃ t, exec (.tileChunkSend part entry) s = .next t ∧ t.sent = s.sent ∧ now t (fun y => { y with flying := false, halted := true })
      let ends := fun (i : Instr) => ∃ t s1, exec i s = .next t ∧ (s1.part part).firings = p.firings.filter (fun y => y.entry != entry) ∧
        t = if ttU f.desc 32 4 = 0xFFFFFFFF then s1 else unitSignal s1 part (BitVec.ofNat 32 (ttU f.desc 32 4))
      (f.halted = true ∨ f.flying = true → exec (.tileChunkSend part entry) s = .next s) ∧
      (idle → k < pairs → s.time < f.due → exec (.tileChunkSend part entry) s = .next s) ∧
      (idle → pairs ≤ k → ends (.tileChunkSend part entry)) ∧
      (idle → k < pairs → f.due ≤ s.time →
        (∀ j < 8, ∀ e, block j = .error e → stops) ∧
        ((∀ j < 8, ∃ b, block j = .ok b) → reachable s (dev k) = false → stops) ∧
        (∀ (bl : Nat → List Byte) (bad : Nat → Option VAddr), (∀ j < 8, block j = .ok (bl j, bad j)) → reachable s (dev k) = true →
          ∃ t r, exec (.tileChunkSend part entry) s = .next t ∧
            t.sent = s.sent ++ [.chunk (dev k) s.devNum.toNat part entry (k / peers) r (ttU f.desc 0 1) (ttU f.desc 1 1) (ttU f.desc 2 1 == 1)
              (BitVec.ofNat 13 (dev k) ++ BitVec.ofNat 67 (ttU f.desc 18 10)) (BitVec.ofNat 13 (dev k) ++ BitVec.ofNat 19 (ttU f.desc 28 4))
              ((List.range 8).filter fun j => (bad j).isSome)
              (if ttU f.desc 2 1 = 1 then encodeChunk ((List.range 8).flatMap bl) else (List.range 8).flatMap bl)] ∧
            now t (fun y => { y with flying := true }))) ∧
      (f.flying = false → exec (.firingPairLanded part entry) s = .next s) ∧
      (f.flying = true →
        let answer := Config.pairAnswer s.fresh
        let lands := fun (w : Firing → Firing) => ∃ t, exec (.firingPairLanded part entry) s = .next t ∧ now t w
        (answer = 1 → lands (fun y => { y with flying := false, due := s.time + 1000 })) ∧
        (answer = 2 → lands (fun y => { y with flying := false, halted := true })) ∧
        (answer ≠ 1 → answer ≠ 2 → k + 1 < pairs → lands (fun y => { y with flying := false, next := k + 1 })) ∧
        (answer ≠ 1 → answer ≠ 2 → pairs ≤ k + 1 → ends (.firingPairLanded part entry)))) ∧
    -- arrivals
    (boundPart s x.sdev x.part = none → exec (.landingArrival x) s = .next { s with sent := s.sent ++ [.refusal x.sdev 0x08] }) ∧
    (∀ rp, boundPart s x.sdev x.part = some rp →
     let q := s.part rp
     let body := (arrivalData x).1
     let head := arrivalHead x (arrivalData x).2 q.arrivals
     let event := (x.revt &&& 0x7FFFF#32) ||| (BitVec.ofNat 32 s.devNum.toNat <<< 19)
     let tells : Sent := .refusal x.sdev 0x08
     let refused := fun (again : Bool) (q' : Partition) => ∃ t, exec (.landingArrival x) s = .next t ∧ t = { s with
         parts := t.parts, sent := s.sent ++ [tells], arrivalsHeld := if again then s.arrivalsHeld ++ [(x, s.time + 1000)] else s.arrivalsHeld } ∧
       t.part rp = { q' with landRef := satInc q.landRef } ∧ ∀ j, j ≠ rp → t.part j = s.part j
     let free := fun (i : Nat) => i < 2 ^ q.landLog.toNat ∧ i ∉ q.landUsed
     let copy := x.op = 4#8 ∧ x.ovf = false
     let full := q.splEn = false ∨ 2 ^ q.splLog.toNat ≤ q.spilled.length
     (copy →
       let w := unitWrite s rp false .s (vaAdd (BitVec.ofNat 13 s.devNum.toNat ++ x.rdst.extractLsb' 0 67) (4096 * x.chunk.toNat)) body
       (w.2 = none → exec (.landingArrival x) s = .next (unitSignal w.1 rp event)) ∧
       ∀ c va, w.2 = some (c, va) → exec (.landingArrival x) s = .next { w.1 with sent := w.1.sent ++ [.refusal x.sdev c.code] }) ∧
     (¬ copy →
       (q.landEn = false → refused false q) ∧
       (q.landEn = true → x.ovf = false → q.spilled = [] → ∀ i, free i → (∀ j < i, ¬ free j) →
         (∀ s1, fillSlot s rp i body head = some s1 → ∃ t s2, exec (.landingArrival x) s = .next t ∧ t = unitSignal s2 rp event ∧
           OnePart s1 s2 rp { s1.part rp with arrivals := (s1.part rp).arrivals + 1 }) ∧
         (fillSlot s rp i body head = none → refused false { q with landEn := false, badl := true })) ∧
       (q.landEn = true → x.ovf = true ∨ q.spilled ≠ [] ∨ (∀ i, ¬ free i) →
         (full → refused true q) ∧
         (¬ full → let w := unitWrite s rp false .s (mkVa s.devNum.toNat 3 (q.splBase.toNat + 4160 * q.splNext)) (body ++ head)
           (w.2 = none → ∃ t, exec (.landingArrival x) s = .next t ∧ OnePart w.1 t rp { (w.1).part rp with
             spilled := ((w.1).part rp).spilled ++ [(q.splNext, x.revt)], splNext := (q.splNext + 1) % 2 ^ q.splLog.toNat,
             arrivals := ((w.1).part rp).arrivals + 1 }) ∧
           (w.2 ≠ none → refused true { q with splEn := false, bads := true }))))) ∧
    (∀ i s1 y z, fillSlot s part i y z = some s1 → (s1.part part).landUsed = p.landUsed ++ [i] ∧ memory s s1) ∧
    (∀ off (l : List Byte) (ph : Phys) u w, translate s 384 part false .s .store 1 off = .ok ph → ph.kind = 1 → regionOf ph.off = .pinned u w →
      off < 2 ^ 48 → off % 65536 + l.length ≤ 65536 → l ≠ [] → ∃ t, landWrite s part off l = some t ∧ Stored s t 1 ph.off l) ∧
    (∀ y w, s.arrivalsHeld[n]? = some (y, w) →
      (w ≤ s.time → exec (.arrivalRetry n) s = exec (.landingArrival y) { s with arrivalsHeld := s.arrivalsHeld.eraseIdx n }) ∧
      (s.time < w → exec (.arrivalRetry n) s = .next s)) ∧
    (∀ j revt rest i, p.spilled = (j, revt) :: rest → (i < 2 ^ p.landLog.toNat ∧ i ∉ p.landUsed ∧ ∀ k < i, k ∈ p.landUsed) →
      (p.landEn = false ∨ p.splEn = false → exec (.spillRefetch part) s = .next s) ∧
      (p.landEn = true → p.splEn = true →
        let get := fun (o n : Nat) => unitRead s part false .s (mkVa s.devNum.toNat 3 (p.splBase.toNat + 4160 * j + o)) n
        -- the state in which an error of the pool's link is noted (15 R327)
        let u := linkNote s part false .s (mkVa s.devNum.toNat 3 (p.splBase.toNat + 4160 * j))
        ((∃ k < 8, ∃ e, get (512 * k) 512 = .error e) ∨ (∃ e, get 4096 64 = .error e) →
          ∃ t, exec (.spillRefetch part) s = .next t ∧ OnePart u t part { p with splEn := false, bads := true }) ∧
        ∀ (bl : Nat → List Byte) (bad : Nat → Option VAddr) (hd : List Byte) (hb : Option VAddr),
          (∀ k < 8, get (512 * k) 512 = .ok (bl k, bad k)) → get 4096 64 = .ok (hd, hb) →
          let marks := (List.range 8).filter fun k => (bad k).isSome
          let flags := if hb.isSome then 5 else byteAt hd 2 ||| (if marks = [] then 0 else 4)
          let head := hd.take 2 ++ leBytes 1 flags ++ leBytes 1 (byteAt hd 3 ||| (maskOf marks).toNat % 256) ++ hd.drop 4
          (∀ s1, fillSlot u part i ((List.range 8).flatMap bl) head = some s1 → ∃ t s2, exec (.spillRefetch part) s = .next t ∧
            OnePart s1 s2 part { s1.part part with spilled := rest } ∧
            t = unitSignal s2 part ((revt &&& 0x7FFFF#32) ||| (BitVec.ofNat 32 s.devNum.toNat <<< 19))) ∧
          (fillSlot u part i ((List.range 8).flatMap bl) head = none →
            ∃ t, exec (.spillRefetch part) s = .next t ∧ OnePart u t part { p with landEn := false, badl := true }))) ∧
    (s.group? s.cur = some g → g.mode ≠ .u →
      let i := (v.extractLsb' 0 12).toNat
      (i ∉ (s.part g.part).landUsed → exec (.landfree v) s = .next s) ∧
      (i ∈ (s.part g.part).landUsed → ∃ t, exec (.landfree v) s = .next t ∧ memory s t ∧
        (t.part g.part).landUsed = (s.part g.part).landUsed.filter (· != i) ∧ ∀ j, j ≠ g.part → t.part j = s.part j))

/-- R167, R170 to R177, R265, R266: matrix instructions check their operands and place a command in the engine's queue of 16, waiting for a place
while it is full; the engine performs the commands in order: a step's exact sum rounded once, times its rounded scale, fused into the accumulator
(06 R123, R124), tiles moved and accumulators drained piece by piece. It finds the page of a shadowed pair at the access. That a TILE or drain command
goes to the physical places captured at issue, what one does whose place is no longer its partition's, which of two captured places of a shadowed pair
an access takes (pieceAt), and that EVAL of a page that fails is the start of the row's piece in it, are the model's choice, and no words of the spec
(log 36). -/
def Obligations.MatrixCommandsEnterTheQueueAndAreDone : Prop :=
  ∀ (s : State) (g : Group) (t a4 b4 : BitVec 4) (d3 a3 n : BitVec 3) (a : BitVec 7) (f : BitVec 2) (v : Dword) (c : Nat) (rest : List Command),
    let me := clusterOf s.cur
    let k := s.cluster me
    let settled := fun (q : List Command) => match q with
      | .job j :: r => .job { j with running := true } :: r
      | q => q
    let stands := ∃ x, g.wait = .matrixQueue x
    let places := fun (i : Instr) (cmd : Command) (tlbs : Bool) => Issues s g i → g.em ≠ 0 → ¬ stands →
      ∃ u s0, exec i s = .next u ∧ OnlyTlbs s s0 ∧ (tlbs = false → s0 = s) ∧
        (16 ≤ k.queue.length → OwnGroup s0 u { g with wait := .matrixQueue cmd }) ∧
        (k.queue.length < 16 → ∃ s1, OneCluster s0 s1 me { s0.cluster me with queue := settled (k.queue ++ [cmd]) } ∧ OwnGroup s1 u g.goesOn)
    let resumes := fun (i : Instr) => Issues s g i → (g.em = 0 → ∃ u, exec i s = .next u ∧ OwnGroup s u g.goesOn) ∧
      ∀ cmd, g.em ≠ 0 → g.wait = .matrixQueue cmd → ∃ u, exec i s = .next u ∧ (16 ≤ k.queue.length → OwnGroup s u g) ∧
        (k.queue.length < 16 → ∃ s1, OneCluster s s1 me { k with queue := settled (k.queue ++ [cmd]) } ∧ OwnGroup s1 u g.goesOn)
    -- MMA, ACC.ZERO, ACC.MOVE
    let ta := tctlOf k a4.toNat
    let tb := tctlOf k b4.toNat
    let tm := tctlOf k (a4.toNat + 1)
    let x := ta.fmt.toNat
    let y := tb.fmt.toNat
    let formats := ((x = 4 ∨ x = 5) ∧ (y = 4 ∨ y = 5)) ∨ (x = y ∧ (x = 2 ∨ x = 3 ∨ x = 6))
    let sparse := f.getLsbD 1
    let shapes := if sparse = true then x = 4 ∧ y = 4 ∧ tb.cols % 8 = 0 ∧ tb.cols = 2 * ta.cols ∧ tm.fmt = 0#4 ∧ ta.rows ≤ tm.rows ∧ tb.cols / 8 ≤ tm.cols
      else ta.cols = tb.cols
    let refuses := fun (code : Nat) => Issues s g (.mma d3 a4 b4 f) → g.em ≠ 0 → ¬ stands → exec (.mma d3 a4 b4 f) s = .next
      (raiseAll s s.cur g .ill ((wordOf (.mma d3 a4 b4 f)).setWidth 64 ||| (BitVec.ofNat 64 code <<< 32)))
    -- TILE and the drains
    let row := tctlOf k t.toNat
    let base := vaAdd (storeGet g.ab n.toNat) ((if a = 112#7 then (0 : Dword) else storeGet g.s (a.toNat - 96)).toNat : Nat)
    let transfers := fun (i : Instr) (grant : Grant) (rows bytes : Nat) (cmd : List Piece → Command) =>
      resumes i ∧
      (Issues s g i → g.em ≠ 0 → ¬ stands → base.toNat % 4 ≠ 0 ∨ k.mtstr.toInt % 4 ≠ 0 → exec i s = .next (raiseAll s s.cur g .aln (packVa base))) ∧
      (base.toNat % 4 = 0 → k.mtstr.toInt % 4 = 0 →
        (∀ l, placePieces s s.cur g grant (rowPieces base k.mtstr.toInt rows bytes) = .ok l → places i (cmd l) true) ∧
        ∀ e va, placePieces s s.cur g grant (rowPieces base k.mtstr.toInt rows bytes) = .error (e, va) → Issues s g i → g.em ≠ 0 → ¬ stands →
          exec i s = .next (wholeTrap { s with fresh := s.fresh + 8 } g e (packVa va)))
    let block := k.mdcfg.rm1.toNat + 1
    resumes (.mma d3 a4 b4 f) ∧ resumes (.accZero d3) ∧ resumes (.accMove d3 a3) ∧
    places (.accZero d3) (.zero d3.toNat) false ∧ places (.accMove d3 a3) (.move d3.toNat a3.toNat) false ∧
    (formats → shapes → places (.mma d3 a4 b4 f) (.step d3.toNat a4.toNat b4.toNat (!f.getLsbD 0) sparse ta tb tm) false) ∧
    (¬ formats → refuses 1) ∧ (formats → ¬ shapes → refuses (if sparse = true then 3 else 2)) ∧
    transfers (.tileTld t a n) .load row.rows row.rowBytes (.tile false t.toNat) ∧
    transfers (.tileTst t a n) .store row.rows row.rowBytes (.tile true t.toNat) ∧
    transfers (.accDrain d3 a n) .store block ((k.mdcfg.cm1.toNat + 1) * 4) (fun l => .drain d3.toNat false l k.mdcfg k.mdscl) ∧
    transfers (.accCvt d3 a n) .store block ((k.mdcfg.cm1.toNat + 1) * codeBytes k.mdcfg.ofmt.toNat)
      (fun l => .drain d3.toNat true l k.mdcfg k.mdscl) ∧
    (∀ (va : VAddr) (stride : Int) (rows bytes : Nat), 0 < bytes →
      (∀ i : Nat, i < rows → vaOff (vaAdd va (i * stride)) % 65536 + bytes ≤ 65536) →
      rowPieces va stride rows bytes = (List.range rows).map fun (i : Nat) => (i, 0, vaAdd va (i * stride), bytes)) ∧
    -- the engine
    (let q := s.cluster c
     let does := fun (cmd : Command) (tells : State → State → Prop) => q.queue = cmd :: rest → ∃ u s1, exec (.matrixCommandExecute c) s = .next u ∧
       tells s s1 ∧ OneCluster s1 u c { s1.cluster c with queue := settled rest } ∧ (s1.cluster c).queue = q.queue
     let word := fun (s : State) (j i e : Nat) => leNat (bytesAt s 1 (0x30000000 + c * 0x100000 + j * 65536 + i * 512 + e * 4) 4)
     let inTile := fun (j off : Nat) => 0x20000000 + c * 0x100000 + j * 16384 ≤ off ∧ off < 0x20000000 + c * 0x100000 + j * 16384 + 16384
     let inAcc := fun (j off : Nat) => 0x30000000 + c * 0x100000 + j * 65536 ≤ off ∧ off < 0x30000000 + c * 0x100000 + j * 65536 + 65536
     let only := fun (j : Nat) (s s1 : State) => ∀ kind off, kind ≤ 4 → ¬ (kind = 1 ∧ inAcc j off) → memByte s1 kind off = memByte s kind off
     let bit := fun (j : Nat) (b : Bool) (s1 : State) => (s1.cluster c).atype.getLsbD j = b ∧
       ∀ m, m ≠ j → (s1.cluster c).atype.getLsbD m = q.atype.getLsbD m
     let sane := c < 128 ∧ s.poison = []
     (∀ j, sane → j < 8 → does (.zero j) (fun s s1 => only j s s1 ∧ bit j false s1 ∧ ∀ i < 128, ∀ e < 128, word s1 j i e = 0)) ∧
     (∀ j m, sane → j < 8 → m < 8 → j ≠ m → does (.move j m) (fun s s1 => only j s s1 ∧ bit j (q.atype.getLsbD m) s1 ∧
       ∀ i < 128, ∀ e < 128, word s1 j i e = word s m i e)) ∧
     -- a step: the block of the accumulator, its type, MDERR, and the value of an element
     let el := fun (s : State) (x : StepArgs) (r i e z : Nat) => leNat (bytesAt s 1 (0x20000000 + x.c * 0x100000 + r * 16384 + i * 128 + e * z) z)
     let nib := fun (s : State) (x : StepArgs) (i h : Nat) => el s x x.m i (h / 2) 1 / (if h % 2 = 0 then 1 else 16) % 16
     let stepped := fun (s s1 : State) (x : StepArgs) (sa : Nat → Word) (sb : Word) => only x.acc s s1 ∧ bit x.acc (x.ta.fmt == 6#4) s1 ∧
       (∀ i < 128, ∀ e < 128, word s1 x.acc i e =
         if i < x.ta.rows ∧ e < x.tb.rows then (stepElem s x sa sb i e).toNat else word s x.acc i e) ∧
       ((s1.cluster c).mderr = true ↔ q.mderr = true ∨ (x.sparse = true ∧ ∃ i h, i < x.ta.rows ∧ h < x.tb.cols / 4 ∧
         nib s x i h / 4 ≤ nib s x i h % 4))
     (∀ (x : StepArgs) sa sb, sane → x.c = c → x.acc < 8 → stepped s (tileStep s x sa sb) x sa sb) ∧
     (∀ j r m ovw sp (xa xb xm : Tctl), sane → j < 8 → does (.step j r m ovw sp xa xb xm) (fun s s1 =>
       stepped s s1 ⟨c, j, r, m, r + 1, ovw, sp, xa, xb⟩ (fun _ => 0x3F800000) 0x3F800000)) ∧
     (∀ (x : StepArgs) (sa : Nat → Word) (sb : Word) (i e : Nat), sane →
       let pairs := if x.sparse = true then (List.range (x.tb.cols / 4)).flatMap fun h =>
           if nib s x i h / 4 ≤ nib s x i h % 4 then [] else [(2 * h, 4 * h + nib s x i h % 4), (2 * h + 1, 4 * h + nib s x i h / 4)]
         else (List.range x.ta.cols).map fun h => (h, h)
       let old : Word := if x.ovw = true then 0 else BitVec.ofNat 32 (leNat (bytesAt s 1 (0x30000000 + x.c * 0x100000 + x.acc * 65536 + i * 512 + e * 4) 4))
       (x.ta.fmt = 6#4 → stepElem s x sa sb i e = BitVec.ofInt 32 (max (-2147483648) (min 2147483647 (old.toInt +
         (pairs.map fun h => sextInt 8 (el s x x.a i h.1 1) * sextInt 8 (el s x x.b e h.2 1)).sum)))) ∧
       (x.ta.fmt ∈ [2, 3, 4, 5] → x.tb.fmt ∈ [2, 3, 4, 5] →
         let f := fun (k : BitVec 4) => if k = 2#4 then fp16 else if k = 3#4 then bf16 else if k = 4#4 then e4m3 else e5m2
         let z := fun (k : BitVec 4) => if k = 2#4 ∨ k = 3#4 then 2 else 1
         let p := fun (h : Nat × Nat) => (mulV (decodeF (f x.ta.fmt) (el s x x.a i h.1 (z x.ta.fmt))) (decodeF (f x.tb.fmt) (el s x x.b e h.2 (z x.tb.fmt)))).1
         let once := fun (v : Fval) => decodeF fp32 (roundF fp32 0 false 0 false v).1
         ∃ sum : Fval, stepElem s x sa sb i e = BitVec.ofNat 32 (roundF fp32 0 false 0 false
             (fmaV (once sum) (once (mulV (decodeF fp32 (sa i).toNat) (decodeF fp32 sb.toNat)).1) (decodeF fp32 old.toNat)).1).1 ∧
           ((∀ h ∈ pairs, (p h).finite = true) → sum.finite = true ∧ sum.rat = (pairs.map fun h => (p h).rat).sum ∧
             (sum.rat = 0 → isNegV sum = (!pairs.isEmpty && pairs.all fun h => isNegV (p h)))) ∧
           ((∃ h ∈ pairs, isNanV (p h) = true) ∨ ((∃ h ∈ pairs, p h = .inf true) ∧ ∃ h ∈ pairs, p h = .inf false) → isNanV sum = true) ∧
           ∀ n, (∃ h ∈ pairs, p h = .inf n) → (∀ h ∈ pairs, isNanV (p h) = false ∧ p h ≠ .inf (!n)) → sum = .inf n)) ∧
     -- transfers, piece by piece; the places are none of the engine's own
     (∀ (p : Piece) x k lg lo pr y write, p.phys = some x → p.pair = some (k, lg, lo) → findPair s p.part k lg lo = some pr → p.other = some y →
       pieceAt s p write = some (if p.upper = (pr.front != write) then x else y)) ∧
     (∀ (l : List Piece) (at_ : Piece → Nat × Nat),
       let there := fun (own : Nat → Prop) => ∀ p ∈ l, p.phys = some (at_ p) ∧ p.pair = none ∧ (at_ p).1 ≤ 4 ∧ ((at_ p).1 = 3 → s.cxlUp = true) ∧
         physOk s p.part false (at_ p).1 (at_ p).2 = true ∧ ((at_ p).1 = 1 → ∀ i < p.len, ¬ own ((at_ p).2 + i))
       let mine := fun (j : Nat) (p : Piece) => 0x20000000 + c * 0x100000 + j * 16384 + p.row * 128 + p.at_
       (∀ j, sane → there (inTile j) → (∀ p ∈ l, p.row < 128 ∧ p.at_ + p.len ≤ 128) →
         does (.tile false j l) (fun s s1 => StoredAll s s1 (l.map fun p => (1, mine j p, bytesAt s (at_ p).1 (at_ p).2 p.len))) ∧
         does (.tile true j l) (fun s s1 => StoredAll s s1 (l.map fun p => ((at_ p).1, (at_ p).2, bytesAt s 1 (mine j p) p.len)))) ∧
       ∀ j (cvt : Bool) (cfg : Mdcfg) (scale : Word), sane → j < 8 → there (inAcc j) → (cvt = true → 0 < cfg.ofmt.toNat ∧ cfg.ofmt.toNat < 8) →
         let f := cfg.ofmt.toNat
         let sr := cvt = true ∧ cfg.rnd = 2#2
         -- the generator after i rows
         let gen := fun (i : Nat) => (List.range i).foldl (fun w _ => genStep w) q.gend
         let value := fun (s : State) (i e : Nat) =>
           let w := BitVec.ofNat 32 (word s j i e)
           let r := if sr then srDraw (gen (i + 1)) e else 0
           let v := (mulV (if q.atype.getLsbD j = true then .fin (decide (w.toInt < 0)) w.toInt.natAbs 0 else decodeF fp32 w.toNat)
             (decodeF fp32 scale.toNat)).1
           if cvt = false then word s j i e
           else if f = 6 then (BitVec.ofInt 8 (toInt 8 cfg.rnd.toNat r v).1).toNat
           else if f = 7 then (BitVec.ofInt 32 (toInt 32 cfg.rnd.toNat r v).1).toNat
           else (roundF (if f = 1 then fp32 else if f = 2 then fp16 else if f = 3 then bf16 else if f = 4 then e4m3 else e5m2)
             cfg.rnd.toNat cfg.nsat r false v).1
         let size := if cvt = false ∨ f = 1 ∨ f = 7 then 4 else if f = 2 ∨ f = 3 then 2 else 1
         let row := fun (s : State) (i : Nat) => (List.range (cfg.cm1.toNat + 1)).flatMap fun e => leBytes size (value s i e)
         does (.drain j cvt l cfg scale) (fun s s1 => ∃ s2, StoredAll s s2 (((List.range (cfg.rm1.toNat + 1)).flatMap fun i => l.filter fun p => p.row == i).map
             fun p => ((at_ p).1, (at_ p).2, ((row s p.row).drop p.at_).take p.len)) ∧
           OneCluster s2 s1 c { s2.cluster c with gend := if sr then gen (cfg.rm1.toNat + 1) else q.gend })) ∧
     (∀ j (p : Piece) kind off, sane → p.phys = some (kind, off) → p.pair = none → (kind = 3 → s.cxlUp = true) → physOk s p.part false kind off = false →
       does (.tile false j [p]) (fun s s1 =>
         Stored s s1 1 (0x20000000 + c * 0x100000 + j * 16384 + p.row * 128 + p.at_) (List.replicate p.len 0)) ∧
       does (.tile true j [p]) (fun s s1 => s1 = s)) ∧
     (q.queue = [] → exec (.matrixCommandExecute c) s = .next s)) ∧
    -- TCTL and MDCFG
    (s.group? s.cur = some g → isSeq s.cur = true →
      let w : Tctl := ⟨v.extractLsb' 16 4, v.extractLsb' 8 7, v.extractLsb' 0 7⟩
      let illegal := w.fmt = 1#4 ∨ 7 ≤ w.fmt.toNat ∨ 128 < w.rowBytes
      let m : Mdcfg := ⟨v.extractLsb' 20 4, v.getLsbD 18, v.extractLsb' 16 2, v.extractLsb' 8 7, v.extractLsb' 0 7⟩
      let wrong := m.ofmt = 0#4 ∨ 8 ≤ m.ofmt.toNat ∨ m.rnd = 3#2 ∨ (m.nsat = true ∧ m.ofmt ≠ 4#4)
      (∃ u, exec (.tctlWrite t v) s = .next u ∧
        OneCluster s u me (if illegal then { k with badcfg := true } else { k with tctl := tabSet k.tctl t.toNat w })) ∧
      ∃ u, exec (.mdcfgWrite v) s = .next u ∧ OneCluster s u me (if wrong then { k with badcfg := true } else { k with mdcfg := m }))

/-- R178 to R186, R360: a job whose card passes every check of Table 11 enters the queue and runs its iterations on the operands of R180: its
walker writes the records of Table 12 while it has permits, its slots are staged and freed, its steps return their permits, and it ends DONE
after the last; MJOB.CANCEL, a failing scale, an uncorrectable word and BADC end it before, after a step that has started, and the commands
behind it are discarded. The model's reading (log 36), and no words of the spec: that a step starts as soon as its tiles are staged, that an
ending job fills what it has claimed, that a scale which fails ends a job whose step also meets an uncorrectable word as FAULT, the order of
the records where sources share a ring, what code 5 takes for the tile of a metadata ring and what code 9 looks at, that DISC is set only if a
command is discarded, and what d of MJOB.CANCEL reads where the job is ending already. -/
def Obligations.MatrixJobsRunTheirIterations : Prop :=
  ∀ (s : State) (g : Group) (d a b : BitVec 7) (c : Nat) (j : Job) (rest : List Command),
    let me := clusterOf s.cur
    let k := s.cluster me
    let q := s.cluster c
    let card := vaAdd (storeGet g.ab 3) ((if a = 112#7 then (0 : Dword) else storeGet g.s (a.toNat - 96)).toNat : Nat)
    let n0 := (if b = 112#7 then (0 : Dword) else storeGet g.s (b.toNat - 96)).toNat
    let isJob := fun (x : Command) => match x with | .job _ => true | _ => false
    -- the fields of a card (Table 9), and the operands of an iteration (R180)
    let src := fun (C : BitVec 512) (i : Nat) => recU C (47 + i) 1
    let srcs := fun (C : BitVec 512) => if recU C 0 1 = 2 then [0, 1, 2] else [0, 1]
    let pair := fun (C : BitVec 512) (i : Nat) => if i = 0 then recU C 50 1 % 16 else if i = 1 then recU C 50 1 / 16 else recU C 50 1 % 16 + 2
    let tile := fun (C : BitVec 512) (i n : Nat) => if 128 ≤ src C i then pair C i + n % 2 else src C i % 16
    let lev := fun (C : BitVec 512) => recU C 2 1 % 8
    let trip := fun (C : BitVec 512) (l : Nat) => recU C (4 + 2 * l) 2
    let total := fun (C : BitVec 512) => ((List.range (lev C)).map (trip C)).prod
    let digit := fun (C : BitVec 512) (n l : Nat) => n / ((List.range l).map (trip C)).prod % trip C l
    let along := fun (C : BitVec 512) (z : Nat → Nat) (f : Nat → Int) => ((List.range (lev C)).map fun l => (z l : Int) * f l).sum
    let astr := fun (C : BitVec 512) (l : Nat) => recI C (14 + 3 * l) 3
    let cstr := fun (C : BitVec 512) (l : Nat) => sextInt 4 (recU C 44 3 / 16 ^ l)
    let scl := fun (f : BitVec 512) => recU f 3 1 / 8 % 2 = 1
    let scaleAt := fun (x : Job) (n rows i : Nat) =>
      if i < rows then vaAdd (vaAdd (BitVec.ofNat 80 (recU x.fmtb 8 10)) (4 * along x.card (digit x.card n) fun l => recI x.fmtb (32 + 2 * l) 2))
        ((i : Int) * recI x.fmtb 28 4)
      else vaAdd (BitVec.ofNat 80 (recU x.fmtb 18 10)) (4 * along x.card (digit x.card n) fun l => recI x.fmtb (42 + 2 * l) 2)
    (∀ (x : Job) (n : Nat), let C := x.card
      let z := digit C n
      let rows := fun (i : Nat) => ((tabGet x.tctl (tile C i 0)).getD Tctl.reset).rows
      let len := fun (i : Nat) => if i = 2 then ((tabGet x.tctl (tile C 1 0)).getD Tctl.reset).cols / 8
        else ((tabGet x.tctl (tile C i 0)).getD Tctl.reset).rowBytes
      ringSrcs C = (srcs C).filter (fun i => decide (128 ≤ src C i)) ∧ cardT C = total C ∧ (cardEmit C = true ↔ 128 ≤ recU C 51 1) ∧
      cardQueue c C = (2 * c + recU C 51 1 / 8 % 2, recU C 51 1 % 8) ∧ (fmtScl x.fmtb = true ↔ scl x.fmtb) ∧
      srcAddr x 0 n = vaAdd x.ab0 (16 * along C z (astr C)) ∧ srcAddr x 1 n = vaAdd x.ab1 (16 * along C z fun l => recI C (29 + 3 * l) 3) ∧
      srcAddr x 2 n = vaAdd x.ab2 (4 * along C z (astr C)) ∧
      jobArgs c { x with next := n } = {
        c := c, acc := ((recU C 3 1 % 8 : Nat) + along C z (cstr C)).toNat, a := tile C 0 n, b := tile C 1 n, m := tile C 2 n,
        ovw := decide (recU C 1 1 % 2 = 1) && (List.range (lev C)).all fun l => decide (cstr C l = 0 → z l = 0), sparse := decide (recU C 0 1 = 2),
        ta := (tabGet x.tctl (tile C 0 0)).getD Tctl.reset, tb := (tabGet x.tctl (tile C 1 0)).getD Tctl.reset } ∧
      (∀ m, scaleAddrs x n m = (List.range (m + 1)).map (scaleAt x n m)) ∧
      (jobStarted x = true ↔ x.running = true ∧ x.ending = none ∧ ∀ i ∈ ringSrcs C, x.next < stagedOf x i) ∧
      (stepPoisoned s (jobArgs c x) = true ↔
        let y := jobArgs c x
        let hit := fun (at_ step m w : Nat) => ∃ i < m, ∃ e < w, poisonedAt s 1 (at_ + i * step + e) = true
        let tiles := fun (j : Nat) => 0x20000000 + c * 0x100000 + j * 16384
        hit (tiles y.a) 128 y.ta.rows y.ta.rowBytes ∨ hit (tiles y.b) 128 y.tb.rows y.tb.rowBytes ∨
          (y.sparse = true ∧ hit (tiles y.m) 128 y.ta.rows (y.tb.cols / 8)) ∨
          (y.ovw = false ∧ hit (0x30000000 + c * 0x100000 + y.acc * 65536) 512 y.ta.rows (4 * y.tb.rows))) ∧
      -- Table 12
      ∀ (r : Ring) (i : Nat), i ∈ ringSrcs C → c < 128 → x.start ≤ n →
        let mates := (ringSrcs C).filter fun h => src C h % 16 == src C i % 16
        let e := (n - x.start) * mates.length + (mates.filter (· < i)).length
        let slot := (((x.ch0.find? fun y => y.1 == src C i % 16).map (·.2)).getD 0 + e) % ringN r
        let w := walkerRecord c x r i n
        recU w 0 1 = 1 ∧ recU w 1 1 = 2 ∧ recU w 2 1 = 4 ∧ recU w 3 1 = src C i % 16 ∧ recU w 4 4 = 0 ∧ recU w 8 10 = (srcAddr x i n).toNat ∧
        recU w 18 10 = r.base.toNat + slot * slotB r ∧ recU w 28 4 = len i ∧ recU w 32 2 = rows i ∧ recU w 34 2 = 1 ∧
        recI w 36 4 = (if i = 0 then recI C 54 4 else if i = 1 then recI C 58 4 else recI C 54 4 / 4) ∧ recU w 40 4 = 0 ∧ recU w 44 4 = len i ∧
        recU w 48 8 = 0 ∧ recU w 56 4 = 0x80000000 + c ∧ recU w 60 3 = 0 ∧ recU w 63 1 = 0x80) ∧
    -- the checks of Table 11, code i + 1 for check i
    (∀ (u : State) (C f : BitVec 512) (tm : Team) (m : Nat), u.team? g.team = some tm →
      let B := fun (i : Nat) => recU C i 1
      let F := fun (i : Nat) => recU f i 1
      let sparse := B 0 = 2
      let ring := fun (i : Nat) => i ∈ srcs C ∧ 128 ≤ src C i
      let r := fun (i : Nat) => ringOf tm (src C i % 16)
      let t := tctlOf (u.cluster me)
      let ta := t (tile C 0 0)
      let tb := t (tile C 1 0)
      let tt := t (tile C 2 0)
      let len := fun (i : Nat) => if i = 2 then tb.cols / 8 else (t (tile C i 0)).rowBytes
      let xc := 2 * me + B 51 / 8 % 2
      let xq := (u.core xc).queue (B 51 % 8)
      let meets := fun (i v : Nat) => v = pair C i ∨ v = pair C i + 1
      let fails := fun (i : Nat) => match i with
        | 0 => (B 0 ≠ 1 ∧ B 0 ≠ 2) ∨ 1 < B 1 ∨ 7 < B 2 ∨ lev C = 0 ∨ 5 < lev C ∨ 7 < B 3 ∨ 15 < B 46 ∨ (∃ h < 3, B (47 + h) / 16 % 8 ≠ 0) ∨
            (B 0 = 1 ∧ B 49 ≠ 0) ∨ B 51 / 16 % 8 ≠ 0 ∨ B 52 = 0 ∨ 16 < B 52 ∨ B 53 ≠ 0 ∨ 7 < F 0 ∨ 7 < F 1 ∨ F 2 = 0 ∨ 7 < F 2 ∨ F 3 % 4 = 3 ∨
            15 < F 3 ∨ (F 3 / 4 % 2 = 1 ∧ F 2 ≠ 4) ∨ F 4 ≠ (if scl f then 128 else 0) ∨ F 5 ≠ (if scl f then 128 else 0) ∨ recU f 6 2 ≠ 0 ∨
            recU f 52 12 ≠ 0
        | 1 => (∃ l < lev C, trip C l = 0) ∨ 2 ^ 40 < total C ∨ total C ≤ m
        | 2 => ∃ z : Nat → Nat, (∀ l < lev C, z l = 0 ∨ z l = trip C l - 1) ∧
            ((B 3 % 8 : Nat) + along C z (cstr C) < 0 ∨ 7 < (B 3 % 8 : Nat) + along C z (cstr C))
        | 3 => (sparse ∧ ¬ ring 0 ∧ src C 0 % 2 = 1) ∨ (ring 0 ∧ pair C 0 % 2 = 1) ∨ (ring 1 ∧ pair C 1 % 2 = 1) ∨
            (ring 2 ∧ ring 0 ∧ pair C 0 % 4 ≠ 0) ∨ (ring 2 ∧ ¬ ring 0 ∧ (pair C 0 % 2 = 1 ∨ 12 < pair C 0)) ∨
            (∃ h i, ring h ∧ i ∈ srcs C ∧ ¬ ring i ∧ meets h (src C i % 16)) ∨
            ∃ h i, h < i ∧ ring h ∧ ring i ∧ (meets h (pair C i) ∨ meets i (pair C h))
        | 4 => ∃ h, ring h ∧ ((r h).en = false ∨ slotB (r h) < (t (tile C h 0)).rows * len h ∨ ∃ i < ringN (r h), slotSt (r h) i ≠ 0)
        | 5 => 128 ≤ B 51 ∧ (xq.en = false ∨ boundUid u xc xq ≠ some tm.uid)
        | 6 => ∃ h, ring h ∧ ringN (r h) < B 52
        | 7 => ta.fmt.toNat ≠ F 0 ∨ tb.fmt.toNat ≠ F 1 ∨ (scl f ∧ (F 0 ≠ 4 ∨ F 1 ≠ 4)) ∨ (∃ h, ring h ∧ t (pair C h) ≠ t (pair C h + 1)) ∨
            ¬ (((F 0 = 4 ∨ F 0 = 5) ∧ (F 1 = 4 ∨ F 1 = 5)) ∨ (F 0 = F 1 ∧ (F 0 = 2 ∨ F 0 = 3 ∨ F 0 = 6))) ∨
            (¬ sparse ∧ ta.cols ≠ tb.cols) ∨
            (sparse ∧ ¬ (F 0 = 4 ∧ F 1 = 4 ∧ tb.cols % 8 = 0 ∧ tb.cols = 2 * ta.cols ∧ tt.fmt = 0#4 ∧ ta.rows ≤ tt.rows ∧ tb.cols / 8 ≤ tt.cols))
        | _ => recI C 54 4 % 4 ≠ 0 ∨ recI C 58 4 % 4 ≠ 0 ∨ recI f 28 4 % 4 ≠ 0 ∨
            (sparse ∧ ring 0 ∧ ((storeGet g.ab 0).toNat % 64 ≠ 0 ∨ ∃ l < lev C, 1 < trip C l ∧ 16 * astr C l % 64 ≠ 0))
      let code := cardCode u s.cur g C f m
      (code = 0 ↔ ∀ i < 9, ¬ fails i) ∧ ∀ i < 9, (code = i + 1 ↔ fails i ∧ ∀ h < i, ¬ fails h)) ∧
    (g.em = 0 → GivesGroup s g (.mjob d a b) g.goesOn ∧ GivesGroup s g (.mjobWait d) g.goesOn ∧ GivesGroup s g (.mjobCancel d) g.goesOn) ∧
    (g.em ≠ 0 → Issues s g (.mjob d a b) → (∀ x, g.wait ≠ .matrixQueue x) →
      (card.toNat % 64 ≠ 0 → exec (.mjob d a b) s = .next (raiseAll s s.cur g .aln (packVa card))) ∧
      (card.toNat % 64 = 0 → ∀ e, readBlock s s.cur g card = .error e →
        exec (.mjob d a b) s = .next (wholeTrap { s with fresh := s.fresh + 8 } g e (packVa card))) ∧
      (card.toNat % 64 = 0 → ∀ x f s1, readBlock s s.cur g card = .ok (x, none) →
        let fva := vaAdd card (64 * recI x 62 2)
        s1 = touchLane s s.cur g .load card (.read card 64) → readBlock s1 s.cur g fva = .ok (f, none) →
        let s2 := touchLane s1 s.cur g .load fva (.read fva 64)
        let code := cardCode s2 s.cur g x f n0
        let new : Job := {
          card := x, fmtb := f, ab0 := storeGet g.ab 0, ab1 := storeGet g.ab 1, ab2 := storeGet g.ab 2, mode := g.mode, part := g.part,
          teamUid := ((s.team? g.team).map (·.uid)).getD 0, tctl := k.tctl,
          ch0 := (ringSrcs x).map fun i => (src x i % 16, ((s.team? g.team).map fun tm => (ringOf tm (src x i % 16)).ch.toNat).getD 0),
          start := n0, next := n0, written := n0, recsDone := 0, claim := none, staged := (n0, n0, n0), permits := recU x 52 1, running := false,
          eccAt := none, ending := none, inStep := false, canceled := false }
        (code ≠ 0 → ∃ t, exec (.mjob d a b) s = .next t ∧ LaneResult s2 t g g.goesOn (dstOpnd d 2) (fun _ => BitVec.ofNat 128 code)) ∧
        (code = 0 → 16 ≤ k.queue.length → ∃ t, exec (.mjob d a b) s = .next t ∧ OwnGroup s2 t { g with wait := .matrixQueue (.job new) }) ∧
        (code = 0 → k.queue.length < 16 → ∃ t s3, exec (.mjob d a b) s = .next t ∧
          OneCluster s2 s3 me { s2.cluster me with
            queue := if k.queue = [] then [.job { new with running := true }] else (s3.cluster me).queue, jst := 2,
            mdcfg := { k.mdcfg with ofmt := BitVec.ofNat 4 (cardB f 2), rnd := BitVec.ofNat 2 (cardB f 3), nsat := decide (cardB f 3 / 4 % 2 = 1) } } ∧
          (s3.cluster me).queue.length = k.queue.length + 1 ∧ (k.queue ≠ [] → (s3.cluster me).queue.getLast? = some (.job new)) ∧
          LaneResult s3 t g g.goesOn (dstOpnd d 2) (fun _ => 0)))) ∧
    (g.em ≠ 0 → (k.queue = [] → Gives s g (.mjobWait d) d 2 (fun _ => k.jst.setWidth 128)) ∧
      (k.queue ≠ [] → GivesGroup s g (.mjobWait d) { g with wait := .matrixIdle })) ∧
    -- MJOB.CANCEL
    (g.em ≠ 0 → (∀ x, g.wait ≠ .cancel x) → Issues s g (.mjobCancel d) →
      let jobs := k.queue.filterMap fun x => match x with | .job y => some y | _ => none
      -- no job runs: those queued end, and the other commands keep their places
      ((∀ y, k.queue.head? ≠ some (.job y)) → (∀ y ∈ jobs, y.running = false) → ∃ t s1, exec (.mjobCancel d) s = .next t ∧
        OneCluster s s1 me (match jobs.getLast? with
          | none => k
          | some y => { k with queue := k.queue.filter (fun x => !isJob x), jst := 6, mjIter := BitVec.ofNat 40 y.start, mjCause := 0 }) ∧
        LaneResult s1 t g g.goesOn (dstOpnd d 2) (fun _ => (BitVec.allOnes 64).setWidth 128)) ∧
      -- a job runs
      (k.queue = .job j :: rest → j.running = true →
        let kept := rest.filter fun x => match x with | .job y => y.running | _ => true
        let j0 := { j with canceled := j.canceled || kept.length != rest.length }
        let j1 := { j0 with ending := some 6, inStep := jobStarted j }
        (j.ending = none → slotsFreed j = true → jobStarted j = false → ∃ t s1, exec (.mjobCancel d) s = .next t ∧
          OneCluster s s1 me { k with queue := [], disc := k.disc || !kept.isEmpty, jst := 6, mjIter := BitVec.ofNat 40 j.next, mjCause := 0 } ∧
          LaneResult s1 t g g.goesOn (dstOpnd d 2) (fun _ => (BitVec.ofNat 40 j.next).setWidth 128)) ∧
        (j.ending = none → slotsFreed j = false ∨ jobStarted j = true → ∃ t s1, exec (.mjobCancel d) s = .next t ∧
          OneCluster s s1 me { k with queue := .job j1 :: kept } ∧ OwnGroup s1 t { g with wait := .cancel true }) ∧
        ∀ e, j.ending = some e → slotsFreed j = false ∨ j.inStep = true → ∃ t s1, exec (.mjobCancel d) s = .next t ∧
          OneCluster s s1 me { k with queue := .job j0 :: kept } ∧ OwnGroup s1 t { g with wait := .cancel (e == 6) })) ∧
    (∀ m, g.em ≠ 0 → g.wait = .cancel m →
      (k.queue = [] → Gives s g (.mjobCancel d) d 2 (fun _ => (if m then k.mjIter.setWidth 64 else BitVec.allOnes 64).setWidth 128)) ∧
      (k.queue = .job j :: rest → Issues s g (.mjobCancel d) → exec (.mjobCancel d) s = .next s)) ∧
    (∀ x n w s1, claimSlot s x n = some (s1, w) ↔ ∃ l, let y := (s.core x).queue n
      tableRead s y.part y.base.toNat 8 = some l ∧ w = leNat l ∧ tableWrite s y.part y.base.toNat (leBytes 8 (w + 1)) = some s1) ∧
    -- the units of a running job
    (q.queue = .job j :: rest → j.running = true →
      let rings := ringSrcs j.card
      let xq := cardQueue c j.card
      let job := fun (t : State) (j' : Job) => (t.cluster c).queue = .job j' :: rest
      let walked := fun (s1 : State) (j' : Job) => ∃ t, exec (.walkerRecordWrite c) s = .next t ∧
        OneCluster s1 t c { s1.cluster c with queue := .job j' :: rest }
      (cardEmit j.card = false → exec (.walkerRecordWrite c) s = .next s) ∧
      (∀ key tm src, teamOfUid s j.teamUid = some (key, tm) → s.team? key = some tm → j.ending = none → cardEmit j.card = true → rings = [src] →
        j.recsDone = 0 →
        let r := walkerRecord c j (ringOf tm (cardSrc j.card (47 + src)).2) src j.written
        (j.claim = none → j.permits = 0 ∨ cardT j.card ≤ j.written ∨ claimSlot s xq.1 xq.2 = none → walked s j) ∧
        (j.claim = none → 0 < j.permits → j.written < cardT j.card → ∀ s1 w, claimSlot s xq.1 xq.2 = some (s1, w) →
          (∀ s2, fillClaim s1 (xq.1, xq.2, w) j.mode j.teamUid r = some s2 → walked s2 { j with written := j.written + 1, permits := j.permits - 1 }) ∧
          (fillClaim s1 (xq.1, xq.2, w) j.mode j.teamUid r = none → walked s1 { j with claim := some (xq.1, xq.2, w), permits := j.permits - 1 })) ∧
        (∀ w, j.claim = some w → (fillClaim s w j.mode j.teamUid r = none → walked s j) ∧
          ∀ s2, fillClaim s w j.mode j.teamUid r = some s2 → walked s2 { j with claim := none, written := j.written + 1 })) ∧
      -- a job that has ended with status e at iteration n: what it leaves of the cluster z; the commands behind it are discarded
      let ended := fun (z : Cluster) (x : Job) (e : BitVec 4) => { z with
        queue := [], disc := z.disc || !rest.isEmpty, jst := if x.canceled = true then 6 else e, mjIter := BitVec.ofNat 40 x.next,
        mjCause := if e = 3 then z.mjCause else 0 }
      (∀ key tm src, teamOfUid s j.teamUid = some (key, tm) → s.team? key = some tm → rings.find? (mayStage s tm j) = some src →
        let ring := recU j.card (47 + src) 1 % 16
        let r := ringOf tm ring
        let rows := ((tabGet j.tctl (tile j.card src 0)).getD Tctl.reset).rows
        let bytes := if src = 2 then ((tabGet j.tctl (tile j.card 1 0)).getD Tctl.reset).cols / 8
          else ((tabGet j.tctl (tile j.card src 0)).getD Tctl.reset).rowBytes
        s.poison = [] → ∃ t r', exec (.matrixSlotStage c) s = .next t ∧ t.team? key = some { tm with rings := tabSet tm.rings ring r' } ∧
          slotSt r r.ch.toNat = 2 ∧ SlotNow r r' r.ch.toNat 0 ∧ r'.ch.toNat = (r.ch.toNat + 1) % ringN r ∧
          (j.ending = none → job t (stagedNext j src) ∧
            ∀ i < rows, bytes ≤ 128 → ∀ e < bytes, memByte t 1 (tileOff c (tile j.card src (stagedOf j src)) i e) =
              byteAt (scratchRead s tm tm.core (r.base.toNat + r.ch.toNat * slotB r) (rows * bytes)) (i * bytes + e)) ∧
          ∀ e, j.ending = some e → (∀ kind off, kind ≤ 4 → memByte t kind off = memByte s kind off) ∧
            if slotsFreed (stagedNext j src) = true ∧ j.inStep = false then t.cluster c = ended q j e else job t (stagedNext j src)) ∧
      (j.ending = none → j.inStep = false → (∃ i ∈ rings, stagedOf j i ≤ j.next) → exec (.matrixStepComplete c) s = .next s) ∧
      (∀ e, j.ending = some e → j.inStep = false →
        (slotsFreed j = false → exec (.matrixStepComplete c) s = .next s) ∧
        (slotsFreed j = true → ∃ t, exec (.matrixStepComplete c) s = .next t ∧ OneCluster s t c (ended q j e))) ∧
      -- a step completes, or meets a scale that fails or an uncorrectable word
      (let x := jobArgs c j
       let scaled := fmtScl j.fmtb = true
       let at_ := scaleAt j j.next x.ta.rows
       let read := fun (i : Nat) => unitRead s j.part false j.mode (at_ i) 4
       let failing := fun (i : Nat) (e : Cause) => scaled ∧ i ≤ x.ta.rows ∧ (((at_ i).toNat % 4 ≠ 0 ∧ e = .aln) ∨
         ((at_ i).toNat % 4 = 0 ∧ e ≠ .ecc ∧ ∃ va, read i = .error (e, va)))
       let lost := fun (i : Nat) => scaled ∧ i ≤ x.ta.rows ∧ (at_ i).toNat % 4 = 0 ∧
         ((∃ va, read i = .error (.ecc, va)) ∨ ∃ l va, read i = .ok (l, some va))
       let stepping := (j.ending = none ∧ ∀ i ∈ rings, j.next < stagedOf j i) ∨ (j.ending ≠ none ∧ j.inStep = true)
       (scaled → s.cxlUp = true) →
       -- the job in the state s0 ends with status e of its own step, or goes on to its ending
       let ends := fun (s0 : State) (z : Cluster) (e : BitVec 4) =>
         let j2 := { j with ending := some ((j.ending).getD e), inStep := false }
         ∃ t, exec (.matrixStepComplete c) s = .next t ∧
           OneCluster s0 t c (if slotsFreed j = true then ended z j ((j.ending).getD e) else { z with queue := .job j2 :: rest })
       (stepping → ∀ i e, failing i e → (∀ h < i, ∀ e', ¬ failing h e') → ends { s with fresh := s.fresh + 1 }
         (if j.ending = none then { q with mjCause := e.code, mjfa := packVa (at_ i) } else q) 3) ∧
       (stepping → (∀ i e, ¬ failing i e) → j.eccAt = some j.next ∨ (∃ i, lost i) ∨ stepPoisoned s x = true → ends s { q with eccBit := true } 5) ∧
       ∀ w : Nat → Word, (∀ i, i ≤ x.ta.rows → if scaled then (at_ i).toNat % 4 = 0 ∧ ∃ l, read i = .ok (l, none) ∧ w i = BitVec.ofNat 32 (leNat l)
           else w i = 0x3F800000) →
         j.eccAt ≠ some j.next → stepPoisoned s x = false →
         let s1 := tileStep { s with fresh := s.fresh + 1 } x w (w x.ta.rows)
         let j1 := { j with next := j.next + 1, permits := if cardEmit j.card = true then j.permits + 1 else j.permits, inStep := false }
         let k1 := s1.cluster c
         (j.ending = none → (∀ i ∈ rings, j.next < stagedOf j i) → ∃ t, exec (.matrixStepComplete c) s = .next t ∧ OneCluster s1 t c
           (if j.next + 1 < cardT j.card then { k1 with queue := .job j1 :: rest }
            else { k1 with
              queue := (match rest with | .job y :: l => .job { y with running := true } :: l | l => l),
              jst := if rest.any isJob then 2 else 1, mjIter := BitVec.ofNat 40 (j.next + 1), mjCause := 0 })) ∧
         (∀ e, j.ending = some e → j.inStep = true → ∃ t, exec (.matrixStepComplete c) s = .next t ∧ OneCluster s1 t c
           (if slotsFreed j1 = true then ended k1 j1 e else { k1 with queue := .job j1 :: rest })))) ∧
    -- BADC of a ring of the running job
    (∀ key tm ring, s.team? key = some tm → tm.core / 2 = c → tm.uid = j.teamUid → q.queue = .job j :: rest → j.running = true → j.ending = none →
      ring ∈ (ringSrcs j.card).map (fun i => src j.card i % 16) →
      ((setBadc s (.live key) ring).cluster c).queue.head? = some (.job { j with ending := some 4, inStep := jobStarted j }))

/-- R73 to R93: records are checked (R77) and handed in by XCP, XCPD and copy queues, in turn while there is room; a copy whose accesses all pass moves
its rows one after another, converted where the formats differ (Table 2, R75, R76, R89), writes its home and completes (R78, R79); another halts with
its resume row; YIELDC goes on when the group's continuation copies have completed. That a copy moves all of its bytes in the turn that completes it
is the model's choice (log 5), as are that an uncorrectable operand of XCPD reads zero (log 54), that a copy takes its stamp at its acceptance (log
56), to which team a queue's TEAM is bound (log 36), that a row whose write fails has drawn its random words (log 37), and what log 55 names: the
log entry of a fault on a queue's own memory beside DIR, a copy that is held because its home cannot be written, of two uncorrectable bytes the one
reported, what a row of an uncorrectable index holds, and the slot that a copy of no bytes commits. -/
def Obligations.CopiesAreHandedInRunAndComplete : Prop :=
  ∀ (s : State) (g : Group) (tm : Team) (d a : BitVec 7) (h : BitVec 1) (k4 : BitVec 4) (hint : BitVec 2) (p : BitVec 19) (core n : Nat),
    s.team? g.team = some tm →
    let me := coreOf s.cur
    let mine := s.core me
    let k := s.core core
    let started := fun (c : Copy) (j : Nat) => { c with id := s.nextCopy + j, row := firstRow c.record, stamp := s.qepoch }
    let size := fun (f : Nat) => if f = 1 ∨ f = 7 then 4 else if f = 2 ∨ f = 3 then 2 else 1
    let rowsOf := fun (r : BitVec 512) => if recU r 0 1 = 0 then 1 else if recU r 0 1 = 2 ∨ recU r 0 1 = 3 then recU r 32 2 * recU r 34 2 else recU r 32 2
    -- a malformed record
    (∀ (r : BitVec 512) (queued : Bool),
      let B := fun (i : Nat) => recU r i 1
      let converts := (1 ≤ B 4 ∧ B 4 ≤ 5 ∧ 1 ≤ B 5 ∧ B 5 ≤ 5) ∨ ((B 4 = 6 ∨ B 4 = 7) ∧ B 5 = 1) ∨ (B 4 = 1 ∧ (B 5 = 6 ∨ B 5 = 7)) ∨ (B 4 = 7 ∧ B 5 = 6)
      let off := fun (at_ n f : Nat) => recU r at_ n % size f ≠ 0
      recBad r queued = true ↔
        4 < B 0 ∨ 4 < B 2 ∨ 7 < B 4 ∨ 7 < B 5 ∨ 3 < B 1 ∨ 7 < B 6 ∨ B 7 ≠ 0 ∨ B 6 % 4 = 3 ∨ ((B 2 = 1 ∨ B 2 = 4) ∧ 15 < B 3) ∨
        (B 2 ≠ 1 ∧ B 2 ≠ 4 ∧ B 3 ≠ 0) ∨ ¬ (B 4 = 0 ↔ B 5 = 0) ∨ (B 4 ≠ 0 ∧ B 4 ≠ B 5 ∧ ¬ converts) ∨
        (B 0 = 3 ∧ (B 4 ≠ 0 ∨ B 5 ≠ 0 ∨ B 1 % 2 = 1 ∨ recU r 28 4 % 4 ≠ 0)) ∨ (B 0 = 4 ∧ recU r 34 2 ≠ 1) ∨ 16777215 < rowsOf r ∨
        (B 4 ≠ 0 ∧ (off 8 (if B 1 % 2 = 1 then 4 else 8) (B 4) ∨ off 18 (if B 1 / 2 % 2 = 1 then 4 else 8) (B 5) ∨
          ((B 0 = 1 ∨ B 0 = 2) ∧ (off 36 4 (B 4) ∨ off 44 4 (B 5))) ∨ (B 0 = 2 ∧ (off 40 4 (B 4) ∨ off 48 4 (B 5))) ∨
          (B 0 = 4 ∧ (off 40 4 (B 4) ∨ off 44 4 (B 5) ∨ recU r 36 4 % 4 ≠ 0)))) ∨
        (B 2 = 3 ∧ (recU r 52 4 % 4 ≠ 0 ∨ queued = true)) ∨ (B 2 = 4 ∧ B 1 / 2 % 2 = 0) ∨ (B 63 % 128 = 2 ∧ rowsOf r < recU r 60 3)) ∧
    -- the rows of a copy, in ascending order, and the uncorrectable byte that is reported
    (∀ (c : Copy) (s1 : State) b,
      let rows := if recU c.record 28 4 = 0 then 0 else rowsOf c.record
      (rows ≤ c.row → copyRun s core c = (s, c.err, none)) ∧
      (c.row < rows → copyRow s c core (copyRef s c) c.row = (s1, b, none) →
        copyRun s core c = copyRun s1 core { c with row := c.row + 1, err := lowerErr c.err b }) ∧
      (∀ e va dir, c.row < rows → copyRow s c core (copyRef s c) c.row = (s1, b, some (e, va, dir)) →
        copyRun s core c = (s1, lowerErr c.err b, some (c.row, e, va, dir)))) ∧
    (∀ x, lowerErr none x = x ∧ lowerErr x none = x) ∧
    (∀ x y : VAddr × Nat, lowerErr (some x) (some y) = some (if y.1.toNat < x.1.toNat ∨ (y.1 = x.1 ∧ y.2 < x.2) then y else x)) ∧
    -- one row
    (∀ (c : Copy) (ref : Option TeamRef) (row : Nat),
      let r := c.record
      let B := fun (i : Nat) => recU r i 1
      let bytes := recU r 28 4 * size (B 4)
      let disp := fun (u v : Nat) => (if B 0 = 1 then row * recI r u 4
        else if B 0 = 2 ∨ B 0 = 3 then (row % recU r 32 2 : Nat) * recI r u 4 + (row / recU r 32 2 : Nat) * recI r v 4 else 0 : Int)
      let pad := fun (o : Nat) (step : Int) => (((o : Int) + step) % 4294967296).toNat
      let idx := pad (recU r 36 4) (4 * row)
      let here := fun (va : VAddr) => isLocal s va = true ∧ (vaKind va = 3 → s.cxlUp = true)
      let reads := fun (step : Int) (u : State) (l : List Byte) (bad : Option VAddr) =>
        (B 1 % 2 = 0 ∧ u = s ∧ here (vaAdd (recSrc r) step) ∧ unitRead s c.part true c.mode (vaAdd (recSrc r) step) bytes = .ok (l, bad)) ∨
        (B 1 % 2 = 1 ∧ ∃ t i, ref = some t ∧ refClean s t (pad (recU r 8 4) step) bytes = (l, i) ∧
          bad = i.map (fun (h : Nat) => BitVec.ofNat 80 (pad (pad (recU r 8 4) step) h)) ∧
          u = copySpov s c ref (refGap s t (pad (recU r 8 4) step) bytes))
      let source := fun (u : State) (l : List Byte) (bad : Option VAddr) =>
        (B 0 = 3 ∧ u = s ∧ bad = none ∧ l = (List.range bytes).map fun i => BitVec.ofNat 8 (recU r (8 + i % 4) 1)) ∨
        (B 0 = 4 ∧ ∃ t w i, ref = some t ∧ refGap s t idx 4 = false ∧ refClean s t idx 4 = (w, i) ∧
          (i = none → reads (leNat w * recI r 40 4) u l bad) ∧
          (i ≠ none → u = s ∧ l = List.replicate bytes 0 ∧ bad = if bytes = 0 then none else some (BitVec.ofNat 80 idx))) ∨
        (B 0 ≠ 3 ∧ B 0 ≠ 4 ∧ reads (disp 36 40) u l bad)
      let sr := B 4 ≠ B 5 ∧ B 6 % 4 = 2
      let gen := fun (i : Nat) => (List.range i).foldl (fun w _ => genStep w) k.genx
      let out := fun (l : List Byte) => if B 4 = B 5 then l else (List.range (recU r 28 4)).flatMap fun e => leBytes (size (B 5))
        (convertE (B 4) (B 5) (B 6 % 4) (B 6 / 4 % 2 == 1) (if sr then srDraw (gen (e / 32 + 1)) e else 0) false (leField l (e * size (B 4)) (size (B 4)))).1
      let step := if B 0 = 4 then row * recI r 44 4 else disp 44 48
      let va := vaAdd (recDst r) step
      let o := pad (recU r 18 4) step
      (∀ e x, B 0 ≠ 3 → B 0 ≠ 4 → B 1 % 2 = 0 → here (vaAdd (recSrc r) (disp 36 40)) →
        unitRead s c.part true c.mode (vaAdd (recSrc r) (disp 36 40)) bytes = .error (e, x) →
        copyRow s c core ref row = ({ s with fresh := s.fresh + 1 }, none, some (e, x, 0))) ∧
      ∀ u l bad, source u l bad → ∃ s0,
        OneCore { u with fresh := u.fresh + 1 } s0 core { k with genx := if sr then gen ((recU r 28 4 + 31) / 32) else k.genx } ∧
        let lost := bad.map fun x => (x, 0)
        (B 1 / 2 % 2 = 1 → ∀ t, ref = some t →
          copyRow s c core ref row = (copySpov (refWrite s0 t o (out l)) c ref (refGap s0 t o (out l).length), lost, none) ∧
          ∀ x y, t = .live x → s.team? x = some y → scratchGap y y.core o (out l).length = false → o % 4096 + (out l).length ≤ 4096 →
            y.sbase.toNat + y.ssize.toNat ≤ 128 → (y.paired = true → y.core < 255) → y.core < 256 →
            let p := scratchLocate y y.core o
            ∃ s1, copyRow s c core ref row = (s1, lost, none) ∧ Stored s0 s1 1 (p.1 * 0x100000 + p.2.1) (out l)) ∧
        (B 1 / 2 % 2 = 0 → here va →
          (∀ z, vaOff va % 65536 + (out l).length ≤ 65536 → (z.kind = 3 → s.cxlUp = true) →
            translate s0 384 c.part true c.mode .store (vaKind va) (vaOff va) = .ok z →
            ∃ s1, copyRow s c core ref row = (s1, lost, none) ∧ Stored s0 s1 z.kind z.off (out l)) ∧
          ∀ s1 e x, unitWrite s0 c.part true c.mode va (out l) = (s1, some (e, x)) → copyRow s c core ref row = (s1, lost, some (e, x, 1)))) ∧
    -- what a unit reads within a page of this device: an uncorrectable byte is zero, and the first of them is told
    (∀ part engine mode va n q, isLocal s va = true → vaOff va % 65536 + n ≤ 65536 →
      translate s 384 part engine mode .load (vaKind va) (vaOff va) = .ok q →
      unitRead s part engine mode va n = .ok ((List.range n).map (fun i => if poisonedAt s q.kind (q.off + i) = true then 0 else memByte s q.kind (q.off + i)),
        ((List.range n).find? fun i => poisonedAt s q.kind (q.off + i)).map fun (i : Nat) => vaAdd va i)) ∧
    -- SPOV of a copy that meets the gap of its team's scratchpad
    (∀ (c : Copy) ref u x id y, s.group? id = some y →
      (c.source ≤ 1 → c.owner = some u → y.uid = u → (copySpov s c ref true).group? id = some { y with spov := true }) ∧
      (2 ≤ c.source → ref = some (.live x) →
        (copySpov s c ref true).group? id = some (if y.team = x ∧ y.gid = 0 then { y with spov := true } else y))) ∧
    -- XCP
    (let r := (storeGet g.s (8 * h.toNat + 7) ++ storeGet g.s (8 * h.toNat + 6) ++ storeGet g.s (8 * h.toNat + 5) ++ storeGet g.s (8 * h.toNat + 4) ++
       storeGet g.s (8 * h.toNat + 3) ++ storeGet g.s (8 * h.toNat + 2) ++ storeGet g.s (8 * h.toNat + 1) ++ storeGet g.s (8 * h.toNat) : BitVec 512)
     let c := groupCopy s s.cur g r 0 0
     (∀ m, m < 56 → recU c.record m 1 = recU r m 1) ∧
     recU c.record 56 4 = coreOf s.cur % 256 + slotOf s.cur * 256 + g.part % 64 * 8192 ∧
     (g.em = 0 → GivesGroup s g (.xcp d h) g.goesOn) ∧
     (g.em ≠ 0 → Issues s g (.xcp d h) →
       (recBad c.record false = true → ∃ t, exec (.xcp d h) s = .next t ∧ Answers s t g d 4) ∧
       (recBad c.record false = false → hasRoom s me = false → ∃ t, exec (.xcp d h) s = .next t ∧ OwnGroup s t { g with wait := .room [] }) ∧
       (recBad c.record false = false → hasRoom s me = true → ∃ t s1, exec (.xcp d h) s = .next t ∧
         OneCore { s with nextCopy := s.nextCopy + 1 } s1 me { mine with
           copies := mine.copies ++ [started c 0], served := 0 } ∧
         LaneResult s1 t g { g.goesOn with xcnt := if recCkind r = 3 then g.xcnt + 1 else g.xcnt } (dstOpnd d 1) (fun _ => 0)))) ∧
    -- XCPD
    (let off := fun (l : Nat) => (a32 s g a l).toNat / 64 * 64
     let lanes := if a.ult 96#7 || a == 113#7 then g.active else g.active.take 1
     let c := fun (l : Nat) => groupCopy s s.cur g (recOf (scratchRead s tm tm.core (off l) 64)) 1 (off l)
     (g.em = 0 → GivesGroup s g (.xcpd d a) g.goesOn) ∧
     (g.em ≠ 0 → (∀ x, g.wait ≠ .room x) → Issues s g (.xcpd d a) →
       (∀ l ∈ lanes, scratchGap tm tm.core (off l) 64 = false ∧ (refClean s (.live g.team) (off l) 64).2 = none) →
       ((∀ l ∈ lanes, recBad (c l).record false = false) → (∀ q < 8, queueHead s me q = none) → inFlight mine + lanes.length ≤ 256 →
         ∃ t s1, exec (.xcpd d a) s = .next t ∧
         OneCore { s with nextCopy := s.nextCopy + lanes.length } s1 me { mine with
           copies := mine.copies ++ (lanes.zipIdx.map fun e => started (c e.1) e.2), served := if lanes.isEmpty then mine.served else 0 } ∧
         LaneResult s1 t g { g.goesOn with xcnt := g.xcnt + (lanes.filter fun l => recCkind (c l).record == 3).length } (dstOpnd d 1) (fun _ => 0)) ∧
       (∀ l, lanes = [l] → recBad (c l).record false = true → refOfTeam s tm.uid = some (.live g.team) → ∃ t s1, exec (.xcpd d a) s = .next t ∧ Answers s1 t g d 4 ∧
         (s1.core me).logWait = mine.logWait ++ [⟨logBytes (recSet (c l).record 63 1 4) 0 0 1 2 0 (off l), g.part, none⟩] ∧
         (s1.core me).copies = mine.copies) ∧
       (∀ l, lanes = [l] → recBad (c l).record false = false → hasRoom s me = false → ∃ t, exec (.xcpd d a) s = .next t ∧
         OwnGroup s t { g with wait := .room [] }))) ∧
    -- YIELDC
    (g.xcnt = 0 → GivesGroup s g (.yieldc k4 hint p) { g.goesTo (g.pc + (p.signExtend 64 <<< 2)) with
      k := storeSet g.k k4.toNat ((if g.cerr = true then 1 else 0) &&& fullMask g.width), cerr := false }) ∧
    (g.xcnt ≠ 0 → GivesGroup s g (.yieldc k4 hint p) { g with wait := .continuation k4.toNat }) ∧
    -- a copy runs
    (∀ c, k.copies.find? (fun x => x.id == n) = some c → c.held = false →
      let r := c.record
      let done := copyRun s core c
      let z := done.1.core core
      let m := c.source - 2
      let num := if c.source = 0 then 0 else if c.source = 1 then c.home else c.slotNum
      -- the home of the record: OWNER, RESUME and STATUS
      let tail := fun (r' : BitVec 512) => (leBytes 64 r'.toNat).drop 56
      let slot := fun (r' : BitVec 512) => unitWrite done.1 c.part false .s (mkVa s.devNum.toNat 0 (c.slotOff + 56)) (tail r')
      let home := fun (s2 : State) (r' : BitVec 512) => (c.source = 0 ∧ s2 = done.1) ∨
        (c.source = 1 ∧ ∃ x y, copyRef done.1 c = some (.live x) ∧ done.1.team? x = some y ∧ scratchGap y y.core ((c.home + 56) % 2 ^ 32) 8 = false ∧
          s2 = refWrite done.1 (.live x) ((c.home + 56) % 2 ^ 32) (tail r')) ∨ (2 ≤ c.source ∧ slot r' = (s2, none))
      let held := fun (i : Instr) (r' : BitVec 512) (row : Nat) => ∀ s2 e va, 2 ≤ c.source → slot r' = (s2, some (e, va)) → ∃ t, exec i s = .next t ∧
        OneCore done.1 t core { z with
          xq := tabSet z.xq m { z.queue m with faulted := true }, logWait := z.logWait ++ [⟨logBytes 0 va e.code c.source 0 1 c.slotNum, c.part, none⟩],
          copies := z.copies.map fun x => if x.id = c.id then { x with row := row, err := done.2.1, held := true } else x }
      (∀ row cause va dir, done.2.2 = some (row, cause, va, dir) → exec (.copyComplete core n) s = .next s ∧
        let r' := recSet (recSet r 60 3 row) 63 1 2
        held (.copyHalt core n) r' row ∧
        ∀ s2, home s2 r' → ∃ t, exec (.copyHalt core n) s = .next t ∧
          OneCore s2 t core { z with
            copies := z.copies.filter (fun x => x.id != c.id),
            logWait := z.logWait ++ [⟨logBytes r' va cause.code c.source 0 dir num, c.part, some { c with record := r', row := row, err := done.2.1 }⟩],
            xq := if c.source ≤ 1 then z.xq else tabSet z.xq m { z.queue m with
              halted := (z.queue m).halted ++ [c.home],
              errs := (z.queue m).errs.filter (fun e => e.1 != c.home) ++ done.2.1.toList.map fun e => (c.home, e) } }) ∧
      (done.2.2 = none → exec (.copyHalt core n) s = .next s ∧
        let r' := recSet (recSet r 60 3 (rowsOf r)) 63 1 (if done.2.1.isSome then 3 else 1)
        let logged := fun (y : Core) => match done.2.1 with
          | none => y
          | some (va, dir) => { y with logWait := y.logWait ++ [⟨logBytes r' va 0x11 c.source 2 dir num, c.part, none⟩] }
        held (.copyComplete core n) r' (rowsOf r) ∧
        ∀ s2, home s2 r' → k.resumed = [] →
          let s3 := complete (s2.modCore core fun y => { y with copies := y.copies.filter fun x => x.id != c.id }) { c with record := r' } done.2.1.isSome
          let y := s3.core core
          let x := y.queue m
          let errs := x.errs.filter fun e => e.1 != c.home
          (c.source ≤ 1 → ∃ t, exec (.copyComplete core n) s = .next t ∧ OneCore s3 t core (logged y)) ∧
          -- a slot: RIDX passes it in slot order
          (2 ≤ c.source → x.ridx ≠ c.home → x.ridx ∉ x.done → ∃ t, exec (.copyComplete core n) s = .next t ∧
            OneCore s3 t core (logged { y with xq := tabSet y.xq m { x with done := x.done ++ [c.home], errs := errs } })) ∧
          ∀ s5, 2 ≤ c.source → x.ridx = c.home → x.done = [] →
            unitWrite s3 x.part false .s (mkVa s.devNum.toNat 0 (x.base.toNat + 8)) (leBytes 8 (c.home + 1)) = (s5, none) →
            ∃ t, exec (.copyComplete core n) s = .next t ∧ OneCore s5 t core (logged { y with
              xq := tabSet y.xq m { x with done := [], errs := errs, ridx := c.home + 1, walker := x.walker.filter (fun e => e.1 != c.home) } })) ∧
      (∀ q z, c.source = 0 → c.row = 0 → recKind r = 0 → recSfmt r = 0 → recDfmt r = 0 → recSsp r = false → recDsp r = false → recCkind r = 0 →
        0 < recLen r → k.resumed = [] → s.poison = [] → c.err = none → (q.kind = 3 ∨ z.kind = 3 → s.cxlUp = true) → isLocal s (recSrc r) = true → isLocal s (recDst r) = true →
        vaOff (recSrc r) % 65536 + recLen r ≤ 65536 → vaOff (recDst r) % 65536 + recLen r ≤ 65536 →
        translate s 384 c.part true c.mode .load (vaKind (recSrc r)) (vaOff (recSrc r)) = .ok q →
        translate { s with fresh := s.fresh + 1 } 384 c.part true c.mode .store (vaKind (recDst r)) (vaOff (recDst r)) = .ok z →
        ∃ t s1, exec (.copyComplete core n) s = .next t ∧ Stored { s with fresh := s.fresh + 1 } s1 z.kind z.off (bytesAt s q.kind q.off (recLen r)) ∧
          OneCore s1 t core { k with copies := k.copies.filter (fun x => x.id != c.id) }) ∧
      (∀ e, (recCkind r = 0 → complete s c e = s) ∧ (recCkind r = 2 → complete s c e = unitSignal s c.evPart (BitVec.ofNat 32 (recU r 52 4)))) ∧
      (∀ x y e, recCkind r = 4 → copyRef s c = some (.live x) → s.team? x = some y →
        let ring := ringOf y (recCidx r)
        let a := allocPow (y.ssize.toNat * 4096)
        let u := recU r 18 4 % (if y.paired = true then 2 * a else a)
        let i := (u - ring.base.toNat) / slotB ring
        let inside := ring.base.toNat ≤ u ∧ u < ring.base.toNat + ringN ring * slotB ring
        let refused := complete s c e = setBadc s (.live x) (recCidx r)
        let foreign := emitRing s (.live x) (recCidx r) = true ∧ c.walker = false
        (ring.en = false → complete s c e = s) ∧
        (ring.en = true → ¬ inside ∨ foreign ∨ 1 < slotSt ring i → refused) ∧
        (ring.en = true → inside → ¬ foreign → slotSt ring i ≤ 1 → ∃ v, OneTeam s (complete s c e) x { y with rings := tabSet y.rings (recCidx r) v } ∧
          SlotNow ring v i 2 ∧ (∀ h < 16, v.ph.getLsbD h = (ring.ph.getLsbD h != decide (h = i))) ∧ v = { ring with st := v.st, ph := v.ph })) ∧
      (∀ x y e, recCkind r = 1 → copyRef s c = some (.live x) → s.team? x = some y → ∃ z, (complete s c e).team? x = some z ∧
        storeGet z.pb (recCidx r) = storeGet y.pb (recCidx r) - BitVec.ofNat 48 (recRows r * recLen r * codeBytes (recDfmt r))) ∧
      (∀ u id y, recCkind r = 3 → c.owner = some u → s.group? id = some y → y.uid = u → ∀ e, ∃ z, (complete s c e).group? id = some z ∧
        z.xcnt = y.xcnt - 1 ∧ (y.xcnt ≠ 1 → z = { y with xcnt := z.xcnt, cerr := y.cerr || e }) ∧
        ∀ m, y.xcnt = 1 → y.wait = .continuation m → z.wait = .none ∧ z.pc = y.pc.extractLsb' 32 32 ++ BitVec.ofNat 32 (recU r 52 4) ∧
          z.cerr = false ∧ z.dm = 0 ∧ storeGet z.k m = (if (y.cerr || e) = true then 1 else 0) &&& fullMask y.width ∧
          ((y.dbg.halted || y.parked || y.stopped) = true → z.dbg.pc = z.pc ∧ z.dbg.done = 0))) ∧
    (k.copies.find? (fun x => x.id == n) = none → exec (.copyComplete core n) s = .next s ∧ exec (.copyHalt core n) s = .next s) ∧
    -- queues
    (let x := k.queue n
     let slot := x.base.toNat + 64 + 64 * (x.next % 2 ^ x.logn.toNat)
     let place := mkVa s.devNum.toNat 0 (slot + 63)
     (queueHead s core n = none ∨ queueTurn s core n = false → exec (.copyQueueSlotTake core n) s = .next s) ∧
     (x.en = false ∨ x.faulted = true → queueHead s core n = none) ∧
     (x.en = true → x.faulted = false → x.halted = [] →
       (x.ridx + 2 ^ x.logn.toNat ≤ x.next → queueHead s core n = none) ∧
       (x.next < x.ridx + 2 ^ x.logn.toNat → (∀ ready, unitRead s x.part false .s place 1 = .ok (ready, none) →
           queueHead s core n = if byteAt ready 0 < 128 then none else some x.next) ∧
         (∀ e, unitRead s x.part false .s place 1 = .error e → queueHead s core n = some x.next))) ∧
     -- whose turn it is
     ((∀ q < 9, sourceReady s core q = false) → (hasRoom s core = true ↔ inFlight k < 256) ∧
       (queueTurn s core n = true ↔ inFlight k < 256 ∧ inFlightQ k < 224)) ∧
     (∀ i m, i < 9 → m < 9 → k.served < 9 → (i ∈ turnAhead s core m ↔ sourceReady s core i = true ∧ (i + 8 - k.served) % 9 < (m + 8 - k.served) % 9)) ∧
     (hasRoom s core = true ↔ inFlight k + (turnAhead s core 0).length < 256) ∧
     (queueTurn s core n = true ↔ inFlight k < 256 ∧ inFlightQ k < 224 ∧ turnAhead s core (n + 1) = []) ∧
     -- a slot is taken
     (queueHead s core n = some x.next → queueTurn s core n = true → x.halted = [] →
       (∀ l, unitRead s x.part false .s (mkVa s.devNum.toNat 0 slot) 64 = .ok (l, none) → x.walker.find? (fun e => e.1 == x.next) = none →
         recBad (recOf l) true = false → k.resumed = [] →
         ∃ t, exec (.copyQueueSlotTake core n) s = .next t ∧ OneCore { s with nextCopy := s.nextCopy + 1 } t core { k with
           xq := tabSet k.xq n { x with next := x.next + 1 },
           copies := k.copies ++ [started {
             id := 0, record := recOf l, source := 2 + n, home := x.next, slotOff := slot, slotNum := x.next % 2 ^ x.logn.toNat, row := 0, mode := .s,
             part := x.part, teamUid := boundUid s core x, owner := none, walker := false, stamp := 0,
             evPart := ((((boundUid s core x).bind (refOfTeam s)).bind (refTeam s)).map (·.part)).getD x.part,
             err := if recStatus (recOf l) = 2 then (x.errs.find? (fun e => e.1 == x.next)).map (·.2) else none, held := false } 0],
           served := n + 1 }) ∧
       (∀ e va, unitRead s x.part false .s (mkVa s.devNum.toNat 0 slot) 64 = .error (e, va) → k.resumed = [] →
         ∃ t, exec (.copyQueueSlotTake core n) s = .next t ∧ OneCore s t core { k with
           xq := tabSet k.xq n { x with faulted := true },
           logWait := k.logWait ++ [⟨logBytes 0 va e.code (2 + n) 0 2 (x.next % 2 ^ x.logn.toNat), x.part, none⟩] })))

/-- R84 to R88, R91, R115 (SRSEED): a waiting entry of the fault log is written, XQCFG, XFLOG and SRSEED set what they name, and XFRES hands a
halted copy in again. The model's choice: that XQCFG goes on at the header's RIDX, and not where a slot is halted (log 19), the team that it binds
(log 36), the owner of an edited entry and an entry whose STATE cannot be written (log 35), a queue or log whose place changes while it is in use
(log 55). -/
def Obligations.CopyLogsAndQueueRegistersAct : Prop :=
  ∀ (s : State) (g : Group) (v : Dword) (core : Nat),
    let me := coreOf s.cur
    let mine := s.core me
    let k := s.core core
    let started := fun (c : Copy) (j : Nat) => { c with id := s.nextCopy + j, row := firstRow c.record, stamp := s.qepoch }
    -- the fault log
    (k.logWait = [] → exec (.faultLogEntryWrite core) s = .next s) ∧
    (∀ e rest, k.logWait = e :: rest →
      let full := k.flogEn = false ∨ (k.widx + 65536 - k.xfridx.toNat) % 65536 = 2 ^ k.flogLogn.toNat
      let w := (tableWrite s k.flogPart (k.flogBase.toNat + 128 + 128 * (k.widx % 2 ^ k.flogLogn.toNat)) (leBytes 128 e.bytes.toNat)).bind
        fun s1 => tableWrite s1 k.flogPart k.flogBase.toNat (leBytes 8 (k.widx + 1))
      (full → exec (.faultLogEntryWrite core) s = .next s) ∧
      (¬ full → w = none → ∃ t, exec (.faultLogEntryWrite core) s = .next t ∧ OneCore s t core { k with flogEn := false, lbad := true }) ∧
      (¬ full → k.resumed = [] → ∀ s1, w = some s1 → ∃ t, exec (.faultLogEntryWrite core) s = .next t ∧ OneCore s1 t core { k with
        logWait := rest, widx := k.widx + 1,
        halted := if e.copy.any (fun c => c.source ≤ 1) then k.halted.filter (fun x => x.entry != k.widx % 65536) ++
          (e.copy.map (Halted.mk (k.widx % 65536))).toList else k.halted })) ∧
    -- the CSRs of S mode on a vector core
    (s.group? s.cur = some g → isSeq s.cur = false → g.mode ≠ .u →
      let logn : BitVec 4 := v.extractLsb' 59 4
      let sizes := 4 ≤ logn.toNat ∧ logn.toNat ≤ 12
      let seed : Word := if v.extractLsb' 0 32 = 0#32 then 1 else v.extractLsb' 0 32
      let qn := mine.xqsel.toNat
      let old := mine.queue qn
      let new := { old with
        en := v.getLsbD 63, logn := logn, team := v.extractLsb' 54 5, base := v.extractLsb' 6 42 ++ 0#6, part := g.part,
        faulted := old.faulted && !v.getLsbD 63,
        bound := (((teamOn s me (v.extractLsb' 54 5).toNat).bind s.team?).map (·.uid)).orElse fun _ =>
          if old.team = v.extractLsb' 54 5 then old.bound else none }
      let idle := old.halted = [] ∧ ∀ c ∈ mine.copies, c.source ≠ 2 + qn
      (¬ sizes → exec (.xqcfgWrite v) s = .next s ∧ exec (.xflogWrite v) s = .next s) ∧
      let header := unitRead { s with cores := tabSet s.cores me { mine with xq := tabSet mine.xq qn new } } g.part false .s
        (mkVa s.devNum.toNat 0 (new.base.toNat + 8)) 8
      (sizes → v.getLsbD 63 = false ∨ (old.done = [] ∧ ((old.en = true ∧ old.synced = true) ∨ ¬ idle)) → ∃ t, exec (.xqcfgWrite v) s = .next t ∧
        OneCore s t me { mine with xq := tabSet mine.xq qn new }) ∧
      (sizes → v.getLsbD 63 = true → old.en = false ∨ old.synced = false → idle →
        (∀ l, header = .ok (l, none) → ∃ t, exec (.xqcfgWrite v) s = .next t ∧
          OneCore s t me { mine with xq := tabSet mine.xq qn { new with ridx := leNat l, next := leNat l, done := [], synced := true } }) ∧
        ∀ e va, header = .error (e, va) → ∃ t, exec (.xqcfgWrite v) s = .next t ∧
          OneCore s t me { mine with
            xq := tabSet mine.xq qn { new with synced := false, faulted := true },
            logWait := mine.logWait ++ [⟨logBytes 0 va e.code (2 + qn) 0 2 0, g.part, none⟩] }) ∧
      (sizes → ∃ t, exec (.xflogWrite v) s = .next t ∧ OneCore s t me { mine with
        flogEn := v.getLsbD 63, flogLogn := logn, flogBase := v.extractLsb' 7 41 ++ 0#7, flogPart := g.part, lbad := mine.lbad && !v.getLsbD 63 }) ∧
      (∃ t, exec (.srseedWrite v) s = .next t ∧ t = { s with cores := t.cores, clusters := t.clusters } ∧
        t.core me = { mine with gen0 := seed, gen1 := seed, genx := seed } ∧ (∀ c, c ≠ me → t.core c = s.core c) ∧
        ∀ c, t.cluster c = if me % 2 = 0 ∧ c = me / 2 then { s.cluster c with gend := seed } else s.cluster c) ∧
      -- XFRES
      (let i := v.toNat % 65536
       let place := mine.flogBase.toNat + 128 + 128 * (i % 2 ^ mine.flogLogn.toNat)
       let inLog := (i + 65536 - mine.xfridx.toNat) % 65536 < (mine.widx + 65536 - mine.xfridx.toNat) % 65536
       (mine.halted.find? (fun x => x.entry == i) = none ∨ ¬ inLog → exec (.xfres v) s = .next s) ∧
       (∀ x l s1, mine.halted.find? (fun x => x.entry == i) = some x → inLog → tableRead s mine.flogPart place 128 = some l →
         (1 < byteAt l 75 ∨ byteAt l 76 ≠ 0 → exec (.xfres v) s = .next s) ∧
         (tableWrite s mine.flogPart (place + 76) [1#8] = none → exec (.xfres v) s = .next s) ∧
         (byteAt l 75 ≤ 1 → byteAt l 76 = 0 → tableWrite s mine.flogPart (place + 76) [1#8] = some s1 → recBad (recOf (l.take 64)) false = false →
           mine.resumed = [] → (∀ q < 8, queueHead s1 me q = none) → inFlight mine < 256 → ∃ t y, exec (.xfres v) s = .next t ∧
             y = { x.copy with record := recOf (l.take 64), source := byteAt l 75, home := leField l 80 4, owner := y.owner, teamUid := y.teamUid } ∧
             (recU y.record 56 4 = recU x.copy.record 56 4 → y.owner = x.copy.owner ∧ y.teamUid = x.copy.teamUid) ∧
             (recU y.record 56 4 ≠ recU x.copy.record 56 4 → ∀ u, y.owner = some u → ∃ id z, s.group? id = some z ∧ z.uid = u ∧ z.part = x.copy.part) ∧
             OneCore { s1 with nextCopy := s.nextCopy + 1 } t me { mine with
               halted := mine.halted.filter (fun x => x.entry != i), copies := mine.copies ++ [started y 0], served := 0 }))))

/-- R208 to R213 (TLAUNCH), R289 (STOP): a launch starts a team or answers its STATUS; the last group's STOP ends it, and until then the team
keeps the slot and the registers of every group that has stopped. -/
def Obligations.LaunchesStartTeamsAndStopEndsThem : Prop :=
  ∀ (s : State) (g : Group) (tm : Team) (v : Dword),
    -- the checks of Table 4 on a record that has been read
    (∀ (l : List Byte) (part : Nat),
      let F := fun (p off n : Nat) => leField l (off + 32 * p) n
      let n := byteAt l 0
      let total := ((List.range n).map fun p => F p 34 1).sum
      let units := (leField l 4 4 + 4095) / 4096
      let core := byteAt l 2
      let paired := byteAt l 1 % 2 = 1
      let cores := if paired then [core, core + 1] else [core]
      let matrix := ∃ p < n, F p 32 1 = 3
      let mayUse := fun (c : Nat) => c < 256 ∧ coreHeld s c part = true ∧ coreVacated s c part = false
      let nocore := ¬ (∀ c ∈ cores, mayUse c) ∨ (matrix ∧ ¬ mayUse (core / 2 * 2))
      let busy := ∃ c ∈ cores, (teamOn s c (byteAt l 3)).isSome = true ∨ ∃ r ∈ s.reserves, r.core = c ∧ r.num = some (byteAt l 3)
      let role := (∃ p < n, ∃ q < n, p ≠ q ∧ F p 32 1 = 3 ∧ F q 32 1 = 3) ∨ (∃ p < n, F p 32 1 = 2) ∨
        (matrix ∧ ((s.group? (8192 + core / 2)).isSome = true ∨ ∃ e ∈ s.teams, ∃ h ∈ e.2.held, h.1 = 8192 + core / 2))
      let withheld := matrix ∧ ∃ r ∈ s.reserves, r.seqr = true ∧ r.core / 2 = core / 2
      let clear := fun (used : List (Nat × Nat)) (b len : Nat) => ∀ u ∈ used, u.2 = 0 ∨ b + len ≤ u.1 ∨ u.1 + u.2 ≤ b
      let scratch := fun (b : Nat) => b + units ≤ 128 ∧ ∀ c ∈ cores, clear (usedScratch s c none) b units
      let places := placeGroups s core (byteAt l 1 % 2 == 1) none ((groupsOf l).map fun p => (p.role == 3, p.rsize)) 0 []
      (recordBad l = true ↔ n = 0 ∨ 4 < n ∨ 1 < byteAt l 1 ∨ (paired ∧ core % 2 = 1) ∨ 31 < byteAt l 3 ∨ 524288 < leField l 4 4 ∨ 15 < byteAt l 9 ∨
        leField l 10 22 ≠ 0 ∨ leField l 288 32 ≠ 0 ∨
        (∃ p < n, F p 36 4 ≠ 0 ∨ F p 58 6 ≠ 0 ∨ 3 < F p 32 1 ∨ (F p 32 1 = 3 ∧ F p 33 1 ≠ 0) ∨ (F p 32 1 ≠ 3 ∧ (F p 33 1 < 4 ∨ 6 < F p 33 1)) ∨
          F p 34 1 = 0 ∨ 32 < F p 34 1 ∨ (2 ≤ F p 32 1 ∧ F p 34 1 ≠ 1) ∨ F p 35 1 = 0 ∨ 16 < F p 35 1 ∨ F p 40 8 % 4 ≠ 0) ∨ 32 < total ∨
        ∃ k < 16, let w := leField l (160 + 4 * k) 4
          w / 2 ^ 26 % 2 = 1 ∨ w / 2 ^ 13 % 8 ≠ 0 ∨
          (2 ^ 31 ≤ w ∧ units * 4096 < w % 2 ^ 13 * 64 + (w / 2 ^ 27 % 16 + 1) * (64 * (w / 2 ^ 16 % 1024 + 1))) ∨ 2 ^ total ≤ leField l (224 + 4 * k) 4) ∧
      (recordBad l = true → launchCheck s part l = .error 1) ∧
      (recordBad l = false →
        (nocore → launchCheck s part l = .error 2) ∧ (¬ nocore → busy → launchCheck s part l = .error 4) ∧
        (¬ nocore → ¬ busy → role → launchCheck s part l = .error 5) ∧
        (¬ nocore → ¬ busy → ¬ role →
          (places = none ∨ (∀ b, ¬ scratch b) ∨ withheld → launchCheck s part l = .error 3) ∧
          ∀ spots sb, places = some spots → scratch sb → (∀ b < sb, ¬ scratch b) → ¬ withheld → launchCheck s part l = .ok (spots, sb))) ∧
      -- the lowest free slot and registers of each group's core, in the order of gid; slot 31 and the last registers of an even core are its teller's
      (∀ spots i x p, core < 255 → places = some spots → spots[i]? = some x → (groupsOf l)[i]? = some p →
        spots.length = (groupsOf l).length ∧
        (p.role = 3 → x.id = 8192 + core / 2 ∧ x.rbase = 0) ∧
        (p.role ≠ 3 →
          let c := if paired then core + i % 2 else core
          let slot := fun (k : Nat) => k < 32 ∧ k ∉ usedSlots s c none ∧ ∀ j < i, ∀ y, spots[j]? = some y → y.id ≠ c * 32 + k
          let regs := fun (b : Nat) => b + p.rsize ≤ 64 ∧ clear (usedRegs s c none) b p.rsize ∧
            ∀ j < i, ∀ y q, spots[j]? = some y → (groupsOf l)[j]? = some q → q.role ≠ 3 → y.id / 32 = c → clear [(y.rbase, q.rsize)] b p.rsize
          x.id / 32 = c ∧ slot (x.id % 32) ∧ (∀ k < x.id % 32, ¬ slot k) ∧ regs x.rbase ∧ ∀ b < x.rbase, ¬ regs b)) ∧
      (∀ c, c % 2 = 0 → 31 ∈ usedSlots s c none ∧ (63, 1) ∈ usedRegs s c none)) ∧
    -- TLAUNCH
    (s.group? s.cur = some g → g.mode ≠ .u →
      let addr := (v.extractLsb' 6 42).toNat * 64
      let tells := fun (n : BitVec 3) => ∃ t, exec (.tlaunch v) s = .next t ∧ t = { s with groups := t.groups } ∧
        t.group? s.cur = some { g with tlStatus := n } ∧ ∀ id, id ≠ s.cur → t.group? id = s.group? id
      (tableRead s g.part addr 320 = none → tells 6) ∧
      (∀ l, tableRead s g.part addr 320 = some l → (recordBad l = true → tells 1) ∧
        (∀ n, launchCheck s g.part l = .error n → tells (BitVec.ofNat 3 n)) ∧
        (∀ spots sb, launchCheck s g.part l = .ok (spots, sb) → (∀ x ∈ spots, x.id ≠ s.cur) → ∃ t y, exec (.tlaunch v) s = .next t ∧
          t.group? s.cur = some { g with tlStatus := 0 } ∧ t.team? (byteAt l 2 * 32 + byteAt l 3) = some y ∧
          (y.part = g.part ∧ y.core = byteAt l 2 ∧ y.num = byteAt l 3 ∧ y.sbase = BitVec.ofNat 7 sb ∧ y.groups = spots.map (·.id) ∧ y.held = []) ∧
          (∀ k < 16, let w := leField l (160 + 4 * k) 4
            let r := ringOf y k
            (r.en = true ↔ 2 ^ 31 ≤ w) ∧ r.nm1.toNat = w / 2 ^ 27 % 16 ∧ r.sz.toNat = w / 2 ^ 16 % 1024 ∧ r.base.toNat = w % 2 ^ 13 * 64 ∧ r.st = 0 ∧
              r.ch = 0 ∧ r.pt = 0 ∧ r.badc = false) ∧
          (∀ k, k ≠ byteAt l 2 * 32 + byteAt l 3 → t.team? k = s.team? k) ∧
          -- its scratchpad is zero, and the matrix state of its cluster at its reset value
          (∀ c ∈ (if byteAt l 1 % 2 = 1 then [byteAt l 2, byteAt l 2 + 1] else [byteAt l 2]), ∀ i < (leField l 4 4 + 4095) / 4096 * 4096,
            memByte t 1 (c * 0x100000 + sb * 4096 + i) = 0) ∧
          (hasMatrix l = true → let c := byteAt l 2 / 2
            let q := t.cluster c
            q.tctl = [] ∧ q.mtstr = 128 ∧ q.mdcfg = Mdcfg.reset ∧ q.mdscl = 0x3F800000 ∧ q.queue = [] ∧ q.atype = 0 ∧ q.jst = 0 ∧ q.mjCause = 0 ∧
            q.mjIter = 0 ∧ q.mjfa = 0 ∧ (q.disc || q.eccBit || q.mderr || q.badcfg) = false ∧
            (∀ i < 0x40000, memByte t 1 (0x20000000 + c * 0x100000 + i) = 0) ∧ ∀ i < 0x80000, memByte t 1 (0x30000000 + c * 0x100000 + i) = 0) ∧
          ∀ i x p, spots[i]? = some x → (groupsOf l)[i]? = some p → (∀ j y, i < j → spots[j]? = some y → y.id ≠ x.id) → ∃ z, t.group? x.id = some z ∧
            z.part = g.part ∧ z.gid = i ∧ z.role = roleOf p.role ∧ z.width = (if p.role = 3 then 1 else 2 ^ p.wlog) ∧ z.mode = .s ∧
            z.pc = BitVec.ofNat 64 p.entry ∧ z.em = fullMask z.width ∧ storeGet z.ab 0 = p.ab0 ∧ z.rbase = BitVec.ofNat 6 x.rbase ∧
            z.rsize = BitVec.ofNat 5 p.rsize ∧ z.udgen = 3 ∧ z.wb = 0 ∧ (∀ k, storeGet z.s k = 0 ∧ storeGet z.k k = 0 ∧ storeGet z.x k = 0) ∧
            (∀ k, k ≠ 0 → storeGet z.ab k = 0) ∧ (z.st.held || z.ht.held || z.dbg.halted || z.dbg.haltReq || z.dbg.pendV) = false ∧
            z = { Group.launch with
                  uid := z.uid, part := z.part, team := byteAt l 2 * 32 + byteAt l 3, gid := i, role := z.role, width := z.width, pc := z.pc,
                  em := z.em, ab := z.ab, rbase := z.rbase, rsize := z.rsize, readySince := z.readySince, parked := z.parked, dbg := z.dbg } ∧
            ∀ reg < 32 * p.rsize, ∀ lane < 64, cellGet t (regCell x.id z reg lane) = 0))) ∧
    -- STOP
    (s.team? g.team = some tm → Issues s g .stop →
      (stopReady s s.cur g = false → s.vacate = none → ∃ t, exec .stop s = .next t ∧ OwnGroup s t { g with wait := .stop }) ∧
      (stopReady s s.cur g = true → ∃ t, exec .stop s = .next t ∧ t.group? s.cur = none ∧
        (tm.groups.filter (· != s.cur) = [] → t.team? g.team = none) ∧
        (tm.groups.filter (· != s.cur) ≠ [] → ∃ y, t.team? g.team = some y ∧ y.groups = tm.groups.filter (· != s.cur) ∧
          y.held = tm.held ++ [(s.cur, g.rbase.toNat, g.rsize.toNat)] ∧
          (isSeq s.cur = true → seqFree t (clusterOf s.cur) = false) ∧
          (isSeq s.cur = false → ∀ skip, slotOf s.cur ∈ usedSlots t (coreOf s.cur) skip ∧
            (g.rbase.toNat, g.rsize.toNat) ∈ usedRegs t (coreOf s.cur) skip))))

/-- R217 to R223 (Tables 10 to 14): the dispatcher carries out the operators of a stream in turn, a compute operator as the tile jobs of its
enumeration, each with its dependences (Table 12), its count of them and its completion event; a job whose count is zero is ready, the completion of
a job and an event that reaches zero lower the counts that name them, and an operator whose last job completes signals; a malformed operator ends
the stream with its code. Which free entries of the pool a job takes is the model's free value (log 14). That its checks are made in the order given here is a reading (log 20), as is that
SIG and SEL come after the events of earlier WAITs (log 34), and that an uncorrectable word ends the stream as a failed read does (log 55). -/
def Obligations.OperatorsOfStreamsAreCarriedOut : Prop :=
  ∀ (s : State) (o : OpFields) (opc : BitVec 8) (st : Stream),
    -- operators
    (findStream s s.curPart s.curStream = some st → st.ended = false →
      let p := s.part s.curPart
      let now := fun (f : Stream → Stream) => { p with streams := p.streams.map fun x => if x.id == s.curStream then f x else x }
      let next := fun (x : Stream) => { x with
        seq := x.seq + 1, levels := match x.levels with
          | l :: r => { l with pos := l.pos + 1 } :: r
          | [] => [] }
      let stops := fun (i : Instr) (code : BitVec 8) => ∃ t, exec i s = .next t ∧
        OnePart s t s.curPart (now fun x => { x with levels := [], ended := true, error := code })
      let does := fun (i : Instr) (f : Stream → Stream) => ∃ t, exec i s = .next t ∧ OnePart s t s.curPart (now f)
      let clean := o.mbz = 0 ∧ o.flags.extractLsb' 2 6 = 0#6
      let named := fun (e : BitVec 16) => p.evLo.toNat ≤ e.toNat ∧ e.toNat < p.evLo.toNat + (p.evN.toNat - p.evDpn.toNat)
      let earlier := (∀ q ∈ st.ops, q.complete = true) ∧ st.waits = []
      -- streams have numbers of their own, operators come in order, and no SIG that could take effect is left waiting
      let settled := (∀ x ∈ p.streams, (x.id = s.curStream → x = st) ∧ sigDue x = none) ∧ ∀ q ∈ st.ops, q.seq < st.seq
      let computes : List (Nat × Instr) := [(1, .operatorGemm o), (2, .operatorAdd o), (3, .operatorBias o), (4, .operatorAct o), (5, .operatorRnorm o),
        (6, .operatorSoftmax o), (7, .operatorCopy o), (8, .operatorAllred o), (9, .operatorAlltoall o)]
      (¬ clean → ∀ i ∈ computes.map (·.2) ++ [.operatorNop o, .operatorWait o, .operatorSig o, .operatorSel o, .operatorCall o, .operatorFence o,
        .operatorEnd o, .operatorReserved opc o], stops i 0x41) ∧
      (clean →
        does (.operatorNop o) next ∧
        does (.operatorFence o) (fun x => { next x with fence := some st.seq }) ∧
        stops (.operatorReserved opc o) 0x41 ∧
        (¬ named o.wevt → stops (.operatorWait o) 0x44) ∧
        (named o.wevt → does (.operatorWait o) (fun x =>
          { next x with waits := if storeGet s.events o.wevt.toNat = 0 then x.waits else x.waits ++ [o.wevt.toNat] })) ∧
        (¬ named o.sevt → stops (.operatorSig o) 0x44) ∧
        (named o.sevt → ¬ earlier → settled → does (.operatorSig o) (fun x => { next x with
          ops := x.ops ++ [⟨st.seq, some o.sevt.toNat, 0, 0, true, st.waits, false, true, false⟩] })) ∧
        (named o.sevt → earlier → settled → p.jobs = [] → 1 < (storeGet s.events o.sevt.toNat).toNat →
          ∃ t, exec (.operatorSig o) s = .next t ∧ storeGet t.events o.sevt.toNat = storeGet s.events o.sevt.toNat - 1 ∧
            ∃ y, findStream t s.curPart s.curStream = some y ∧ y.ops = st.ops ++ [⟨st.seq, some o.sevt.toNat, 0, 0, true, [], true, true, false⟩]) ∧
        (¬ earlier → exec (.operatorSel o) s = .next s) ∧
        (earlier → (∀ e, readDesc s s.curPart o.da = .error e → stops (.operatorSel o) e) ∧
          ∀ base rows cols, readDesc s s.curPart o.da = .ok (base, rows, cols) → (vaOff base % 4 ≠ 0 → stops (.operatorSel o) 0x43) ∧
            (vaOff base % 4 = 0 → ((∃ e, unitRead s s.curPart false .s base 4 = .error e) ∨ (∃ l a, unitRead s s.curPart false .s base 4 = .ok (l, some a)) →
              ∃ t, exec (.operatorSel o) s = .next t ∧ OnePart (linkNote s s.curPart false .s base) t s.curPart
                (now fun x => { x with levels := [], ended := true, error := 0x47 })) ∧
             ∀ l, unitRead s s.curPart false .s base 4 = .ok (l, none) → ∃ t, exec (.operatorSel o) s = .next t ∧
              OnePart { s with fresh := s.fresh + 1 } t s.curPart (now fun x => { next x with levels := match (next x).levels with
                | w :: r => { w with pos := if leNat l = 0 then w.pos + o.aux.toNat else w.pos } :: r
                | [] => [] }))) ∧
        (5 ≤ st.levels.length → stops (.operatorCall o) 0x46) ∧
        (st.levels.length < 5 → (∀ e, readDesc s s.curPart o.da = .error e → stops (.operatorCall o) e) ∧
          ∀ base rows cols, readDesc s s.curPart o.da = .ok (base, rows, cols) →
            does (.operatorCall o) (fun x => { next x with levels := ⟨base, rows, 0⟩ :: (next x).levels })) ∧
        (∃ t, exec (.operatorEnd o) s = .next t ∧ OnePart s t s.curPart { p with
          streams := ((now fun x => { next x with levels := (next x).levels.drop 1, ended := decide ((next x).levels.length ≤ 1) }).streams.filter
            fun x => !(x.ended && x.ops.all (·.complete) && x.error == 0)) }) ∧
        ∀ e ∈ computes,
          (∀ c, readShape s s.curPart e.1 o = .error c → stops e.2 c) ∧
          ∀ h, readShape s s.curPart e.1 o = .ok h →
            let tiles := (List.range ((h.rows + h.tm - 1) / h.tm)).flatMap fun r => (List.range ((h.cols + h.tn - 1) / h.tn)).flatMap fun c =>
              (List.range (if h.tk = 0 then 1 else (h.k + h.tk - 1) / h.tk)).map fun k => (r, c, k)
            let wen := o.flags.getLsbD 0
            let sen := o.flags.getLsbD 1
            let ranges := (wen = true → named o.wevt) ∧ (sen = true → named o.sevt)
            let fits := tiles.length ≤ 2 ^ 24 ∧ 2 * tiles.length ≤ p.evDpn.toNat
            let lo := p.evLo.toNat + (p.evN.toNat - p.evDpn.toNat)
            let pool := ((List.range p.evDpn.toNat).map (lo + ·)).filter fun i => !p.poolUsed.contains i
            let key := fun (j : TileJob) => (j.stream, j.seq, j.r, j.c, j.kk)
            (¬ ranges → stops e.2 0x44) ∧ (ranges → ¬ fits → stops e.2 0x45) ∧
            (ranges → fits → pool.length < 2 * tiles.length → exec e.2 s = .next s) ∧
            (ranges → fits → 2 * tiles.length ≤ pool.length → ∃ t, exec e.2 s = .next t ∧
              t = { s with parts := t.parts, events := t.events, fresh := t.fresh } ∧ (∀ j, j ≠ s.curPart → t.part j = s.part j) ∧
              (t.part s.curPart).jobs.map key = p.jobs.map key ++ (tiles.map fun x => (s.curStream, st.seq, x.1, x.2.1, x.2.2)) ∧
              -- Table 12
              (let before := fun (r c : Nat) => match st.prev with
                 | none => []
                 | some q =>
                   let rows := q.tm = h.tm ∧ q.rows = h.rows
                   let tile := rows ∧ q.tn = h.tn ∧ q.cols = h.cols
                   (p.jobs.filter fun j => decide (j.stream = s.curStream ∧ j.seq = q.seq ∧ h.dep ≠ 0 ∧ (h.dep = 1 → tile → j.r = r ∧ j.c = c) ∧
                     (h.dep = 2 → rows → j.r = r))).map fun j => Dep.job j.seq j.r j.c j.kk
               let common := ((st.ops.filter fun q => !q.complete && (st.fence.map fun f => decide (q.seq < f)).getD false).map fun q => Dep.op q.seq) ++
                 st.waits.map Dep.event ++ (if wen = true ∧ storeGet s.events o.wevt.toNat ≠ 0 then [Dep.event o.wevt.toNat] else [])
               (∀ j ∈ p.jobs, j.depEvt ∈ p.poolUsed) → (∀ q, st.prev = some q → q.seq ≠ st.seq) → ∃ new : List TileJob,
                 (t.part s.curPart).jobs = p.jobs ++ new ∧ new.length = tiles.length ∧ (new.map (·.depEvt) ++ new.map (·.doneEvt)).Nodup ∧
                 (t.part s.curPart).ready = p.ready ++ ((new.filter fun y => y.deps.isEmpty).map fun (y : TileJob) => ⟨y.record, y.target, some (key y)⟩) ∧
                 ∀ (i : Nat) (x : Nat × Nat × Nat) (y : TileJob), tiles[i]? = some x → new[i]? = some y → y.depEvt ∈ pool ∧ y.doneEvt ∈ pool ∧
                   y.deps = (if x.2.2 = 0 then before x.1 x.2.1 else [Dep.job st.seq x.1 x.2.1 (x.2.2 - 1)]) ++ common ∧
                   storeGet t.events y.depEvt = BitVec.ofNat 31 y.deps.length ∧ storeGet t.events y.doneEvt = 1 ∧
                   y.phase = if y.deps = [] then 1 else 0) ∧
              ∃ y, findStream t s.curPart s.curStream = some y ∧ y = { next st with
                ops := st.ops ++ [⟨st.seq, if sen = true then some o.sevt.toNat else none, if o.hint.ult 7#4 then o.hint else 0, tiles.length, false, [],
                  false, false, false⟩],
                prev := some ⟨st.seq, h.tm, h.tn, h.rows, h.cols⟩ }))) ∧
    -- dependences are satisfied, in a partition whose jobs have entries of their own that hold their counts, and no SIG is waiting
    (∀ part : Nat,
      let p := s.part part
      let after := fun (dep : Dep) (mine : TileJob → Bool) (y : TileJob) => if mine y && y.deps.contains dep then
          { y with deps := y.deps.filter (· != dep), phase := if y.deps.all (· == dep) && y.phase == 0 then 1 else y.phase }
        else y
      let readied := fun (dep : Dep) (mine : TileJob → Bool) (l : List TileJob) =>
        (l.filter fun y => mine y && y.deps.contains dep && y.deps.all (· == dep) && y.phase == 0).map fun y =>
          (⟨y.record, y.target, some (y.stream, y.seq, y.r, y.c, y.kk)⟩ : ReadyRec)
      let counted := fun (t : State) => ∀ y ∈ (t.part part).jobs, (storeGet t.events y.depEvt).toNat = y.deps.length
      (p.jobs.map (·.depEvt) ++ p.jobs.map (·.doneEvt)).Nodup → (p.streams.map (·.id)).Nodup → counted s →
      (∀ y ∈ p.jobs, evtNamed p y.depEvt = false ∧ evtNamed p y.doneEvt = false) → (∀ x ∈ p.streams, ∀ q ∈ x.ops, q.after = false) →
      -- a job completes
      (∀ j x q, j ∈ p.jobs → storeGet s.events j.doneEvt = 1 → findStream s part j.stream = some x → x.ops.find? (fun q => q.seq == j.seq) = some q →
        let t := decrement s part j.doneEvt 1
        let others := p.jobs.filter (· != j)
        let dep := Dep.job j.seq j.r j.c j.kk
        let mine := fun (y : TileJob) => y.stream == j.stream
        (1 < q.left → (t.part part).jobs = others.map (after dep mine) ∧ (t.part part).ready = p.ready ++ readied dep mine others ∧ counted t ∧
          (t.part part).poolUsed = p.poolUsed.filter fun i => i != j.depEvt && i != j.doneEvt) ∧
        -- the last of its operator
        (∀ e, q.left = 1 → q.complete = false → p.jobs = [j] → q.sig = some e → e ≠ j.depEvt → e ≠ j.doneEvt → 1 < (storeGet s.events e).toNat →
          storeGet t.events e = storeGet s.events e - 1 ∧ ∃ y, findStream t part j.stream = some y ∧
            y.ops = x.ops.map fun q => if q.seq = j.seq then { q with left := q.left - 1, complete := true } else q)) ∧
      -- an event reaches zero
      ∀ e, evtNamed p e = true → storeGet s.events e = 1 → p.lbEn = false →
        let t := decrement s part e 1
        (t.part part).jobs = p.jobs.map (after (.event e) fun _ => true) ∧ counted t ∧
        (∃ l, (t.part part).ready = p.ready ++ l ∧ l.Perm (readied (.event e) (fun _ => true) p.jobs)) ∧
        (t.part part).streams = p.streams.map fun x =>
          { x with waits := x.waits.filter (· != e), ops := x.ops.map fun q => { q with evs := q.evs.filter (· != e) } })

/-- R239 to R251 (Tables 7, 9): packets are checked in the order of R242 and take effect one after another; an error stops the queue and
is reported in its ring; the payload of a NOP is not looked at; a WAIT whose time has come stops its queue whatever is written then. Where one packet
fails two checks of its own rule, which is reported is a reading (log 20). That a skipped packet passes checks 1 to 4 of R242, its payload among
them, and the placement of check 5, but no other check of its own rule, is a reading too (log 49). -/
def Obligations.QueuesProcessTheirPackets : Prop :=
  ∀ (s : State) (q : Nat) (p : Packet),
    let c := s.curQueue
    let x := s.queue c
    let y := s.queue q
    let part := x.owner.toNat
    let va := pktVa p
    let size := 1 + p.count.toNat
    let one := fun (s t : State) (q : Nat) (z : Queue) => t = { s with queues := t.queues } ∧ t.queue q = z ∧ ∀ j, j ≠ q → t.queue j = s.queue j
    let clear := (x.en = true ∨ x.closing = true) ∧ x.stop = false
    let good := headerCode x p = none ∧ (p.typ = 0 ∨ p.count.toNat ≤ p.payload.length) ∧ payloadBad p = false ∧
      (∀ a b n, curLoop x = some (a, b, n) → size ≤ (b + 2 ^ 64 - curPos x) % 2 ^ 64) ∧ ¬ (p.typ = 1 ∧ (levelOf x ≠ 0 ∨ (curLoop x).isSome = true))
    let runs := fun (i : Instr) (f : State → Prop) => clear → good → curSkip x = 0 → ∃ t, exec i s = .next t ∧ f t
    let passes := fun (s0 t : State) => t = completeAt s0 c (curPos (s0.queue c) + size)
    let fails := fun (s0 : State) (code : BitVec 8) (value : Nat) (t : State) => t = queueError s0 c code value
    let level := fun (f : QLevel → QLevel) (t : State) => ∃ s0, one s s0 c (modLevel x f) ∧ passes s0 t
    let waits := fun (s0 : State) (z : QWait) (t : State) => one s0 t c { s0.queue c with wait := z, packet := some p }
    let rows : List Instr := [.packetNop p, .nopwrap p, .indirect p, .packetWait p, .pred p, .loop p, .ffence p, .packetWrite p, .packetEvsig p,
      .runops p, .report p]
    -- how a packet completes, and how an error stops the queue
    (∀ (pos : Nat) (l : QLevel) (ph : Phys), y.levels = [l] → l.loop = none →
      translate s 384 y.owner.toNat false .s .store y.kind.toNat y.base.toNat = .ok ph → y.base.toNat % 65536 + 8 ≤ 65536 →
      ∃ s1, one s s1 q { y with rptr := BitVec.ofNat 64 pos, wait := .none, packet := none, slots := none } ∧
        Stored s1 (completeAt s q pos) ph.kind ph.off (leBytes 8 (pos % 2 ^ 64))) ∧
    (∀ (z : Queue) a b n, curLoop z = some (a, b, n) → curPos z = b → a < 2 ^ 64 → 1 < n → a ≠ b →
      curPos (settle 16 z) = a ∧ curLoop (settle 16 z) = some (a, b, n - 1) ∧ (settle 16 z).levels.length = z.levels.length) ∧
    (∀ (z : Queue) l m, z.levels = [l, m] → l.loop = none → m.loop = none → l.len ≤ l.pos →
      settle 16 z = { z with levels := [m], rptr := BitVec.ofNat 64 (z.rptr.toNat + 5) }) ∧
    (∀ code value, y.stop = false →
      let t := queueError s q code value
      let r := s.ring y.evr.toNat
      let widx := leNat (bytesAt s 2 r.base.toNat 8)
      let ridx := leNat (bytesAt s 2 (r.base.toNat + 8) 8)
      let there := r.en = true ∧ (widx + 2 ^ 64 - ridx) % 2 ^ 64 ≠ 2 ^ r.logn.toNat ∧ r.base.toNat + 64 + 32 * (widx % 2 ^ r.logn.toNat) + 32 ≤ 64 * 2 ^ 30
      let z := t.queue q
      z = { y with
        stop := true, run := false, haltReq := false, slots := none, code := code, level := BitVec.ofNat 3 (levelOf y), epos := headerPos s y,
        lost := z.lost, wait := .none, packet := none } ∧
      (∀ j, j ≠ q → t.queue j = s.queue j) ∧
      (there → z.lost = false ∧ bytesAt t 2 (r.base.toNat + 64 + 32 * (widx % 2 ^ r.logn.toNat)) 32 =
        eventRecord 1 (if r.owed = true then 1 else 0) q code.toNat (BitVec.ofNat 3 (levelOf y)).toNat (headerPos s y).toNat value s.time ∧
        bytesAt t 2 r.base.toNat 8 = leBytes 8 (widx + 1)) ∧
      (¬ there → z.lost = true ∧ (t.ring y.evr.toNat).lost.toNat = min (r.lost.toNat + 1) (2 ^ 32 - 1) ∧ (t.ring y.evr.toNat).owed = true ∧
        t.sent = s.sent ++ [.pulse (1 + y.evr.toNat)])) ∧
    -- packets
    (¬ clear → ∀ i ∈ rows ++ [.packetReserved p], exec i s = .next s) ∧
    (clear → ∀ i ∈ rows ++ [.packetReserved p], (∀ e, headerCode x p = some e → exec i s = .next (queueError s c e 0)) ∧
      (headerCode x p = none → p.count.toNat ≤ p.payload.length → payloadBad p = true → exec i s = .next (queueError s c 2 0))) ∧
    (clear → 0x0B ≤ p.typ.toNat → exec (.packetReserved p) s = .next (queueError s c 1 0)) ∧
    (clear → good → curSkip x ≠ 0 → p.typ ≠ 1 → ∀ i ∈ rows, ∃ t, exec i s = .next t ∧ level (fun l => { l with skip := l.skip - 1 }) t) ∧
    (clear → good → curSkip x ≠ 0 → p.typ = 1 → ∀ i ∈ rows, ∃ s0, one s s0 c (modLevel x fun l => { l with skip := l.skip - 1 }) ∧
      exec i s = .next (completeAt s0 c ((curPos x / 2 ^ x.logw.toNat + 1) * 2 ^ x.logw.toNat))) ∧
    runs (.packetNop p) (passes s) ∧
    runs (.nopwrap p) (fun t => t = completeAt s c ((curPos x / 2 ^ x.logw.toNat + 1) * 2 ^ x.logw.toNat)) ∧
    runs (.indirect p) (fun t =>
      (∀ e, addrCode s va 4 = some e → fails s e (packVa va).toNat t) ∧
      (addrCode s va 4 = none → (4 ≤ levelOf x → fails s 5 0 t) ∧
        (levelOf x < 4 → one s t c { x with levels := ⟨va, pw p 4, 0, none, 0⟩ :: x.levels }))) ∧
    runs (.packetWait p) (fun t => ∀ s1 r, condition s c p = (s1, r) → (∀ e, r = .error e → fails s1 e.1 e.2 t) ∧ (r = .ok true → passes s1 t) ∧
      (r = .ok false → waits s1 (.cond (if pw p 8 = 0 then none else some (s.time + pw p 8 * 1000))) t)) ∧
    runs (.pred p) (fun t => ∀ s1 r, condition s c p = (s1, r) → (∀ e, r = .error e → fails s1 e.1 e.2 t) ∧ (r = .ok true → passes s1 t) ∧
      (r = .ok false → ∃ s0, one s1 s0 c (modLevel (s1.queue c) fun l => { l with skip := pw p 8 }) ∧ passes s0 t)) ∧
    (∀ l bad n, p.flags.toNat % 8 < 4 → n = (if p.flags.getLsbD 3 = true then 8 else 4) → addrCode s va n = none →
      unitRead s part false .s va n = .ok (l, bad) →
      let ref := pw p 4 + pw p 5 * 2 ^ 32
      let m := (BitVec.ofNat 64 (leNat l) &&& BitVec.ofNat 64 (pw p 6 + pw p 7 * 2 ^ 32)).toNat
      let test := p.flags.toNat % 8
      (bad = none → condition s c p = (s, .ok (if test = 0 then decide (m = ref) else if test = 1 then decide (m ≠ ref) else if test = 2 then decide (ref ≤ m)
        else decide (m < ref)))) ∧
      (∀ a, bad = some a → condition s c p = (s, .error (0x0C, (packVa a).toNat)))) ∧
    (∀ e a, p.flags.toNat % 8 < 4 → (∃ n, n = (if p.flags.getLsbD 3 = true then 8 else 4) ∧ addrCode s va n = none ∧
        unitRead s part false .s va n = .error (e, a)) →
      condition s c p = (s, .error (if e = .ecc then 0x0C else 7, (packVa a).toNat))) ∧
    (p.flags.toNat % 8 = 4 →
      let h := BitVec.ofNat 32 (pw p 1)
      (handleDev h = s.devNum.toNat → handleCls h < 4 → evtNamed (s.part part) (handleIdx h) = false → condition s c p = (s, .error (9, 0x80000001))) ∧
      (evtNamed (s.part part) (handleIdx h) = true → ∀ s1 z, signalEvent s part 2 h 0 = (s1, z) →
        condition s c p = (s1, if z.getLsbD 31 = true then .error (9, z.toNat) else .ok (z == 0)))) ∧
    (∀ z, y.wait = .cond z → y.packet = some p →
      ((∀ u, z = some u → s.time < u) → ∀ s1 r, condition s q p = (s1, r) → ∃ t, exec (.waitReevaluate q) s = .next t ∧ (∀ e, r = .error e → t = queueError s1 q e.1 e.2) ∧
        (r = .ok true → t = completeAt s1 q (curPos (s1.queue q) + size)) ∧ (r = .ok false → t = s1)) ∧
      (∀ u, z = some u → (u ≤ s.time → exec (.waitTimeout q) s = .next (queueError s q 0x0A 0) ∧
          exec (.waitReevaluate q) s = .next (queueError s q 0x0A 0)) ∧ (s.time < u → exec (.waitTimeout q) s = .next s)) ∧
      (z = none → exec (.waitTimeout q) s = .next s)) ∧
    ((∀ z, y.wait ≠ .cond z) → exec (.waitReevaluate q) s = .next s ∧ exec (.waitTimeout q) s = .next s) ∧
    (∀ ns temp cur u, ((elapse s ns temp cur).queue q).stop = false → ((elapse s ns temp cur).queue q).wait = .cond (some u) →
      (elapse s ns temp cur).time < u) ∧
    runs (.loop p) (fun t =>
      let start := curPos x + 3
      let far := if levelOf x = 0 then 2 ^ x.logw.toNat < start % 2 ^ x.logw.toNat + pw p 2 else curLen x < start + pw p 2
      ((curLoop x).isSome = true → fails s 5 0 t) ∧ ((curLoop x).isSome = false → far → fails s (if levelOf x = 0 then 3 else 4) 0 t) ∧
      ((curLoop x).isSome = false → ¬ far → level (fun l => { l with loop := some (start % 2 ^ 64, (start + pw p 2) % 2 ^ 64, pw p 1) }) t)) ∧
    runs (.ffence p) (fun t =>
      let ran := ∀ z ∈ (s.part part).streams, z.queue = c → z.ended = true ∧ ∀ o ∈ z.ops, o.complete = true
      (p.flags.getLsbD 0 = true → ¬ ran → waits s .drain t) ∧
      (p.flags.getLsbD 0 = false ∨ ran → ∃ s0, one s s0 c { x with ahead := [] } ∧ passes s0 t)) ∧
    runs (.packetWrite p) (fun t => (x.rights.getLsbD 2 = false → fails s 8 0 t) ∧
      (x.rights.getLsbD 2 = true → (∀ e, addrCode s va 4 = some e → fails s e (packVa va).toNat t) ∧
        (addrCode s va 4 = none → ∀ s1 r, unitWrite s part false .s va ((p.payload.drop 3).flatMap fun z => leBytes 4 z.toNat) = (s1, r) →
          (r = none → passes s1 t) ∧ ∀ e a, r = some (e, a) → fails s (if e = .ecc then 0x0C else 7) (packVa a).toNat t))) ∧
    runs (.packetEvsig p) (fun t => (x.rights.getLsbD 2 = false → fails s 8 0 t) ∧ (x.rights.getLsbD 2 = true → ∀ s1 r,
      signalEvent s part (p.flags.toNat % 2) (BitVec.ofNat 32 (pw p 1)) (BitVec.ofNat 32 (pw p 2)) = (s1, r) →
        (r = 0 → passes s1 t) ∧ (r ≠ 0 → fails s1 9 r.toNat t))) ∧
    runs (.runops p) (fun t => (x.rights.getLsbD 1 = false → fails s 8 0 t) ∧ (x.rights.getLsbD 1 = true →
      (∀ e, addrCode s va 16 = some e → fails s e (packVa va).toNat t) ∧
      (addrCode s va 16 = none →
        let o := { s.part part with streams := (s.part part).streams.filter fun z => !(z.ended && z.ops.all (·.complete) && z.error == 0) }
        ∃ s0, OnePart s s0 part o ∧
          (8 ≤ (o.streams.filter (fun z => !z.ended)).length → waits s0 .slot t) ∧
          ((o.streams.filter (fun z => !z.ended)).length < 8 → ∃ s1, OnePart s0 s1 part { o with
              streams := o.streams ++ [⟨o.nextStream, c, headerPos s x, levelOf x, p.flags.getLsbD 0, [⟨va, pw p 4, 0⟩], 0, none, [], none, [], false, 0⟩],
              nextStream := o.nextStream + 1 } ∧
            (p.flags.getLsbD 0 = true → waits s1 (.stream o.nextStream) t) ∧ (p.flags.getLsbD 0 = false → passes s1 t))))) ∧
    (∀ id, y.wait = .stream id → y.packet = some p → ∃ t, exec (.runopsComplete q) s = .next t ∧
      (∀ z, findStream s y.owner.toNat id = some z →
        (z.error ≠ 0 → y.stop = false → (t.queue q).stop = true ∧ (t.queue q).code = z.error ∧ (t.queue q).epos = z.qpos) ∧
        (z.error = 0 → z.ended = true → (∀ o ∈ z.ops, o.complete = true) → t = completeAt (pruneStreams s y.owner.toNat) q (curPos y + size)) ∧
        (z.error = 0 → z.ended = false ∨ (∃ o ∈ z.ops, o.complete = false) → t = s))) ∧
    runs (.report p) (fun t => (ringFull s x.evr.toNat = true → waits s .report t) ∧ (ringFull s x.evr.toNat = false →
      passes (ringWrite s x.evr.toNat 2 c 0 (levelOf x) (headerPos s x).toNat (pw p 1)) t))

/-- R236 to R240, R248, R251, R303, R304 (Tables 2, 10): a wake with a true coin moves QWPTR, another is counted with its reason; QCTL starts, stops
and restarts a queue, HALT at its next boundary even where it runs only later; periods renew budgets, and a thread that has spent its own overruns, before anything
renews it; in the turn of a queue its packet takes an issue slot where its processor picks the thread, and is carried out in its last. The model's
choice: the issue slots that a packet takes are free, it is carried out in the last, and the round begins with thread 0 (log 21); how long RUN and
HALT read as set (log 53); that QEPOS is cleared with QERR (log 49). -/
def Obligations.QueuesAreWokenControlledAndMetered : Prop :=
  ∀ (s : State) (q : Nat) (v : Dword) (w : WakeMsg),
    let y := s.queue q
    let one := fun (s t : State) (q : Nat) (z : Queue) => t = { s with queues := t.queues } ∧ t.queue q = z ∧ ∀ j, j ≠ q → t.queue j = s.queue j
    -- QCTL
    (let nonce : BitVec 48 := v.extractLsb' 0 48
     let sets := fun (i : Instr) (z : Queue) => ∃ t, exec i s = .next t ∧ t.queue q = z ∧ ∀ j, j ≠ q → t.queue j = s.queue j
     let quiet := v.getLsbD 60 = false
     let ran := y.run || v.getLsbD 61
     -- an overrun that is still to be noted comes first (13 R304)
     let due := s.edf = true ∧ (y.en = true ∨ y.closing = true) ∧ y.stop = false ∧ y.period ≠ 0 ∧ y.throt = false ∧ y.budget.toNat * 256 ≤ y.used
     let past := fun (z : Queue) => (due → z.ovrf = true) ∧ (¬ due → z.ovrf = y.ovrf ∧ z.throt = y.throt)
     (v.getLsbD 63 = true → y.en = false → quiet → ¬ due → sets (.queueEnable q v) { y with
       nonce := nonce, owner := v.extractLsb' 48 6, evr := v.extractLsb' 57 3, en := true, closing := false, stop := false,
       run := v.getLsbD 61, rptr := 0, wptr := 0, code := 0, level := 0, lost := false, epos := 0, used := 0, slots := none, levels := [ringLevel],
       ahead := [], wait := .none, packet := none, badWptr := none, throt := false, rights := 0, periodStart := s.time, periodIdx := 0 }) ∧
     (v.getLsbD 63 = false → y.en = true → y.wait ≠ .drain → ∃ b o, sets (.queueDisable q v) { y with
       nonce := nonce, run := ran, en := false, closing := false, haltReq := v.getLsbD 60, slots := none, wait := .none, packet := none, levels := [],
       ahead := [], badWptr := none, throt := b, ovrf := o } ∧ past { y with throt := b, ovrf := o }) ∧
     (v.getLsbD 63 = false → y.en = true → y.wait = .drain → sets (.queueDisable q v) { y with
       nonce := nonce, run := ran, en := false, closing := true, haltReq := y.haltReq || v.getLsbD 60 }) ∧
     (v.getLsbD 63 = true → v.getLsbD 61 = true → quiet → y.en = true → y.stop = true → sets (.queueRun q v) { y with
       nonce := nonce, code := 0, level := 0, lost := false, epos := 0, stop := false, run := true, slots := none, levels := [ringLevel], ahead := [],
       wait := .none, packet := none, badWptr := none }) ∧
     (v.getLsbD 63 = true → v.getLsbD 60 = true → y.en = true → y.closing = false → y.stop = false → y.badWptr = none →
       sets (.queueHalt q v) (if y.wait = .drain then { y with nonce := nonce, run := ran, haltReq := true } else
         { y with nonce := nonce, haltReq := false, stop := true, run := false, slots := none, wait := .none, packet := none })) ∧
     -- HALT of a queue that is disabled or stopped is kept until it runs
     (v.getLsbD 60 = true → v.getLsbD 61 = false → v.getLsbD 63 = y.en → y.closing = false → y.en = false ∨ y.stop = true →
       sets (.queueHalt q v) { y with
         nonce := nonce, owner := if y.en = true then y.owner else v.extractLsb' 48 6, evr := if y.en = true then y.evr else v.extractLsb' 57 3,
         haltReq := true }) ∧
     (y.haltReq = true → y.en = true → y.stop = false → y.closing = false → y.badWptr = none → y.wait ≠ .drain → ∃ t, boundary s q = some t ∧
       one s t q { y with haltReq := false, stop := true, run := false, slots := none, wait := .none, packet := none }) ∧
     (v.getLsbD 63 = false ∨ y.en = true → exec (.queueEnable q v) s = .next s) ∧ (v.getLsbD 63 = true ∨ y.en = false → exec (.queueDisable q v) s = .next s) ∧
     (v.getLsbD 61 = false ∨ y.stop = false → exec (.queueRun q v) s = .next s) ∧ (quiet → exec (.queueHalt q v) s = .next s)) ∧
    -- wakes
    (let z := s.queue w.q
     let l := w.data
     let form := w.whole = true ∧ l.length = 64 ∧ (∀ b ∈ l.drop 40, b = 0#8) ∧ byteAt l 8 < 8 ∧ byteAt l 9 < 64 ∧ byteAt l 10 < 128 ∧ byteAt l 11 = 0 ∧
       leField l 18 6 = 0
     let sealed := leField l 24 8 = (sealOf s (l.take 24)).toNat
     let coin := z.en = true ∧ byteAt l 10 = w.q ∧ leField l 0 8 = (qbaseOf z).toNat ∧ byteAt l 9 = z.owner.toNat ∧ leField l 12 6 = z.nonce.toNat
     let wptr := BitVec.ofNat 64 (leField l 32 8)
     let ahead := (wptr - z.wptr).toNat
     let rejects := fun (n : BitVec 4) => ∃ t, exec (.wake w) s = .next t ∧
       one s t w.q { z with why := n, rejCount := BitVec.ofNat 32 (min (z.rejCount.toNat + 1) (2 ^ 32 - 1)) }
     (¬ form → rejects 1) ∧ (form → ¬ sealed → rejects 2) ∧ (form → sealed → ¬ coin → rejects 3) ∧
     (form → sealed → coin → byteAt l 8 % 2 = 0 → rejects 4) ∧
     (form → sealed → coin → byteAt l 8 % 2 = 1 → (wptr - z.rptr).toNat ≤ 2 ^ z.logw.toNat → ∃ t, exec (.wake w) s = .next t ∧
       one s t w.q { z with rights := BitVec.ofNat 8 (byteAt l 8), wptr := if 1 ≤ ahead ∧ ahead < 2 ^ 63 then wptr else z.wptr }) ∧
     (form → sealed → coin → byteAt l 8 % 2 = 1 → 2 ^ z.logw.toNat < (wptr - z.rptr).toNat → z.stop = true → exec (.wake w) s = .next s) ∧
     (form → sealed → coin → byteAt l 8 % 2 = 1 → 2 ^ z.logw.toNat < (wptr - z.rptr).toNat → z.stop = false → z.badWptr = none → z.wait ≠ .drain →
       z.closing = false →
       ∃ t, exec (.wake w) s = .next t ∧ (t.queue w.q).stop = true ∧ (t.queue w.q).code = 0x0B ∧ (t.queue w.q).epos = z.rptr)) ∧
    -- periods
    (let live := y.en = true ∨ y.closing = true
     let due := s.edf = true ∧ live ∧ y.period ≠ 0 ∧ y.periodStart + y.period.toNat * 1000 ≤ s.time
     let may := s.edf = true ∧ live ∧ y.stop = false ∧ y.period ≠ 0 ∧ y.throt = false ∧ y.budget.toNat * 256 ≤ y.used
     let overruns := fun (t : State) => ∃ s1, one s s1 q { y with throt := true, ovrf := true } ∧
       t = ringWrite s1 y.evr.toNat 3 q 0x14 0 y.rptr.toNat y.periodIdx
     (due → ∃ t s0, exec (.qpPeriodStart q) s = .next t ∧ (may → overruns s0) ∧ (¬ may → s0 = s) ∧
       one s0 t q { s0.queue q with
         periodStart := (s0.queue q).periodStart + (s0.queue q).period.toNat * 1000, periodIdx := (s0.queue q).periodIdx + 1, used := 0, throt := false }) ∧
     (¬ due → exec (.qpPeriodStart q) s = .next s) ∧
     (may → ∃ t, exec (.qpOverrun q) s = .next t ∧ overruns t) ∧
     (¬ may → exec (.qpOverrun q) s = .next s)) ∧
    -- which thread a queue processor may pick
    (let left := fun (x : Queue) => x.throt = false ∧ x.used < x.budget.toNat * 256
     let ends := fun (x : Queue) => x.periodStart + x.period.toNat * 1000
     let rival := fun (e : Nat × Queue) => e ∈ s.queues ∧ e.1 / 32 = q / 32 ∧ e.1 ≠ q ∧ threadReady s e.1 = true
     let timed := fun (e : Nat × Queue) => e.2.period ≠ 0 ∧ left e.2
     -- a processor goes round its threads, from the one after that it served last
     let place := fun (k : Nat) => (k % 32 + 63 - (tabGet s.qserved (q / 32)).getD 31) % 32
     (s.edf = false → (mayPick s q = true ↔ ∀ e, rival e → place q < place e.1)) ∧
     (s.edf = true → y.period = 0 → (mayPick s q = true ↔ ∀ e, rival e → ¬ timed e ∧ (e.2.period = 0 → place q < place e.1))) ∧
     (s.edf = true → y.period ≠ 0 →
       (mayPick s q = true ↔ left y ∧ ∀ e, rival e → timed e → ends y < ends e.2 ∨ (ends y = ends e.2 ∧ q < e.1)))) ∧
    -- the turn of a queue
    (∀ r, s.inReset = false → (∀ x, s.group? s.cur = some x → ¬ (x.preStart.isSome = true ∧ x.wait = .none ∧ x.idle = false)) → s.agenda = .queue q :: r →
      let u0 := { s with agenda := r, turns := s.turns + 1 }
      let on := y.closing = true ∨ (y.en = true ∧ y.stop = false)
      -- RUN no longer reads as set
      let u := { u0 with queues := tabSet s.queues q { y with run := false } }
      let w := { u with curQueue := q, fresh := s.fresh + 1 }
      let ended := fun (k : Nat) => ∃ x, (k, x) ∈ u.queues ∧ k / 32 = q / 32 ∧ s.edf = true ∧ (x.en = true ∨ x.closing = true) ∧ x.period ≠ 0 ∧
        x.periodStart + x.period.toNat * 1000 ≤ s.time
      let goes := boundary u q = none ∧ on ∧ (∀ z, y.wait ≠ .cond z)
      let n := y.slots.getD (Config.packetSlots s.fresh)
      let slot := { w with
        queues := tabSet u.queues q { y with run := false, used := y.used + 1, slots := if n = 0 then none else some (n - 1) },
        qserved := if s.edf = false ∨ y.period = 0 then tabSet s.qserved (q / 32) (q % 32) else s.qserved }
      (y.closing = true → y.wait ≠ .drain → ∃ t, step s = .next t ∧ let z := t.queue q
        z = { y with
          run := false, en := false, closing := false, haltReq := false, slots := none, wait := .none, packet := none, levels := [], ahead := [],
          badWptr := none, throt := z.throt, ovrf := z.ovrf }) ∧
      (¬ on → step s = .next u0) ∧ (on → ∀ t, boundary u q = some t → step s = .next t) ∧
      (∀ z, boundary u q = none → on → y.wait = .cond z →
        step s = exec (if z.any (fun n => decide (n ≤ s.time)) = true then .waitTimeout q else .waitReevaluate q) w) ∧
      (goes → (∃ k, ended k) → ∃ k, ended k ∧ step s = exec (.qpPeriodStart k) u) ∧
      (goes → (∀ k, ¬ ended k) → ¬ (threadReady u q = true ∧ mayPick u q = true) → step s = .next u) ∧
      (goes → (∀ k, ¬ ended k) → threadReady u q = true → mayPick u q = true → ∃ taken, exec (.qpOverrun q) slot = .next taken ∧
        (n ≠ 0 → step s = .next taken) ∧
        (n = 0 → y.wait = .none → (∀ p, fetchPacket taken q = some (.ok p) → step s = exec (decodePacket p) taken) ∧
          ∀ c v, fetchPacket taken q = some (.error (c, v)) → step s = .next (queueError taken q c v)) ∧
        (n = 0 → ∀ p, y.packet = some p → y.wait = .slot ∨ y.wait = .drain ∨ y.wait = .report → step s = exec (decodePacket p) taken) ∧
        (n = 0 → ∀ id, y.wait = .stream id → step s = exec (.runopsComplete q) taken)))

/-- R290 to R293, R296, R297 (Tables 8, 10, 11): halts and resumes at exact boundaries; CTXOP saves, restores and drops teams. Whether a stop falls
in the clock of an instruction, which then issues first, is free (log 3). That RESUME reads as set until the group halts again is log 53. That a
SAVE of the caller's own team answers BAD and of a draining team BUSY, that a restore of a paired team to an odd core answers BAD, and that a save
whose write fails leaves the team stopped, are readings (log 40). -/
def Obligations.StopsSavesAndRestoresAreExact : Prop :=
  ∀ (s : State) (g : Group) (tm : Team) (v : Dword) (key n : Nat),
    let c := (v.extractLsb' 49 8).toNat
    let m := (v.extractLsb' 57 5).toNat
    let area := (v.extractLsb' 6 42).toNat * 64
    let own := fun (s0 t : State) (code : BitVec 3) => OnePart s0 t g.part { s0.part g.part with ctxStatus := code }
    let groupsOnly := fun (s0 t : State) (l : List GroupId) => t = { s0 with groups := t.groups } ∧ ∀ id, id ∉ l → t.group? id = s0.group? id
    let stops := fun (s0 : State) (x : Team) (park : Bool) => x.groups.foldl (fun s id => hardStop s park id) s0
    -- a hard stop: at the boundary at hand, or at the next one while a stop is held (R291)
    (∀ park x, s.group? n = some x →
      let t := hardStop s park n
      let add := fun (g : Group) => { g with parking := g.parking || park, stopping := g.stopping || !park }
      let due := fun (g : Group) => { g with
        parked := g.parked || g.parking || park, stopped := g.stopped || g.stopping || !park, parking := false, stopping := false, raced := false }
      let asked := x.parking = true ∨ x.stopping = true
      let races := x.wait = .none ∧ Config.raceChoice s.fresh = true
      (t = { s with groups := t.groups, vregs := t.vregs, sregs := t.sregs, poison := t.poison, fresh := t.fresh } ∧ (∀ p ∈ t.poison, p ∈ s.poison) ∧
        ∀ id, id ≠ n → t.group? id = s.group? id) ∧
      (x.idle = true → t.group? n = some (due x)) ∧
      (x.idle = false → asked ∨ stopHeld x = true → SameCells s t ∧ t.group? n = some (add x)) ∧
      (x.idle = false → ¬ asked → stopHeld x = false → races → SameCells s t ∧ t.group? n = some { add x with raced := true }) ∧
      (x.idle = false → ¬ asked → stopHeld x = false → ¬ races → ∃ y z, (landAll s n).group? n = some y ∧ y.out = [] ∧ t.group? n = some z ∧
        z = { due y with dbg := { x.dbg with pc := x.epc, done := x.dm }, pc := x.epc, preLit := none, preIx := none, preStart := none, wait := z.wait } ∧
        ((∀ k, x.wait ≠ .continuation k) → z.wait = .none))) ∧
    -- a stop and a park that are due act each for itself, also where a trap is pending by them
    (∀ x, s.group? n = some x →
      let both := fun (t : State) => ∃ z, t.group? n = some z ∧ z.stopping = false ∧ z.parking = false ∧ z.raced = false ∧
        z.parked = (x.parked || x.parking) ∧ z.stopped = (x.stopped || x.stopping)
      both (stopDue s n) ∧ ∀ c val lanes epc, x.stopping = true ∨ x.parking = true → both (takeTrap s n c val lanes epc)) ∧
    -- a save waits for the groups and for every copy that XCP or XCPD has handed in for the team, of a group that has ended too
    (saveReady s tm = true → (∀ id ∈ tm.groups, ∀ x, s.group? id = some x → x.idle = true) ∧ ∀ e ∈ s.cores, ∀ y : Copy, y.source ≤ 1 →
      y ∈ e.2.copies ∨ y ∈ e.2.resumed ∨ (∃ l ∈ e.2.logWait, l.copy = some y) → y.teamUid ≠ some tm.uid) ∧
    -- DEBUG_HALT, DEBUG_RESUME
    (s.group? n = none → exec (.debugHalt n) s = .next s ∧ exec (.debugResume n) s = .next s) ∧
    (∀ x, s.group? n = some x →
      let due := x.dbg.haltReq = true ∨ (x.dbg.single = true ∧ x.dbg.armed = true ∧ x.wait = .none ∧ x.preStart = none)
      let held := { x.dbg with halted := true, haltReq := false, resume := false, armed := false }
      let free := { x.dbg with halted := false, resume := true, armed := false }
      (¬ due → exec (.debugHalt n) s = .next s) ∧
      (due → x.idle = true → ∃ t, exec (.debugHalt n) s = .next t ∧ groupsOnly s t [n] ∧ t.group? n = some { x with dbg := held }) ∧
      (due → x.idle = false → stopHeld x = true → exec (.debugHalt n) s = .next s) ∧
      (due → x.idle = false → stopHeld x = false → x.out = [] → ∃ t z, exec (.debugHalt n) s = .next t ∧ groupsOnly s t [n] ∧ t.group? n = some z ∧
        z = { x with dbg := { held with pc := x.epc, done := x.dm }, pc := x.epc, preLit := none, preIx := none, preStart := none, wait := z.wait } ∧
        ((∀ k, x.wait ≠ .continuation k) → z.wait = .none)) ∧
      (x.dbg.halted = false ∨ x.wedged = true → ∃ t, exec (.debugResume n) s = .next t ∧ groupsOnly s t [n] ∧
        t.group? n = some { x with dbg := { x.dbg with resume := true } }) ∧
      (x.dbg.halted = true → x.wedged = false → x.parked = true ∨ x.stopped = true → ∃ t, exec (.debugResume n) s = .next t ∧ groupsOnly s t [n] ∧
        t.group? n = some { x with dbg := free }) ∧
      (x.dbg.halted = true → x.wedged = false → x.parked = false → x.stopped = false → x.dbg.pendV = false →
        ∃ t z, exec (.debugResume n) s = .next t ∧ groupsOnly s t [n] ∧ t.group? n = some z ∧
          z = { x with dbg := free, pc := x.dbg.pc, dm := x.dbg.done, wait := z.wait, readySince := z.readySince }) ∧
      (x.dbg.halted = true → x.wedged = false → x.parked = false → x.stopped = false → x.dbg.pendV = true → ∃ y, exec (.debugResume n) s =
        .next (takeTrap (s.setGroup n y) n (causeOf x.dbg.pendCause) x.dbg.pendEval x.dbg.pendTlm x.dbg.pc) ∧
        y = { x with dbg := { free with pendV := false, armed := x.dbg.single }, pc := x.dbg.pc, dm := x.dbg.done, wait := .none })) ∧
    -- CTXOP save
    (s.group? s.cur = some g → g.mode = .h →
      (teamOn s c m = none → ∃ t, exec (.ctxopSave v) s = .next t ∧ own s t 1) ∧
      (teamOn s c m = some key → s.team? key = some tm →
        let keep := v.getLsbD 48
        let s1 := stops s tm false
        let hard := !tm.groups.all fun id => !((s1.group? id).map (·.job)).getD false
        -- the matrix engine completes its current step first (08 R186)
        let e1 := stopEngine s1 tm
        let im := imageOf e1 tm area hard (if keep = true then some tm.core else none)
        let sameArea := fun (x : Image) => x.area == area && x.part == tm.part
        (tm.part ≠ g.part ∨ key = g.team → ∃ t, exec (.ctxopSave v) s = .next t ∧ own s t 1) ∧
        (tm.part = g.part → key ≠ g.team → tm.drain.isSome = true → ∃ t, exec (.ctxopSave v) s = .next t ∧ own s t 4) ∧
        (tm.part = g.part → key ≠ g.team → tm.drain = none →
          (saveReady s1 tm = false → exec (.ctxopSave v) s = .next s1) ∧
          (saveReady s1 tm = true → ∀ s2 e, unitWrite e1 tm.part false .h (mkVa s.devNum.toNat 0 area) (imageBytes e1 im) = (s2, e) →
            (e.isSome = true → ∃ t, exec (.ctxopSave v) s = .next t ∧ OneTeam s1 { t with parts := s1.parts } key { tm with stopped := true } ∧
              (t.part g.part).ctxStatus = 5) ∧
            (e = none → ∃ t, exec (.ctxopSave v) s = .next t ∧ (t.part g.part).ctxStatus = 0 ∧
              (∀ id, t.group? id = if id ∈ tm.groups then none else s2.group? id) ∧ (∀ k, t.team? k = if k = key then none else s2.team? k) ∧
              t.images = s2.images.filter (fun x => !sameArea x) ++ [im] ∧
              t.reserves = s2.reserves.filter (fun r => r.uid != tm.uid && !((s2.images.filter sameArea).map (·.team.uid)).contains r.uid) ++
                (if keep = true then reserveHere s1 tm (some tm.num) else []) ∧
              (tm.groups.any isSeq = true → (t.cluster (tm.core / 2)).queue = []) ∧
              (im.live = true ∧ im.hard = hard ∧ im.part = tm.part ∧ im.team.num = tm.num ∧ im.team.uid = tm.uid) ∧
              ∀ id x, id ∈ tm.groups → e1.group? id = some x → (x.gid, savedGroup x) ∈ im.groups ∧ (x.gid, savedRegs e1 id x) ∈ im.regs))))) ∧
    -- the room that a reservation keeps where a team stands
    (∀ w, ∀ r ∈ reserveHere s tm w, r.uid = tm.uid ∧ r.num = w ∧ r.sbase = tm.sbase.toNat ∧ r.ssize = tm.ssize.toNat ∧
      (r.core = tm.core ∨ (tm.paired = true ∧ r.core = tm.core + 1)) ∧
      ∀ id ∈ tm.groups, ∀ x, s.group? id = some x → isSeq id = false → coreOf id = r.core → slotOf id ∈ r.slots ∧ (x.rbase.toNat, x.rsize.toNat) ∈ r.regs) ∧
    -- what an image holds of registers, and the header that it has in memory
    (∀ (id id' : GroupId) (x x' : Group) (r l : Nat), isSeq id = isSeq id' → x'.rsize = x.rsize → r < 32 * x.rsize.toNat → l < 64 →
      let room := if isSeq id = true then 512 else 2048
      32 * (x.rbase.toNat + x.rsize.toNat) ≤ room → 32 * (x'.rbase.toNat + x'.rsize.toNat) ≤ room →
      cellGet (putRegs s id' x' (savedRegs s id x)) (regCell id' x' r l) = cellGet s (regCell id x r l)) ∧
    (∀ im : Image, let l := imageBytes s im
      l.length % 64 = 0 ∧ 0 < l.length ∧ leField l 0 8 = l.length ∧ byteAt l 8 = 1 ∧
      byteAt l 9 = (if im.hard = true then 1 else 0) + (if im.rcore.isSome = true then 2 else 0) + (if im.team.paired = true then 4 else 0) ∧
      byteAt l 10 = im.groups.length % 256 ∧ byteAt l 11 = im.team.num % 256 ∧ byteAt l 12 = im.team.core % 256 ∧ byteAt l 13 = im.part % 256 ∧
      leField l 14 2 = im.rcore.getD 0xFFFF % 65536 ∧ leField l 16 8 = s.time % 2 ^ 64 ∧ leField l 24 8 = 0) ∧
    -- CTXOP restore and drop
    (s.group? s.cur = some g → g.mode = .h →
      let code := fun (k : BitVec 3) => ∃ t, exec (.ctxopRestore v) s = .next t ∧ own s t k
      let dropped := fun (k : BitVec 3) => ∃ t, exec (.ctxopDrop v) s = .next t ∧ own s t k
      let image := s.images.find? fun x => x.area == area && x.part == g.part && x.live
      (readHeader s g.part area = none → readImage s g.part area = none ∧ dropped 5) ∧ (readImage s g.part area = none → code 5) ∧
      -- a restore reads the whole of a live image, a drop its header
      (∀ kind p k, readHeader s g.part area = some (kind, p, k) →
        let whole := ∀ e ∈ piecesOf (mkVa s.devNum.toNat 0 area) (min k (2 ^ 22)), ∃ y, readPiece s g.part false .h e.1 1 = .ok y
        (kind = 1 → p = g.part → ¬ whole → readImage s g.part area = none) ∧
        (kind ≠ 1 ∨ p ≠ g.part ∨ whole → readImage s g.part area = some (kind, p)) ∧
        (kind ≠ 1 ∨ p ≠ g.part ∨ image = none → dropped 1) ∧
        ∀ im, kind = 1 → p = g.part → image = some im → (consumeImage s g.part area = none → dropped 5) ∧
          ∀ s1, consumeImage s g.part area = some s1 → ∃ t, exec (.ctxopDrop v) s = .next t ∧ (t.part g.part).ctxStatus = 0 ∧
            t.reserves = s1.reserves.filter (fun r => r.uid != im.team.uid) ∧
            t.images.map (fun x => (x.area, x.part, x.team)) =
              (s1.images.filter (fun x => !(x.area == area && x.part == g.part))).map (fun x => (x.area, x.part, x.team)) ∧
            ((∀ e ∈ im.groups, ∀ b, 16 ≤ b → b < 28 → memberOf im.team e.2 b = false) →
              t.images = s1.images.filter fun x => !(x.area == area && x.part == g.part))) ∧
      (∀ kind p, readImage s g.part area = some (kind, p) → (kind ≠ 1 ∨ p ≠ g.part ∨ image = none → code 1) ∧
        ∀ im, kind = 1 → p = g.part → image = some im →
          let cores := if im.team.paired = true then [c, c + 1] else [c]
          let seq := ∃ e ∈ im.groups, e.2.role = .matrix
          let free := fun (k : Nat) => k < 256 ∧ coreHeld s k g.part = true ∧ coreVacated s k g.part = false
          let odd := im.team.paired = true ∧ c % 2 = 1
          -- the number is that of a live team, or withheld by another save with KEEP (13 R296)
          let taken := fun (k : Nat) => (teamOn s k m).isSome = true ∨ ∃ r ∈ s.reserves, r.core = k ∧ r.num = some m ∧ r.uid ≠ im.team.uid
          let held := (∀ k ∈ cores, free k) ∧ (seq → free (c / 2 * 2))
          (odd → code 1) ∧ (¬ odd → ¬ held → code 2) ∧ (¬ odd → held → (∃ k ∈ cores, taken k) → code 4) ∧
          (¬ odd → held → (∀ k ∈ cores, ¬ taken k) → (restoreRoom s im c = none → code 3) ∧
            ∀ spots sb, restoreRoom s im c = some (spots, sb) → (consumeImage s g.part area = none → code 5) ∧
              ∀ s1, consumeImage s g.part area = some s1 → ∃ t y, exec (.ctxopRestore v) s = .next t ∧ (t.part g.part).ctxStatus = 0 ∧
                t.team? (c * 32 + m) = some y ∧ y = { im.team with
                  core := c, num := m, sbase := BitVec.ofNat 7 sb, groups := spots.map (·.id), parked := slotElse s cores im.part } ∧
                (∀ k, k ≠ c * 32 + m → t.team? k = s1.team? k) ∧
                t.images.map (fun x => (x.area, x.part, x.team)) =
                  (s1.images.filter fun x => !(x.area == im.area && x.part == im.part)).map (fun x => (x.area, x.part, x.team)) ∧
                t.reserves = s1.reserves.filter (fun r => r.uid != im.team.uid) ∧
                ∀ sp k x, spots = [sp] → im.groups = [(k, x)] → x.dbg.halted = false → x.wedged = false → x.dbg.pendV = false →
                  slotElse s cores im.part = false → (∀ e ∈ s.groups, e.2.team ≠ c * 32 + m) → ∃ z, t.group? sp.id = some z ∧ z = { x with
                    team := c * 32 + m, rbase := BitVec.ofNat 6 sp.rbase, parked := false, stopped := false, pc := x.dbg.pc, dm := x.dbg.done,
                    wait := z.wait, readySince := z.readySince, arr := z.arr, pass := z.pass } ∧
                  -- the barriers of the new cluster are evaluated with the team among their members (12 R275, R277), the others are as they were
                  (∀ b, b < 16 ∨ 24 ≤ b → z.arr.getLsbD b = x.arr.getLsbD b ∧ z.pass.getLsbD b = x.pass.getLsbD b) ∧
                  ∀ b, 16 ≤ b → b < 24 → memberOf im.team x b = true → x.arr.getLsbD b = true → (∀ e ∈ s1.groups, isMember s1 e.2 b (c / 2) = false) →
                    (∀ i ∈ s1.images, ∀ e ∈ i.groups, i.area = im.area ∧ i.part = im.part ∨ imageMember i e.2 b (c / 2) = false) →
                    z.pass.getLsbD b = true ∧ z.arr.getLsbD b = false)))

/-- R294, R295, R298 to R302 (Tables 15, 17): slots change hands and teams park; a vacate drains the teams on its cores, traps DRAIN at half
the deadline, and saves them, a hard-stopped one into a reservation that it makes at the stop, which is recorded; with the last of them the partition
leaves the cores' slots and VEVT is lowered, in the partition to which its index belongs (the model's reading, log 34). That a slot which comes back
before a team has parked cancels its expiry is a reading (log 41), as is what a vacate whose save fails leaves of the other teams (log 40). -/
def Obligations.SlotsDrainsAndVacatesTakeTheirTeams : Prop :=
  ∀ (s : State) (g : Group) (tm : Team) (v : Dword) (key core num : Nat),
    let stops := fun (s0 : State) (x : Team) (park : Bool) => x.groups.foldl (fun s id => hardStop s park id) s0
    -- SLOT_CHANGE
    (slotHolder s core = none → exec (.slotChange core) s = .next s) ∧
    (∀ q, slotHolder s core = some q → s.teams.filter (fun e => e.1 == key) = [(key, tm)] → ∃ t, exec (.slotChange core) s = .next t ∧
      let on := core = tm.core ∨ (tm.paired = true ∧ core = tm.core + 1)
      let other := slotElse s (if tm.paired = true then [tm.core, tm.core + 1] else [tm.core]) q
      let limit := s.time + (if s.slDrn = 0 then 500 else s.slDrn.toNat) * 1000
      (¬ on → t.team? key = some tm) ∧
      (on → tm.part ≠ q → t.team? key = some (if tm.parked = true ∨ tm.expiry.isSome = true then tm else { tm with expiry := some ⟨s.time, limit, false⟩ })) ∧
      (on → tm.part = q → t.team? key = some (if other = true then tm else { tm with parked := false, expiry := none }) ∧
        (other = false → tm.parked = true → ∀ id ∈ tm.groups, ∀ x, s.group? id = some x → x.parked = true → x.dbg.halted = false → x.stopped = false →
          x.wedged = false → x.dbg.pendV = false → ∃ z, t.group? id = some z ∧ z.parked = false ∧ z.pc = x.dbg.pc ∧ z.dm = x.dbg.done))) ∧
    -- TEAM_PARK, HARD_PARK, and drains
    (teamOn s core num = none → ∀ i ∈ [Instr.teamPark core num, .hardPark core num, .drainHalfDeadline core num, .drainBoundarySave core num,
      .drainDeadline core num], exec i s = .next s) ∧
    (teamOn s core num = some key → s.team? key = some tm →
      let between := tm.groups.all (fun id => !((s.group? id).map (·.job)).getD false) = true
      let parks := fun (i : Instr) => exec i s = .next (stops { s with teams := tabSet s.teams key { tm with parked := true, expiry := none } } tm true)
      (tm.expiry.isSome = true ∧ between → parks (.teamPark core num)) ∧
      (¬ (tm.expiry.isSome = true ∧ between) → exec (.teamPark core num) s = .next s) ∧
      (∀ d, tm.expiry = some d → (d.deadline ≤ s.time → parks (.hardPark core num)) ∧ (s.time < d.deadline → exec (.hardPark core num) s = .next s)) ∧
      (tm.expiry = none → exec (.hardPark core num) s = .next s) ∧
      (tm.drain = none → tm.expiry = none → exec (.drainHalfDeadline core num) s = .next s) ∧
      (∀ d, tm.drain = some d ∨ (tm.drain = none ∧ tm.expiry = some d) →
        let half := d.start + (d.deadline - d.start) / 2
        (d.halfDone = true ∨ s.time < half → exec (.drainHalfDeadline core num) s = .next s) ∧
        (d.halfDone = false → half ≤ s.time → ∃ t, exec (.drainHalfDeadline core num) s = .next t ∧
          t.team? key = some { tm with drain := tm.drain.map (fun x => { x with halfDone := true }), expiry := tm.expiry.map fun x => { x with halfDone := true } } ∧
          (∀ id, id ∉ tm.groups → t.group? id = s.group? id) ∧
          ∀ id ∈ tm.groups, ∀ x, s.group? id = some x →
            let p := s.part x.part
            (¬ (x.mode = .u ∧ x.job = true ∧ x.drained = false ∧ x.idle = false) → t.group? id = some x) ∧
            (x.mode = .u → x.job = true → x.drained = false → x.idle = false → stopHeld x = false → (∀ k, x.wait ≠ .continuation k) →
              x.dbg.haltReq = false → x.stopping = false → x.parking = false → x.st.held = false → p.stvec.getLsbD 0 = true → twbValid p.stwb x.viewS = true →
              ∃ z, t.group? id = some z ∧ z.drained = true ∧ z.mode = .s ∧ z.pc = p.stvec &&& ~~~3#64 ∧ z.em = x.em ∧ z.st.epc = x.epc ∧
                z.dbg.armed = (x.dbg.armed || x.dbg.single) ∧ z.st.cause = 0x15 ∧ z.st.eval = BitVec.ofNat 64 ((d.deadline - s.time) / 1000) ∧ z.st.tlm = x.em ∧ z.st.held = true))) ∧
      (s.vacate = none → exec (.drainBoundarySave core num) s = .next s ∧ exec (.drainDeadline core num) s = .next s) ∧
      ∀ w, s.vacate = some w →
        let vac := fun (x : Team) => x.part = w.part ∧ ∃ k ∈ (if x.paired = true then [x.core, x.core + 1] else [x.core]), w.first ≤ k ∧ k ≤ w.last
        let drains := tm.drain.isSome = true ∧ ∃ x ∈ s.teams, x.1 = key ∧ vac x.2
        let soft := drains ∧ (tm.saving = some false ∨ (tm.saving = none ∧ between))
        let late := drains ∧ (tm.saving = some true ∨ (tm.saving = none ∧ ¬ between ∧ w.deadline ≤ s.time))
        (¬ soft → exec (.drainBoundarySave core num) s = .next s) ∧ (¬ late → exec (.drainDeadline core num) s = .next s) ∧
        ∀ e ∈ [(Instr.drainBoundarySave core num, false), (.drainDeadline core num, true)],
          (if e.2 = true then late else soft) →
          -- the stop, and with a hard one its reservation, come once
          let s0 := stops { s with teams := tabSet s.teams key { tm with saving := some e.2 } } tm false
          ∃ s1, (tm.saving.isSome = true → s1 = s) ∧ (tm.saving = none → e.2 = false → s1 = s0) ∧
            (tm.saving = none → e.2 = true → Recorded
              { s0 with reserves := s0.reserves.filter (fun r => r.uid != tm.uid) ++ hardRoom s0 w tm } s1 7 tm.core) ∧
          let area := w.nextArea
          let room := if e.2 = true then s1.reserves.filter (fun r => r.uid == tm.uid) else []
          let rcore := if e.2 = true then some ((room.head?.map (·.core)).getD tm.core) else none
          (saveReady s1 tm = false → exec e.1 s = .next s1) ∧
          (saveReady s1 tm = true → ∀ s2, (match w.lastArea with
              | none => s2 = s1
              | some a => unitWrite s1 tm.part false .h (mkVa s.devNum.toNat 0 (a + 24)) (leBytes 8 area) = (s2, none)) →
            let e2 := stopEngine s2 tm
            let im := imageOf e2 tm area e.2 rcore
            let sameArea := fun (x : Image) => x.area == area && x.part == tm.part
            ∀ s3 f, unitWrite e2 tm.part false .h (mkVa s.devNum.toNat 0 area) (imageBytes e2 im) = (s3, f) → ∃ t, exec e.1 s = .next t ∧
              (f.isSome = true → t.vacate = none ∧ t.vState = 2 ∧ t.vRes = 3 ∧
                t.team? key = some { tm with stopped := true, drain := none, saving := none } ∧
                ∀ k x, k ≠ key → s.team? k = some x → vac x → t.team? k = some { x with drain := none, saving := none }) ∧
              (f = none → t.team? key = none ∧ (∀ id ∈ tm.groups, t.group? id = none) ∧ im ∈ t.images ∧
                t.reserves = s3.reserves.filter (fun r => r.uid != tm.uid && !((s3.images.filter sameArea).map (·.team.uid)).contains r.uid) ++ room ∧
                t.vSaved = s.vSaved + 1 ∧ t.vHard = (if e.2 = true then s.vHard + 1 else s.vHard) ∧
                ((∃ x ∈ s.teams, x.1 ≠ key ∧ vac x.2) → t.vState = s.vState ∧ t.vacate = some { w with
                  nextArea := area + (imageBytes e2 im).length, lastArea := some area }) ∧
                ((∀ x ∈ s.teams, x.1 ≠ key → ¬ vac x.2) → t.vacate = none ∧ t.vState = 2 ∧
                  ∃ u, t = vacateCheck u ∧ (∀ x ∈ u.teams, ¬ vac x.2) ∧ u.vevt = s.vevt ∧ u.time = s.time ∧
                    u.vacate = some { w with nextArea := area + (imageBytes e2 im).length, lastArea := some area })))) ∧
    -- the completion of a vacate: the partition leaves the cores' slots, and VEVT is lowered
    (∀ w, s.vacate = some w →
      let vac := fun (x : Team) => x.part = w.part ∧ ∃ k ∈ (if x.paired = true then [x.core, x.core + 1] else [x.core]), w.first ≤ k ∧ k ≤ w.last
      ((∃ e ∈ s.teams, vac e.2) → vacateCheck s = s) ∧
      ((∀ e ∈ s.teams, ¬ vac e.2) → ∃ s1 : State, s1 = { s with cores := s1.cores } ∧ (∀ c, c < w.first ∨ w.last < c → s1.core c = s.core c) ∧
        (∀ c, w.first ≤ c → c ≤ w.last → s1.core c = { s.core c with slmap := (s1.core c).slmap } ∧
          ∀ b < 4, let x := (s.core c).slmap.extractLsb' (8 * b) 8
            (s1.core c).slmap.extractLsb' (8 * b) 8 = if x.getLsbD 7 = true ∧ (x.extractLsb' 0 6).toNat = w.part then 0 else x) ∧
        let s2 := { s1 with vacate := none, vState := 2, vElapsed := BitVec.ofNat 16 (min ((s.time - w.start) / 1000) 65535) }
        vacateCheck s = if s.vevt = 0xFFFFFFFF then s2 else unitSignal s2 ((evtPart s2 (s.vevt.extractLsb' 3 16).toNat).getD w.part) s.vevt)) ∧
    -- the room of a hard-stopped team: on the core that the vacate names where the team fits there, else where it stands
    (∀ w : Vacate,
      let gs := tm.groups.filterMap fun id => (s.group? id).map fun x => (x.gid, x)
      let seq := ∃ e ∈ gs, e.2.role = .matrix
      let usable := w.rcore < 256 ∧ ¬ (tm.paired = true ∧ w.rcore % 2 = 1) ∧
        (∀ k ∈ (if tm.paired = true then [w.rcore, w.rcore + 1] else [w.rcore]), coreFree s k tm.part = true) ∧
        (seq → coreFree s (w.rcore / 2 * 2) tm.part = true)
      (¬ usable ∨ findRoom s w.rcore tm gs none = none → hardRoom s w tm = reserveHere s tm none) ∧
      (∀ spots sb, usable → findRoom s w.rcore tm gs none = some (spots, sb) → ∀ r ∈ hardRoom s w tm, r.uid = tm.uid ∧ r.sbase = sb ∧
        r.ssize = tm.ssize.toNat ∧ (r.core = w.rcore ∨ (tm.paired = true ∧ r.core = w.rcore + 1)))) ∧
    -- VACATE
    (s.group? s.cur = some g → g.mode = .h →
      let part := (v.extractLsb' 56 6).toNat
      let first := (v.extractLsb' 48 8).toNat
      let last := first + (v.extractLsb' 40 8).toNat
      let rcore := (v.extractLsb' 31 9).toNat
      let us := if v.extractLsb' 0 16 = 0#16 then 500 else (v.extractLsb' 0 16).toNat
      let op := v.extractLsb' 62 2 = 2#2
      let good := (∀ k, first ≤ k → k ≤ last → k < 256 ∧ coreHeld s k part = true) ∧ ¬ (first ≤ rcore ∧ rcore ≤ last)
      let vac := fun (x : Team) => x.part = part ∧ ∃ k ∈ (if x.paired = true then [x.core, x.core + 1] else [x.core]), first ≤ k ∧ k ≤ last
      (¬ op → exec (.vacate v) s = .next s) ∧
      (op → ¬ good → exec (.vacate v) s = .next { s with vRes := 1 }) ∧
      (op → good → s.vState = 1 → exec (.vacate v) s = .next { s with vRes := 2 }) ∧
      (op → good → s.vState ≠ 1 → ∃ t, exec (.vacate v) s = .next t ∧ t.vRes = 0 ∧ t.vHard = 0 ∧ t.vSaved = 0 ∧
        (∀ k x, s.team? k = some x → vac x → t.vState = 1 ∧
          t.vacate = some ⟨part, first, last, rcore, s.time, s.time + us * 1000, s.varea.toNat, none⟩ ∧
          t.team? k = some { x with drain := some ⟨s.time, s.time + us * 1000, false⟩ }) ∧
        (∀ k, (∀ e ∈ s.teams, e.1 = k → ¬ vac e.2) → t.team? k = s.team? k) ∧
        ((∀ e ∈ s.teams, ¬ vac e.2) → t.vacate = none ∧ t.vState = 2 ∧ ∀ k, first ≤ k → k ≤ last → coreHeld t k part = false)))

/-- R316 to R319 (Tables 9 to 13): PUBL checks a staging buffer and writes it with its record into the window, or answers why it does not; PUBWIN and
PUBNEXT move the window; CCAST hands an object to peers, a peer checks and takes it, and the answers are counted. That an entry or an object that
cannot be used refuses a CCAST, that a peer which cannot be reached counts in NBAD, that a record whose LEN differs from the code's counts in
BADH, and that a multicast is sent in one step, are readings (log 42). -/
def Obligations.PublishingWritesCheckedObjects : Prop :=
  ∀ (s : State) (g : Group) (d a b : BitVec 7) (v : Dword) (m : CastMsg) (peer part : Nat) (answer : BitVec 8),
    let p := s.part g.part
    let src := (storeGet g.s (a.toNat - 96)).toNat
    let n := (storeGet g.s (b.toNat - 96)).toNat
    let off := p.pubNext.toNat * 256
    let whole := fun (k : Nat) => (64 + k + 255) / 256 * 256
    let header := fun (hash : List Byte) (len sdev seq : Nat) => hash ++ leBytes 4 len ++ leBytes 2 sdev ++ leBytes 2 0 ++ leBytes 8 seq ++ leBytes 8 0
    let record := fun (hash : List Byte) (len sdev seq : Nat) => header hash len sdev seq ++ leBytes 8 (sealOf s (header hash len sdev seq)).toNat
    -- one page of the window: where an allocation of len bytes at an offset lies
    let page := fun (part : Nat) (mode : Mode) (base len : Nat) (q : Phys) => base % 65536 + len ≤ 65536 ∧ base + len ≤ 2 ^ 48 ∧ q.off + len ≤ hbmSize s ∧
      combined s part mode .fetch 4 base = .ok q
    -- PUBL
    (g.em = 0 → GivesGroup s g (.publ d a b) g.goesOn) ∧
    (g.em ≠ 0 →
      let tells := fun (index code : Nat) => GivesGroup s g (.publ d a b)
        { g.goesOn with s := storeSet g.s (d.toNat - 96) (0x8000000000000000 ||| (BitVec.ofNat 64 index <<< 16) ||| BitVec.ofNat 64 code) }
      let open_ := s.featen.getLsbD 10 = true ∧ p.pubEn = true
      let sized := 0 < n ∧ n % 4 = 0 ∧ n ≤ 4 * 2 ^ 20 ∧ src % 4 = 0
      (¬ open_ → tells 0 2) ∧ (open_ → ¬ sized → tells 0 1) ∧
      (open_ → sized →
        (∀ c va, unitRead s g.part false g.mode (mkVa s.devNum.toNat 0 src) n = .error (c, va) → Issues s g (.publ d a b) →
          exec (.publ d a b) s = .next (wholeTrap s g c (packVa va))) ∧
        (∀ l va, unitRead s g.part false g.mode (mkVa s.devNum.toNat 0 src) n = .ok (l, some va) → Issues s g (.publ d a b) →
          ∃ val, exec (.publ d a b) s = .next (wholeTrap s g .ecc val) ∧
            ∀ q, translate s 384 g.part false g.mode .load 0 (vaOff va) = .ok q → val = BitVec.ofNat 64 (q.off / 32 * 32)) ∧
        (∀ code, unitRead s g.part false g.mode (mkVa s.devNum.toNat 0 src) n = .ok (code, none) →
          let words := wordsOf code
          let ill := firstIll words 0 Pre.none
          let stray := firstStray n words 0
          (∀ i, ill = some i → tells i 4) ∧ (∀ i, ill = none → stray = some i → tells i 5) ∧
          (ill = none → stray = none →
            (2 ^ p.pubLog.toNat < off + whole n → tells 0 3) ∧
            (off + whole n ≤ 2 ^ p.pubLog.toNat →
              (windowPlaces s g.part g.mode (p.pubBase.toNat + off) (whole n) = none → tells 0 6) ∧
              (∀ q, page g.part g.mode (p.pubBase.toNat + off) (whole n) q → Issues s g (.publ d a b) → ∃ t s1, exec (.publ d a b) s = .next t ∧
                Stored s s1 4 q.off (record (shake256 code 32) n s.devNum.toNat p.pubSeq ++ code) ∧
                t = { s1 with parts := t.parts, groups := t.groups, fresh := t.fresh } ∧
                t.part g.part = { p with pubNext := BitVec.ofNat 24 ((off + whole n) / 256), pubSeq := p.pubSeq + 1 } ∧
                (∀ j, j ≠ g.part → t.part j = s.part j) ∧ (∀ id, id ≠ s.cur → t.group? id = s1.group? id) ∧
                t.group? s.cur = some { g.goesOn with s := storeSet g.s (d.toNat - 96) (BitVec.ofNat 64 (p.pubBase.toNat + off + 64)) })))))) ∧
    -- a word without a meaning is found; words that stand alone and are legal pass; a branch is stray where its target is not among the words
    (∀ ws : List Word, ((∃ w ∈ ws, decodeWord w = none) → (firstIll ws 0 Pre.none).isSome = true) ∧
      ((∀ w ∈ ws, ∃ i, decodeWord w = some i ∧ i.legal 3 Pre.none = true ∧ nextPre Pre.none i = Pre.none) → firstIll ws 0 Pre.none = none) ∧
      (∀ k : Nat, firstStray k ws 0 = none ↔ ∀ (j : Nat) w x, ws[j]? = some w → (decodeWord w).bind dispOf = some x →
        (branchTarget (BitVec.ofNat 64 (4 * j)) x).toNat < k)) ∧
    -- PUBWIN_WRITE, PUBNEXT_WRITE
    (s.group? s.cur = some g → g.mode ≠ .u →
      let log : BitVec 5 := v.extractLsb' 58 5
      let base : BitVec 48 := v.extractLsb' 16 32 ++ 0#16
      let tgt : BitVec 24 := v.extractLsb' 8 24
      let good := 16 ≤ log.toNat ∧ base.toNat % 2 ^ log.toNat = 0
      let inside := fun (e : CodeLine) => p.pubBase.toNat ≤ e.vline * 64 ∧ e.vline * 64 < p.pubBase.toNat + 2 ^ p.pubLog.toNat
      (¬ good → exec (.pubwinWrite v) s = .next s) ∧
      (good → ∃ t, exec (.pubwinWrite v) s = .next t ∧
        OnePart s t g.part { p with pubEn := v.getLsbD 63, pubLog := log, pubBase := base, pubNext := 0 }) ∧
      (∃ t, exec (.pubnextWrite v) s = .next t ∧ OnePart { s with icache := t.icache } t g.part { p with pubNext := tgt } ∧
        (¬ tgt < p.pubNext → t.icache = s.icache) ∧
        (tgt < p.pubNext → ∀ e, e ∈ t.icache ↔ e ∈ s.icache ∧ ¬ (e.part = g.part ∧ inside e)))) ∧
    -- CCAST
    (s.group? s.cur = some g → g.mode ≠ .u →
      let i := (v.extractLsb' 48 16).toNat
      let at_ := (v.extractLsb' 8 24).toNat * 256
      let refused := ∃ t, exec (.ccast v) s = .next t ∧ OnePart s t g.part { p with castState := 3 }
      (p.castState = 1 → exec (.ccast v) s = .next s) ∧
      (p.castState ≠ 1 →
        let entry := tableRead s g.part (p.ttBase.toNat + 64 * i) 64
        let get := fun (o k : Nat) => unitRead s g.part false .s (mkVa s.devNum.toNat 4 (p.pubBase.toNat + o)) k
        (p.ttEn = false ∨ 2 ^ p.ttLog.toNat ≤ i ∨ entry = none → refused) ∧
        (∀ e, entry = some e → byteAt e 3 = 0 ∨ 12 < byteAt e 3 → refused) ∧
        (p.pubEn = false ∨ p.pubNext.toNat * 256 ≤ at_ ∨ (∀ r, get at_ 64 ≠ .ok (r, none)) → refused) ∧
        (∀ r, get at_ 64 = .ok (r, none) →
          let code := get (at_ + 64) (leField r 32 4)
          (leField r 56 8 ≠ (sealOf s (r.take 56)).toNat ∨ (∀ l, code ≠ .ok (l, none)) → refused) ∧
          (∀ e l, p.ttEn = true → i < 2 ^ p.ttLog.toNat → entry = some e → p.pubEn = true → at_ < p.pubNext.toNat * 256 →
            leField r 56 8 = (sealOf s (r.take 56)).toNat → code = .ok (l, none) → 1 ≤ byteAt e 3 → byteAt e 3 ≤ 12 →
            let peers := (List.range (byteAt e 3)).map fun k => leField e (40 + 2 * k) 2 % 8192
            let there := peers.filter (reachable s)
            let levt := BitVec.ofNat 32 (leField e 32 4)
            let u := { s with sent := s.sent ++ there.map fun y => .cast y g.part at_ r l (BitVec.ofNat 32 (leField e 28 4)) }
            let x := { p with castState := 1, castYes := 0, castNo := peers.length - there.length, castWait := there, castLevt := levt }
            (there ≠ [] → ∃ t, exec (.ccast v) s = .next t ∧ OnePart u t g.part x) ∧
            (there = [] → ∃ s1, OnePart u s1 g.part { x with castOk := 0, castBad := BitVec.ofNat 8 x.castNo, castState := 2 } ∧
              exec (.ccast v) s = .next (if levt = 0xFFFFFFFF#32 then s1 else unitSignal s1 g.part levt)))))) ∧
    -- MULTICAST_RECEIVE
    (boundPart s m.dev m.part = none → exec (.multicastReceive m) s = .next { s with sent := s.sent ++ [.refusal m.dev 0x08] }) ∧
    (∀ k, boundPart s m.dev m.part = some k →
      let y := s.part k
      let same := shake256 m.code 32 = m.record.take 32 ∧ leField m.record 32 4 = m.code.length
      let fits := y.pubEn = true ∧ m.off % 256 = 0 ∧ y.pubNext.toNat * 256 ≤ m.off ∧ m.off + whole m.code.length ≤ 2 ^ y.pubLog.toNat
      let tells := fun (t : State) (x : Byte) => exec (.multicastReceive m) s = .next { t with sent := t.sent ++ [.reply m.dev [x]] }
      (¬ same → ∃ t, OnePart s t k { y with castBadh := if y.castBadh = 0xFFFF then 0xFFFF else y.castBadh + 1 } ∧ tells t 1) ∧
      (same → ¬ fits → tells s 1) ∧
      (same → fits → (windowPlaces s k .s (y.pubBase.toNat + m.off) (whole m.code.length) = none → tells s 1) ∧
        ∀ q, page k .s (y.pubBase.toNat + m.off) (whole m.code.length) q → ∃ s1 s2,
          Stored s s1 4 q.off (record (m.record.take 32) m.code.length (leField m.record 36 2) (leField m.record 40 8) ++ m.code) ∧
          OnePart s1 s2 k { y with pubNext := BitVec.ofNat 24 ((m.off + whole m.code.length) / 256) } ∧
          tells (unitSignal s2 k ((m.revt &&& 0x7FFFF#32) ||| (BitVec.ofNat 32 s.devNum.toNat <<< 19))) 0)) ∧
    -- MULTICAST_ANSWER
    (let y := s.part part
     let counted := if answer = 0 then { y with castWait := y.castWait.erase peer, castYes := y.castYes + 1 }
       else { y with castWait := y.castWait.erase peer, castNo := y.castNo + 1 }
     (¬ (y.castState = 1 ∧ peer ∈ y.castWait) → exec (.multicastAnswer part peer answer) s = .next s) ∧
     (y.castState = 1 → peer ∈ y.castWait → y.castWait.erase peer ≠ [] → ∃ t, exec (.multicastAnswer part peer answer) s = .next t ∧ OnePart s t part counted) ∧
     (y.castState = 1 → peer ∈ y.castWait → y.castWait.erase peer = [] → ∃ s1, OnePart s s1 part { counted with
       castOk := BitVec.ofNat 8 counted.castYes, castBad := BitVec.ofNat 8 counted.castNo, castState := 2 } ∧
       exec (.multicastAnswer part peer answer) s = .next (if y.castLevt = 0xFFFFFFFF#32 then s1 else unitSignal s1 part y.castLevt)))

/-- R214, R215 (10 Table 5): in a clock of a pipe or a sequencer the ready group of the first class issues, then the one ready the longest, then the
lowest slot; a class counts one less for each 64 clocks of waiting. -/
def Obligations.SelectionFollowsTable5 : Prop :=
  ∀ (clk : Nat) (l : List (GroupId × Group)),
    let cls := fun (g : Group) => (if g.mode ≠ .u then 0 else if g.role = .copy then 1 else 2) - (clk - g.readySince) / 64
    (l = [] → pickFirst clk l = none) ∧
    (l ≠ [] → ∃ e ∈ l, pickFirst clk l = some e ∧ ∀ x ∈ l, cls e.2 ≤ cls x.2 ∧ (cls x.2 = cls e.2 → e.2.readySince ≤ x.2.readySince ∧
      (x.2.readySince = e.2.readySince → e.1 ≤ x.1)))

/-- R22, R34, R41, R214, R293, 14 R314: in the turn of a pipe or a sequencer what is due at a boundary comes first; then the group that pickFirst gives
among the ready ones, in whatever mode, issues the word at its PC, or the instruction that it waits in: the step is exec of the decoded instruction
on the state in which the group is current. A word without a meaning and a fetch that fails trap. The turn of a stream carries out its operator, that
of a unit its own instruction. The model's reading of the spec, and no words of it: that the turns are what the agenda lists (log 4); that a halt that
is requested may or may not let the picked group issue once more (log 3); that a prefix sequence runs in consecutive steps (log 31); that a word with
bits that its generation ignores is decoded without them, and trapped with EVAL the word as it stands in memory (log 32); that a poisoned word is
reported as ECC with the sector's physical offset (log 26). -/
def Obligations.StepRunsTheDecodedInstruction : Prop :=
  ∀ (s : State) (id : GroupId) (g : Group), s.inReset = false →
    -- what the issue of group id does, the state being u
    let issues := fun (u : State) =>
      let s1 := beginIssue u id g
      (u.group? id = some g) →
        (s1.cur = id ∧ s1.group? id = some { g with
          readySince := groupClk u id + 1, raced := false, dbg := { g.dbg with armed := g.dbg.armed || g.dbg.single || g.dbg.haltReq } }) ∧
        (∀ i, g.wait ≠ .none → legacyWord g.gen g.word = g.word → decodeWord g.word = some i → step s = exec i s1) ∧
        (∀ s2 w, g.wait = .none → fetchWord s1 id g = .ok (s2, w) →
          let s3 := s2.modGroup id fun x => { x with word := w }
          let m := legacyWord g.gen w
          (∀ i, decodeWord m = some i → (m = w → step s = exec i s3) ∧
            -- a word with bits that its generation ignores
            (m ≠ w → ∀ x, s3.group? id = some x →
              let early := fun (c : Cause) => c = .ill ∨ c = .priv ∨ c = .role
              (∀ c v, checkIssue s3 id x i = some (c, v) → early c → step s = .next (boundaryTrap s3 id c (w.setWidth 64))) ∧
              ((∀ c v, checkIssue s3 id x i = some (c, v) → ¬ early c) → step s = exec i s3))) ∧
          (decodeWord m = none → step s = .next (boundaryTrap s3 id .ill (w.setWidth 64)))) ∧
        (∀ c v, g.wait = .none → fetchWord s1 id g = .error (c, v) → step s = .next (boundaryTrap s1 id c v))
    let inside := fun (x : Group) => x.preStart.isSome = true ∧ x.wait = .none ∧ x.idle = false
    -- a clock of the groups l that share an issue slot, the state being u
    let slot := fun (u : State) (clk : Nat) (l : List (GroupId × Group)) =>
      let pick := pickFirst clk (l.filter fun e => isReady u e.1 e.2)
      let first := fun (e : GroupId × Group) => ∃ x, pick = some x ∧ x.1 = e.1
      let halts := fun (e : GroupId × Group) => haltDue e.2 = true ∧ e.2.idle = false ∧ stopHeld e.2 = false ∧
        ¬ (e.2.dbg.haltReq = true ∧ e.2.dbg.armed = false ∧ first e ∧ Config.raceChoice u.fresh = true)
      let stops := fun (e : GroupId × Group) => (e.2.stopping = true ∨ e.2.parking = true) ∧ stopHeld e.2 = false ∧ e.2.idle = false ∧ ¬ (e.2.raced = true ∧ first e)
      let calm := fun (e : GroupId × Group) => ¬ halts e ∧ ¬ stops e ∧ drainDue u e = none
      let v := readyTimes u clk l
      -- groups that are not ready begin their next ready period later
      (v = { u with groups := v.groups } ∧ ∀ i y, u.group? i = some y →
        ((∀ e ∈ l, e.1 = i → isReady u i e.2 = true) → v.group? i = some y) ∧
        ((∃ e ∈ l, e.1 = i) → (∀ e ∈ l, e.1 = i → isReady u i e.2 = false) → v.group? i = some { y with readySince := clk + 1 })) ∧
      (∀ a e r, l = a ++ e :: r → (∀ x ∈ a, calm x) →
        (halts e → step s = exec (.debugHalt e.1) { u with fresh := u.fresh + 1 }) ∧ (¬ halts e → stops e → step s = .next (stopDue u e.1)) ∧
        (∀ d, ¬ halts e → ¬ stops e → drainDue u e = some d → step s = .next (drainTrap u d e.1))) ∧
      ((∀ e ∈ l, calm e) → (pick = none → step s = .next v) ∧ (pick = some (id, g) → issues v))
    -- inside a prefix sequence
    (s.group? s.cur = some g → inside g → id = s.cur → issues s) ∧
    -- else the turn at hand
    ((∀ x, s.group? s.cur = some x → ¬ inside x) → ∀ turn r, s.agenda = turn :: r →
      let s0 := { s with agenda := r, turns := s.turns + 1 }
      (∀ c p, turn = .pipe c p →
        let u := s0.modCore c fun k => if p = 0 then { k with clk0 := k.clk0 + 1 } else { k with clk1 := k.clk1 + 1 }
        slot u (if p = 0 then (u.core c).clk0 else (u.core c).clk1)
          (u.groups.filter fun e => decide (e.1 < 8192) && e.1 / 32 == c && e.1 % 2 == p)) ∧
      (∀ c, turn = .sequencer c →
        let u := s0.modCluster c fun k => { k with clk := k.clk + 1 }
        slot u (u.cluster c).clk (u.groups.filter fun e => e.1 == 8192 + c)) ∧
      (∀ i, turn = .unit i → step s = exec i s0) ∧
      (∀ p n x, turn = .stream p n → s.isLive p = true → findStream s p n = some x → x.ended = false → ∀ l k, x.levels = l :: k → l.pos < l.count →
        ∀ b, unitRead s p false .s (vaAdd l.base (16 * l.pos)) 16 = .ok (b, none) →
          step s = exec (decodeOperator b) { s0 with curPart := p, curStream := n, fresh := s.fresh + 1 })) ∧
    -- a DRAIN is due to a group in U mode that holds a job, once half the time of its team's drain has passed (13 R295)
    (∀ u e, drainDue u e = none ∨ ∃ d, drainDue u e = some d ∧ d.halfDone = true ∧ e.2.mode = .u ∧ e.2.job = true ∧ e.2.drained = false ∧
      (u.team? e.2.team).bind drainOf = some d) ∧
    -- the word that a fetch brings, and the two ways in which it fails
    (∀ p, translate s (unitOf id) g.part false g.mode .fetch 4 g.pc.toNat = .ok p → p.off % 4 = 0 → poisonIn s p.kind p.off 4 = none →
      (∀ e ∈ s.icache, ¬ (e.unit = unitOf id ∧ e.pline = p.off / 64)) → ∃ s2, fetchWord s id g = .ok (s2, BitVec.ofNat 32 (placeValue s p 4)) ∧
        s2 = { s with cores := s2.cores, clusters := s2.clusters, l2tlb := s2.l2tlb, icache := s2.icache, fresh := s.fresh + 1 }) ∧
    (∀ c, translate s (unitOf id) g.part false g.mode .fetch 4 g.pc.toNat = .error c →
      fetchWord s id g = .error (c, packVa (mkVa s.devNum.toNat 4 g.pc.toNat))) ∧
    (∀ p, translate s (unitOf id) g.part false g.mode .fetch 4 g.pc.toNat = .ok p → ∀ o, poisonIn s p.kind p.off 4 = some o →
      (∀ e ∈ s.icache, ¬ (e.unit = unitOf id ∧ e.pline = p.off / 64)) → fetchWord s id g = .error (.ecc, BitVec.ofNat 64 o))

/-- 02 Tables 1 to 15, R33: every instruction of the table's word rows, with every operand, decodes from the word that encodes it, and no other word
decodes to it: no bit of an encoding is dropped. -/
def Obligations.DecodingAndEncodingAgree : Prop :=
  ∀ (i : Instr) (w : BitVec 32), decodeWord w = some i ↔ encode i = some w

/-- Words written out in the specification decode to the instructions that it gives for them. -/
def Obligations.WordsOfTheSpecificationDecode : Prop :=
  decodeWord 0x1B931630 = some (.publ 100 98 99) ∧ decodeWord 0x0FC38020 = some (.winb 112 32) ∧ decodeWord 0x580B8000 = some (.movi 2 0) ∧
  decodeWord 0x04200003 = some (.brany 1 0 3) ∧ decodeWord 0x0207FFFB = some (.bra 0 0x7FFFB) ∧ decodeWord 0x4C142801 = some (.iaddi 5 5 1) ∧
  decodeWord 0x19C080E8 = some (.csrw 112 0x101 104) ∧ decodeWord 0x7E181988 = some (.fcvt 6 3 1 4 0 2 0) ∧ decodeWord 0xB0101183 = some (.ld 4 2 1 4 0 3) ∧
  decodeWord 0xD20B8034 = some (.atcas 2 112 3 2 0) ∧ decodeWord 0xE6040701 = some (.spopOpen 1 0) ∧ decodeWord 0xEB938700 = some (.mbrd 1) ∧
  decodeWord 0xF4242620 = some (.meet 9 4 98) ∧ decodeWord 0xFE071852 = some (.accCvt 1 99 5) ∧ decodeWord 0 = none

/-- 13 R298, R300, R303, R306, 14 R313, R316, 15 R328, R331 (the reset columns of their tables): what the machine is right after a start. No
group and no team is live, no partition is named, memory holds zeros, and the registers that have a stated reset value hold it. Memory has its
form, the invariant of StepKeepsTheFormOfMemory. -/
def Obligations.ResetLeavesTheStatedValues : Prop :=
  (let s := State.reset
  s.groups = [] ∧ s.teams = [] ∧ s.live = 0 ∧ s.images = [] ∧ s.reserves = [] ∧ s.vacate = none ∧ s.edf = true ∧ s.slEn = false ∧ s.slN = 0 ∧
  s.slPeriod = 10000 ∧ s.featen = 1 ∧ s.thrLvl = 0 ∧ s.vevt = 0xFFFFFFFF ∧ s.sbFrozen = false ∧ s.sbWidx = 0 ∧
  (∀ kind a, kind ≤ 2 → memByte s kind a = 0) ∧ (∀ c, (s.core c).slmap = 0) ∧ (∀ q, (s.queue q).en = false) ∧ (∀ n, (s.ring n).en = false) ∧
  (∀ p, (s.part p).stvec = 0 ∧ (s.part p).htvec = 0 ∧ (s.part p).pubEn = false ∧ (s.part p).pubLog = 16)) ∧
  (Memory.wf State.reset = true)

/-- From every state whose memory has its form, a step that answers a next state leaves memory in that form. -/
def Obligations.StepKeepsTheFormOfMemory : Prop :=
  ∀ s t : State, Memory.wf s = true → step s = .next t → Memory.wf t = true
end

