-- ==== Sys2Proof/Laws/Link.lean ====
section
/-! SUPPORT. What a read of the pool while its link is down leaves behind (15 R327, R331): the counters of errors and the strongbox, and nothing that
a read or a translation depends on. -/
namespace Sys2Proof.Machine

/-- What an access to a pool whose link is down may change: the error counters and the strongbox. -/
theorem linkError_frame (s : State) (kind off : Nat) :
    linkError s kind off = { s with
      eccUe := (linkError s kind off).eccUe, strongbox := (linkError s kind off).strongbox,
      sbWidx := (linkError s kind off).sbWidx, sbDrop := (linkError s kind off).sbDrop } := by
  unfold linkError countError sbRecord
  split
  · split <;> rfl
  · rfl

/-- As linkError_frame, for what a unit's read leaves. -/
theorem linkNote_frame (s : State) (part : Nat) (engine : Bool) (mode : Mode) (va : VAddr) :
    ∃ ue sb wi dr, linkNote s part engine mode va = { s with eccUe := ue, strongbox := sb, sbWidx := wi, sbDrop := dr } := by
  unfold linkNote
  split
  · split
    · exact ⟨_, _, _, _, linkError_frame ..⟩
    · exact ⟨_, _, _, _, rfl⟩
  · exact ⟨_, _, _, _, rfl⟩

/-- A unit's read depends on no record and no counter of errors. -/
theorem unitRead_record (s : State) (ue : Store 32) (sb : Store 256) (wi : BitVec 32) (dr : BitVec 16) (part : Nat) (engine : Bool) (mode : Mode)
    (va : VAddr) (n : Nat) :
    unitRead { s with eccUe := ue, strongbox := sb, sbWidx := wi, sbDrop := dr } part engine mode va n = unitRead s part engine mode va n := rfl

/-- A unit reads the same bytes whether or not an error has been noted. -/
theorem unitRead_linkNote (s : State) (p q : Nat) (e f : Bool) (m k : Mode) (va vb : VAddr) (n : Nat) :
    unitRead (linkNote s p e m va) q f k vb n = unitRead s q f k vb n := by
  obtain ⟨_, _, _, _, h⟩ := linkNote_frame s p e m va
  rw [h, unitRead_record]
end Sys2Proof.Machine
end

