-- ==== Sys2Proof/Laws/Store.lean ====
section
/-! SUPPORT. The laws of sparse tables: a read after a write, and the canonical form that a write keeps. -/
namespace Sys2Proof.Laws
open Sys2Proof Sys2Proof.Machine

theorem storeGet_append_left {n : Nat} (l r : Store n) (a : Nat) (h : ∀ e ∈ l, e.1 ≠ a) : storeGet (l ++ r) a = storeGet r a := by
  induction l with
  | nil => rfl
  | cons e t ih =>
    obtain ⟨k, v⟩ := e
    have hk : k ≠ a := h (k, v) (by simp)
    simp only [List.cons_append, storeGet, hk, if_false]
    exact ih fun e he => h e (by simp [he])

theorem storeGet_absent {n : Nat} (l : Store n) (a : Nat) (h : ∀ e ∈ l, e.1 ≠ a) : storeGet l a = 0 := by
  have := storeGet_append_left l [] a h
  simpa [storeGet] using this

theorem storeGet_append_right {n : Nat} (l r : Store n) (a : Nat) (h : ∀ e ∈ r, e.1 ≠ a) : storeGet (l ++ r) a = storeGet l a := by
  induction l with
  | nil => simpa [storeGet] using storeGet_absent r a h
  | cons e t ih =>
    obtain ⟨k, v⟩ := e
    simp only [List.cons_append, storeGet, ih]

theorem storeGet_filter {n : Nat} (l : Store n) (a : Nat) (p : Nat × BitVec n → Bool) (h : ∀ v, p (a, v) = true) :
    storeGet (l.filter p) a = storeGet l a := by
  induction l with
  | nil => rfl
  | cons e t ih =>
    obtain ⟨k, v⟩ := e
    by_cases hk : k = a
    · subst hk
      simp [h, storeGet]
    · cases hp : p (k, v) <;> simp [hp, storeGet, hk, ih]

/-- A read after a write to the same place gives the value written. -/
@[simp] theorem storeGet_storeSet_same {n : Nat} (m : Store n) (a : Nat) (v : BitVec n) : storeGet (storeSet m a v) a = v := by
  unfold storeSet
  rw [storeGet_append_left _ _ _ (by intro e he; simp at he; omega)]
  by_cases hv : v = 0
  · subst hv
    simp only [if_true, List.nil_append]
    exact storeGet_absent _ _ (by intro e he; simp at he; omega)
  · rw [if_neg hv, List.singleton_append]
    simp [storeGet]

/-- A write leaves every other place alone. -/
theorem storeGet_storeSet_other {n : Nat} (m : Store n) (a b : Nat) (v : BitVec n) (h : b ≠ a) :
    storeGet (storeSet m a v) b = storeGet m b := by
  unfold storeSet
  have hmid : ∀ e ∈ (if v = 0 then [] else [(a, v)] : Store n), e.1 ≠ b := by
    intro e he; split at he <;> simp at he; subst he; exact fun x => h x.symm
  rcases Nat.lt_or_gt_of_ne h with hlt | hgt
  · rw [storeGet_append_right, storeGet_filter _ _ _ (by simp [hlt])]
    intro e he
    rw [List.mem_append] at he
    rcases he with he | he
    · exact hmid e he
    · simp at he; omega
  · rw [storeGet_append_left _ _ _ (by intro e he; simp at he; omega), storeGet_append_left _ _ _ hmid,
      storeGet_filter _ _ _ (by simp [hgt])]

/-- The canonical form said for a whole list: rising numbers and no zero. -/
def Rising {n : Nat} (l : Store n) : Prop := l.Pairwise (fun x y => x.1 < y.1) ∧ ∀ e ∈ l, e.2 ≠ 0

theorem storeWf_iff {n : Nat} (l : Store n) : storeWf l = true ↔ Rising l := by
  induction l with
  | nil => simp [storeWf, Rising]
  | cons e t ih =>
    obtain ⟨k, v⟩ := e
    cases t with
    | nil => simp [storeWf, Rising]
    | cons e' t' =>
      obtain ⟨k', v'⟩ := e'
      simp only [storeWf, Bool.and_eq_true, bne_iff_ne, ne_eq, decide_eq_true_eq, ih, Rising]
      constructor
      · rintro ⟨⟨hv, hk⟩, hp, hz⟩
        refine ⟨List.pairwise_cons.2 ⟨?_, hp⟩, ?_⟩
        · intro e he
          rcases List.mem_cons.1 he with rfl | he
          · exact hk
          · exact Nat.lt_trans hk ((List.pairwise_cons.1 hp).1 e he)
        · intro e he
          rcases List.mem_cons.1 he with rfl | he
          · exact hv
          · exact hz e he
      · rintro ⟨hp, hz⟩
        have hp' := List.pairwise_cons.1 hp
        exact ⟨⟨hz (k, v) (by simp), hp'.1 (k', v') (by simp)⟩, hp'.2, fun e he => hz e (List.mem_cons_of_mem _ he)⟩

/-- A write keeps the canonical form. -/
theorem storeSet_wf {n : Nat} (m : Store n) (a : Nat) (v : BitVec n) (h : storeWf m = true) : storeWf (storeSet m a v) = true := by
  rw [storeWf_iff] at h ⊢
  obtain ⟨hp, hz⟩ := h
  unfold storeSet
  refine ⟨?_, ?_⟩
  · rw [List.pairwise_append, List.pairwise_append]
    refine ⟨hp.filter _, ⟨?_, hp.filter _, ?_⟩, ?_⟩
    · split <;> simp
    · intro x hx y hy
      split at hx <;> simp at hx hy
      subst hx; exact hy.2
    · intro x hx y hy
      simp only [List.mem_filter, decide_eq_true_eq] at hx
      rw [List.mem_append] at hy
      rcases hy with hy | hy
      · split at hy <;> simp at hy; subst hy; exact hx.2
      · simp only [List.mem_filter, decide_eq_true_eq] at hy; omega
  · intro e he
    rw [List.mem_append, List.mem_append] at he
    rcases he with he | he | he
    · exact hz e ((List.mem_filter.1 he).1)
    · split at he <;> simp at he; subst he; assumption
    · exact hz e ((List.mem_filter.1 he).1)

theorem tabGet_append_left {α : Type} (l r : Tab α) (a : Nat) (h : ∀ e ∈ l, e.1 ≠ a) : tabGet (l ++ r) a = tabGet r a := by
  induction l with
  | nil => rfl
  | cons e t ih =>
    obtain ⟨k, v⟩ := e
    have hk : k ≠ a := h (k, v) (by simp)
    simp only [List.cons_append, tabGet, hk, if_false]
    exact ih fun e he => h e (by simp [he])

theorem tabGet_absent {α : Type} (l : Tab α) (a : Nat) (h : ∀ e ∈ l, e.1 ≠ a) : tabGet l a = none := by
  have := tabGet_append_left l [] a h
  simpa [tabGet] using this

theorem tabGet_append_right {α : Type} (l r : Tab α) (a : Nat) (h : ∀ e ∈ r, e.1 ≠ a) : tabGet (l ++ r) a = tabGet l a := by
  induction l with
  | nil => simpa [tabGet] using tabGet_absent r a h
  | cons e t ih =>
    obtain ⟨k, v⟩ := e
    simp only [List.cons_append, tabGet, ih]

theorem tabGet_filter {α : Type} (l : Tab α) (a : Nat) (p : Nat × α → Bool) (h : ∀ v, p (a, v) = true) :
    tabGet (l.filter p) a = tabGet l a := by
  induction l with
  | nil => rfl
  | cons e t ih =>
    obtain ⟨k, v⟩ := e
    by_cases hk : k = a
    · subst hk
      simp [h, tabGet]
    · cases hp : p (k, v) <;> simp [hp, tabGet, hk, ih]

/-- A record that has been written is read. -/
@[simp] theorem tabGet_tabSet_same {α : Type} (t : Tab α) (a : Nat) (v : α) : tabGet (tabSet t a v) a = some v := by
  unfold tabSet
  rw [tabGet_append_left _ _ _ (by intro e he; simp at he; omega)]
  simp [tabGet]

/-- A written record leaves the others alone. -/
theorem tabGet_tabSet_other {α : Type} (t : Tab α) (a b : Nat) (v : α) (h : b ≠ a) : tabGet (tabSet t a v) b = tabGet t b := by
  unfold tabSet
  rcases Nat.lt_or_gt_of_ne h with hlt | hgt
  · rw [tabGet_append_right, tabGet_filter _ _ _ (by simp [hlt])]
    intro e he
    rcases List.mem_cons.1 he with rfl | he
    · exact fun x => h x.symm
    · simp at he; omega
  · rw [tabGet_append_left _ _ _ (by intro e he; simp at he; omega)]
    simp only [tabGet, Ne.symm h, if_false]
    exact tabGet_filter _ _ _ (by simp [hgt])

/-- A removed record is absent, and the others stay. -/
theorem tabGet_tabDel {α : Type} (t : Tab α) (a b : Nat) : tabGet (tabDel t a) b = if b = a then none else tabGet t b := by
  unfold tabDel
  split
  · next h => subst h; exact tabGet_absent _ _ (by intro e he; simp at he; exact he.2)
  · next h => exact tabGet_filter _ _ _ (by intro v; simp [h])

/-- A second write of a record replaces the first. -/
theorem tabSet_tabSet {α : Type} (t : Tab α) (a : Nat) (v w : α) : tabSet (tabSet t a v) a w = tabSet t a w := by
  have h1 : ∀ l : Tab α, (l.filter fun e => decide (a < e.1)).filter (fun e => decide (e.1 < a)) = [] := by
    intro l; rw [List.filter_filter, List.filter_eq_nil_iff]; intro e _; simp; omega
  have h2 : ∀ l : Tab α, (l.filter fun e => decide (e.1 < a)).filter (fun e => decide (a < e.1)) = [] := by
    intro l; rw [List.filter_filter, List.filter_eq_nil_iff]; intro e _; simp; omega
  unfold tabSet
  simp only [List.filter_append, List.filter_cons, Nat.lt_irrefl, decide_false, Bool.false_eq_true, if_false, h1, h2]
  simp

end Sys2Proof.Laws
end

