-- ==== Sys2Proof/Laws/Memory.lean ====
section
/-! SUPPORT. The laws of memory: every memory operation keeps the canonical form, a byte that is written is read, and every other
byte stays. -/
namespace Sys2Proof.Laws
open Sys2Proof Sys2Proof.Machine

theorem getLsbD_255 (n : Nat) (h : n < 32) : (0xFF#32).getLsbD n = decide (n < 8) := by
  have : ∀ m : Fin 32, (0xFF#32).getLsbD m.1 = decide (m.1 < 8) := by decide
  exact this ⟨n, h⟩

theorem getElem_255 (n : Nat) (h : n < 32) : (255#32)[n] = decide (n < 8) := by
  rw [← BitVec.getLsbD_eq_getElem, getLsbD_255 n h]

/-- A byte of a word after a byte of it was replaced. -/
theorem wordByte_wordSetByte (w : Word) (i j : Nat) (b : Byte) :
    wordByte (wordSetByte w i b) j = if j % 4 = i % 4 then b else wordByte w j := by
  ext k hk
  have hi : i % 4 < 4 := Nat.mod_lt _ (by decide)
  have hj : j % 4 < 4 := Nat.mod_lt _ (by decide)
  unfold wordByte wordSetByte
  split
  · next h =>
    simp only [h, BitVec.getElem_extractLsb', BitVec.getLsbD_or, BitVec.getLsbD_and, BitVec.getLsbD_not, BitVec.getLsbD_shiftLeft,
      BitVec.getLsbD_setWidth]
    have e : 8 * (i % 4) + k - 8 * (i % 4) = k := by omega
    have l : ¬ 8 * (i % 4) + k < 8 * (i % 4) := by omega
    have l2 : 8 * (i % 4) + k < 32 := by omega
    have l3 : k < 32 := by omega
    simp [e, l, l2, l3, getElem_255, hk, BitVec.getLsbD_eq_getElem]
  · next h =>
    simp only [BitVec.getElem_extractLsb', BitVec.getLsbD_or, BitVec.getLsbD_and, BitVec.getLsbD_not, BitVec.getLsbD_shiftLeft,
      BitVec.getLsbD_setWidth]
    have l2 : 8 * (j % 4) + k < 32 := by omega
    rcases Nat.lt_or_gt_of_ne h with hlt | hgt
    · have l : 8 * (j % 4) + k < 8 * (i % 4) := by omega
      simp [l, l2]
    · have l : ¬ 8 * (j % 4) + k < 8 * (i % 4) := by omega
      have l3 : 8 * (j % 4) + k - 8 * (i % 4) < 32 := by omega
      have l4 : ¬ 8 * (j % 4) + k - 8 * (i % 4) < 8 := by omega
      have l5 : b.getLsbD (8 * (j % 4) + k - 8 * (i % 4)) = false := BitVec.getLsbD_of_ge _ _ (by omega)
      simp [l, l2, l3, l4, l5, getElem_255]

/-- Storing a byte keeps the canonical form. -/
theorem memSetByte_wf (s : State) (kind off : Nat) (b : Byte) (h : Memory.wf s = true) :
    Memory.wf (memSetByte s kind off b) = true := by
  simp only [Memory.wf, Bool.and_eq_true] at h ⊢
  obtain ⟨⟨⟨⟨⟨⟨h1, h2⟩, h3⟩, h4⟩, h5⟩, h6⟩, h7⟩ := h
  unfold memSetByte
  split
  · exact ⟨⟨⟨⟨⟨⟨storeSet_wf _ _ _ h1, h2⟩, h3⟩, h4⟩, h5⟩, h6⟩, h7⟩
  · exact ⟨⟨⟨⟨⟨⟨storeSet_wf _ _ _ h1, h2⟩, h3⟩, h4⟩, h5⟩, h6⟩, h7⟩
  · split
    · exact ⟨⟨⟨⟨⟨⟨h1, h2⟩, h3⟩, h4⟩, storeSet_wf _ _ _ h5⟩, h6⟩, h7⟩
    · exact ⟨⟨⟨⟨⟨⟨h1, h2⟩, h3⟩, h4⟩, h5⟩, h6⟩, storeSet_wf _ _ _ h7⟩
    · exact ⟨⟨⟨⟨⟨⟨h1, storeSet_wf _ _ _ h2⟩, h3⟩, h4⟩, h5⟩, h6⟩, h7⟩
  · exact ⟨⟨⟨⟨⟨⟨h1, h2⟩, storeSet_wf _ _ _ h3⟩, h4⟩, h5⟩, h6⟩, h7⟩
  · exact ⟨⟨⟨⟨⟨⟨h1, h2⟩, h3⟩, storeSet_wf _ _ _ h4⟩, h5⟩, h6⟩, h7⟩

theorem storeBytes_wf (l : List Byte) : ∀ (s : State) (kind off : Nat), Memory.wf s = true → Memory.wf (storeBytes s kind off l) = true := by
  induction l with
  | nil => intro s _ _ h; exact h
  | cons b r ih => intro s kind off h; exact ih _ _ _ (memSetByte_wf _ _ _ _ h)

/-- A write of bytes keeps the canonical form. -/
theorem writeMem_wf (s : State) (kind off : Nat) (l : List Byte) (h : Memory.wf s = true) : Memory.wf (writeMem s kind off l) = true := by
  have h1 := storeBytes_wf l s kind off h
  have h2 : Memory.wf (linkError s kind off) = true := by
    unfold linkError countError sbRecord
    repeat' split
    all_goals exact h
  unfold writeMem wakeLines
  repeat' split
  · exact h2
  all_goals exact h1

/-- A write of a register lane keeps the canonical form. -/
theorem cellSet_wf (s : State) (c : Bool × Nat) (v : Word) (h : Memory.wf s = true) : Memory.wf (cellSet s c v) = true := by
  simp only [Memory.wf, Bool.and_eq_true] at h ⊢
  obtain ⟨⟨⟨⟨⟨⟨h1, h2⟩, h3⟩, h4⟩, h5⟩, h6⟩, h7⟩ := h
  unfold cellSet
  split
  · exact ⟨⟨⟨⟨⟨⟨h1, h2⟩, h3⟩, h4⟩, h5⟩, storeSet_wf _ _ _ h6⟩, h7⟩
  · exact ⟨⟨⟨⟨⟨⟨h1, h2⟩, h3⟩, h4⟩, storeSet_wf _ _ _ h5⟩, h6⟩, h7⟩

theorem writeV_wf (vals : List (Nat × Word)) : ∀ (s : State) (id : GroupId) (g : Group) (reg : Nat), Memory.wf s = true →
    Memory.wf (writeV s id g reg vals) = true := by
  unfold writeV
  induction vals with
  | nil => intro s id g reg h; exact h
  | cons e r ih => intro s id g reg h; exact ih _ _ _ _ (cellSet_wf _ _ _ h)

theorem scratchWrite_wf (s : State) (t : Team) (core o : Nat) (l : List Byte) (h : Memory.wf s = true) :
    Memory.wf (scratchWrite s t core o l) = true := by
  unfold scratchWrite
  generalize scratchPieces (l.length / 4096 + 2) o l = ps
  induction ps generalizing s with
  | nil => exact h
  | cons e r ih =>
    refine ih _ ?_
    dsimp only
    split
    · exact h
    · exact writeMem_wf _ _ _ _ h

/-- The offset of a place in the register window or the accumulator window is fixed by its word and its byte. -/
theorem place_inj {base a b : Nat} (ha : base ≤ a) (hb : base ≤ b)
    (h : (a - base) / 0x100000 * 131072 + a % 0x100000 / 4 = (b - base) / 0x100000 * 131072 + b % 0x100000 / 4)
    (la : a % 0x100000 < 0x80000) (lb : b % 0x100000 < 0x80000) (hm : a % 0x100000 % 4 = b % 0x100000 % 4)
    (hbase : base % 0x100000 = 0) : a = b := by
  omega

/-- The space of a kind: kind 4 is kind 0, and every kind above 2 is the pool. -/
def spaceOf (k : Nat) : Nat := if k = 4 then 0 else if k ≤ 2 then k else 3

theorem regionOf_regs {off c o : Nat} (h : regionOf off = .regs c o) :
    0x10000000 ≤ off ∧ c = (off - 0x10000000) / 0x100000 ∧ o = off % 0x100000 ∧ o < 0x80000 := by
  unfold regionOf at h
  simp only at h
  repeat' split at h
  all_goals first | (cases h; done) | skip
  all_goals (injection h with h1 h2; subst h1; subst h2; refine ⟨?_, rfl, rfl, ?_⟩ <;> omega)

theorem regionOf_acc {off c o : Nat} (h : regionOf off = .acc c o) :
    0x30000000 ≤ off ∧ c = (off - 0x30000000) / 0x100000 ∧ o = off % 0x100000 ∧ o < 0x80000 := by
  unfold regionOf at h
  simp only at h
  repeat' split at h
  all_goals first | (cases h; done) | skip
  all_goals (injection h with h1 h2; subst h1; subst h2; refine ⟨?_, rfl, rfl, ?_⟩ <;> omega)

/-- The byte that was stored is read. -/
theorem memByte_memSetByte_same (s : State) (kind off : Nat) (b : Byte) : memByte (memSetByte s kind off b) kind off = b := by
  unfold memByte memSetByte
  split
  · simp
  · simp
  · cases h : regionOf off <;> simp [wordByte_wordSetByte]
  · simp
  · simp

/-- A byte at another offset of the same kind stays. -/
theorem memByte_memSetByte_other (s : State) (kind off a : Nat) (b : Byte) (h : a ≠ off) :
    memByte (memSetByte s kind off b) kind a = memByte s kind a := by
  unfold memByte memSetByte
  split
  · simp [storeGet_storeSet_other _ _ _ _ h]
  · simp [storeGet_storeSet_other _ _ _ _ h]
  · cases hr : regionOf off with
    | regs c o =>
      cases ha : regionOf a with
      | regs c' o' =>
        obtain ⟨p1, p2, p3, p4⟩ := regionOf_regs hr
        obtain ⟨q1, q2, q3, q4⟩ := regionOf_regs ha
        simp only
        by_cases hk : c' * 131072 + o' / 4 = c * 131072 + o / 4
        · rw [hk, storeGet_storeSet_same, wordByte_wordSetByte]
          rw [if_neg]
          intro hm
          exact h (place_inj q1 p1 (by rw [← q2, ← q3, ← p2, ← p3]; exact hk) (by rw [← q3]; exact q4) (by rw [← p3]; exact p4)
            (by rw [← q3, ← p3]; exact hm) (by decide))
        · rw [storeGet_storeSet_other _ _ _ _ hk]
      | _ => rfl
    | acc c o =>
      cases ha : regionOf a with
      | acc c' o' =>
        obtain ⟨p1, p2, p3, p4⟩ := regionOf_acc hr
        obtain ⟨q1, q2, q3, q4⟩ := regionOf_acc ha
        simp only
        by_cases hk : c' * 131072 + o' / 4 = c * 131072 + o / 4
        · rw [hk, storeGet_storeSet_same, wordByte_wordSetByte]
          rw [if_neg]
          intro hm
          exact h (place_inj q1 p1 (by rw [← q2, ← q3, ← p2, ← p3]; exact hk) (by rw [← q3]; exact q4) (by rw [← p3]; exact p4)
            (by rw [← q3, ← p3]; exact hm) (by decide))
        · rw [storeGet_storeSet_other _ _ _ _ hk]
      | _ => rfl
    | _ => cases ha : regionOf a <;> simp [storeGet_storeSet_other _ _ _ _ h]
  · simp [storeGet_storeSet_other _ _ _ _ h]
  · simp [storeGet_storeSet_other _ _ _ _ h]

/-- A byte of another space stays. -/
theorem memByte_memSetByte_space (s : State) (kind kind' off a : Nat) (b : Byte) (h : spaceOf kind' ≠ spaceOf kind) :
    memByte (memSetByte s kind off b) kind' a = memByte s kind' a := by
  rcases kind with _ | _ | _ | _ | _ | n <;> rcases kind' with _ | _ | _ | _ | _ | m <;>
    first
    | (simp [spaceOf] at h; done)
    | rfl
    | (simp only [memSetByte, memByte]; split <;> rfl)

/-- Bytes that are stored leave every place outside their range alone. -/
theorem memByte_storeBytes_outside (l : List Byte) : ∀ (s : State) (kind off a : Nat), (a < off ∨ off + l.length ≤ a) →
    memByte (storeBytes s kind off l) kind a = memByte s kind a := by
  induction l with
  | nil => intro s kind off a _; rfl
  | cons b r ih =>
    intro s kind off a h
    simp only [List.length_cons] at h
    rw [storeBytes, ih _ _ _ _ (by omega), memByte_memSetByte_other _ _ _ _ _ (by omega)]

/-- Bytes that are stored leave every other space alone. -/
theorem memByte_storeBytes_space (l : List Byte) : ∀ (s : State) (kind kind' off a : Nat), spaceOf kind' ≠ spaceOf kind →
    memByte (storeBytes s kind off l) kind' a = memByte s kind' a := by
  induction l with
  | nil => intro s kind kind' off a _; rfl
  | cons b r ih =>
    intro s kind kind' off a h
    rw [storeBytes, ih _ _ _ _ _ h, memByte_memSetByte_space _ _ _ _ _ _ h]

/-- Byte i of the bytes that are stored is read at the i-th place. -/
theorem memByte_storeBytes_at (l : List Byte) : ∀ (s : State) (kind off i : Nat) (b : Byte), l[i]? = some b →
    memByte (storeBytes s kind off l) kind (off + i) = b := by
  induction l with
  | nil => intro s kind off i b h; simp at h
  | cons c r ih =>
    intro s kind off i b h
    rw [storeBytes]
    cases i with
    | zero =>
      simp at h; subst h
      rw [memByte_storeBytes_outside _ _ _ _ _ (by omega)]
      exact memByte_memSetByte_same _ _ _ _
    | succ j =>
      have := ih (memSetByte s kind off c) kind (off + 1) j b (by simpa using h)
      rw [show off + (j + 1) = off + 1 + j by omega]
      exact this

/-- A write of memory that reaches its place reads back as its bytes, and as before elsewhere: memByte looks only at the spaces. -/
theorem memByte_writeMem (s : State) (kind off : Nat) (l : List Byte) (kind' a : Nat) (h : kind = 3 → s.cxlUp = true) :
    memByte (writeMem s kind off l) kind' a = memByte (storeBytes s kind off l) kind' a := by
  have hu : (kind == 3 && !s.cxlUp) = false := by
    by_cases hk : kind = 3
    · simp [hk, h hk]
    · simp [hk]
  unfold writeMem wakeLines
  simp only [hu, Bool.false_eq_true, if_false]
  split <;> rfl

/-- A write to the pool while its link is down leaves every byte of memory alone (15 R327). -/
theorem memByte_writeMem_down (s : State) (off : Nat) (l : List Byte) (kind' a : Nat) (h : s.cxlUp = false) :
    memByte (writeMem s 3 off l) kind' a = memByte s kind' a := by
  simp only [writeMem, linkError, countError, sbRecord, h, beq_self_eq_true, Bool.not_false, Bool.and_self, if_true]
  split <;> rfl

end Sys2Proof.Laws
end

