-- ==== Sys2Proof/Laws/PerInstr.lean ====
section
/-! SUPPORT. What holds of every instruction as syntax, constructor by constructor. -/
namespace Sys2Proof.Laws.Shape

/-- An instruction has a word exactly if it has a format, and a step of a unit has no register operands (02 R23, Table 16). -/
def Statement (i : Instr) : Prop := (encode i).isSome = i.fmt.isSome ∧ (i.fmt.isSome = false → i.opnds = [])

theorem lit (p : BitVec 25) : Statement (.lit p) := ⟨rfl, nofun⟩

theorem ix (e : BitVec 1) (d : BitVec 2) (f : BitVec 1) (a : BitVec 2) (g : BitVec 1) (b : BitVec 2) : Statement (.ix e d f a g b) := ⟨rfl, nofun⟩

theorem bra (h : BitVec 2) (p : BitVec 19) : Statement (.bra h p) := ⟨rfl, nofun⟩

theorem brany (k : BitVec 4) (h : BitVec 2) (p : BitVec 19) : Statement (.brany k h p) := ⟨rfl, nofun⟩

theorem brall (k : BitVec 4) (h : BitVec 2) (p : BitVec 19) : Statement (.brall k h p) := ⟨rfl, nofun⟩

theorem brnone (k : BitVec 4) (h : BitVec 2) (p : BitVec 19) : Statement (.brnone k h p) := ⟨rfl, nofun⟩

theorem call (h : BitVec 2) (p : BitVec 19) : Statement (.call h p) := ⟨rfl, nofun⟩

theorem jmpr (d : BitVec 7) (a : BitVec 7) : Statement (.jmpr d a) := ⟨rfl, nofun⟩

theorem ret (a : BitVec 7) : Statement (.ret a) := ⟨rfl, nofun⟩

theorem winb (a : BitVec 7) (i : BitVec 11) : Statement (.winb a i) := ⟨rfl, nofun⟩

theorem sysc (d : BitVec 7) (c : BitVec 18) : Statement (.sysc d c) := ⟨rfl, nofun⟩

theorem hcall (d : BitVec 7) (c : BitVec 18) : Statement (.hcall d c) := ⟨rfl, nofun⟩

theorem trap (d : BitVec 7) (c : BitVec 18) : Statement (.trap d c) := ⟨rfl, nofun⟩

theorem csrr (d : BitVec 7) (c : BitVec 11) : Statement (.csrr d c) := ⟨rfl, nofun⟩

theorem csrw (d : BitVec 7) (c : BitVec 11) (a : BitVec 7) : Statement (.csrw d c a) := ⟨rfl, nofun⟩

theorem publ (d : BitVec 7) (a : BitVec 7) (b : BitVec 7) : Statement (.publ d a b) := ⟨rfl, nofun⟩

theorem iadd (d : BitVec 7) (a : BitVec 7) (b : BitVec 7) (f : BitVec 4) : Statement (.iadd d a b f) := ⟨rfl, nofun⟩

theorem isub (d : BitVec 7) (a : BitVec 7) (b : BitVec 7) (f : BitVec 4) : Statement (.isub d a b f) := ⟨rfl, nofun⟩

theorem imul (d : BitVec 7) (a : BitVec 7) (b : BitVec 7) (f : BitVec 4) : Statement (.imul d a b f) := ⟨rfl, nofun⟩

theorem imulh (d : BitVec 7) (a : BitVec 7) (b : BitVec 7) (f : BitVec 4) : Statement (.imulh d a b f) := ⟨rfl, nofun⟩

theorem imad (d : BitVec 7) (a : BitVec 7) (b : BitVec 7) (f : BitVec 4) : Statement (.imad d a b f) := ⟨rfl, nofun⟩

theorem idiv (d : BitVec 7) (a : BitVec 7) (b : BitVec 7) (l : BitVec 4) : Statement (.idiv d a b l) := ⟨rfl, nofun⟩

theorem irem (d : BitVec 7) (a : BitVec 7) (b : BitVec 7) (l : BitVec 4) : Statement (.irem d a b l) := ⟨rfl, nofun⟩

theorem imnx (d : BitVec 7) (a : BitVec 7) (b : BitVec 7) (m : BitVec 1) (t : BitVec 2) : Statement (.imnx d a b m t) := ⟨rfl, nofun⟩

theorem and (d : BitVec 7) (a : BitVec 7) (b : BitVec 7) (f : BitVec 2) : Statement (.and d a b f) := ⟨rfl, nofun⟩

theorem or (d : BitVec 7) (a : BitVec 7) (b : BitVec 7) (f : BitVec 2) : Statement (.or d a b f) := ⟨rfl, nofun⟩

theorem xor (d : BitVec 7) (a : BitVec 7) (b : BitVec 7) (f : BitVec 2) : Statement (.xor d a b f) := ⟨rfl, nofun⟩

theorem andn (d : BitVec 7) (a : BitVec 7) (b : BitVec 7) (f : BitVec 2) : Statement (.andn d a b f) := ⟨rfl, nofun⟩

theorem shl (d : BitVec 7) (a : BitVec 7) (b : BitVec 7) (f : BitVec 2) : Statement (.shl d a b f) := ⟨rfl, nofun⟩

theorem shr (d : BitVec 7) (a : BitVec 7) (b : BitVec 7) (f : BitVec 2) : Statement (.shr d a b f) := ⟨rfl, nofun⟩

theorem sra (d : BitVec 7) (a : BitVec 7) (b : BitVec 7) (f : BitVec 2) : Statement (.sra d a b f) := ⟨rfl, nofun⟩

theorem rot (d : BitVec 7) (a : BitVec 7) (b : BitVec 7) (f : BitVec 2) : Statement (.rot d a b f) := ⟨rfl, nofun⟩

theorem bits (d : BitVec 7) (a : BitVec 7) (f : BitVec 3) : Statement (.bits d a f) := ⟨rfl, nofun⟩

theorem bfx (d : BitVec 7) (a : BitVec 7) (b : BitVec 7) (f : BitVec 1) : Statement (.bfx d a b f) := ⟨rfl, nofun⟩

theorem bfi (d : BitVec 7) (a : BitVec 7) (b : BitVec 7) : Statement (.bfi d a b) := ⟨rfl, nofun⟩

theorem icmp (d : BitVec 7) (a : BitVec 7) (b : BitVec 7) (t : BitVec 2) (c : BitVec 2) : Statement (.icmp d a b t c) := ⟨rfl, nofun⟩

theorem sel (d : BitVec 7) (a : BitVec 7) (b : BitVec 7) (k : BitVec 4) : Statement (.sel d a b k) := ⟨rfl, nofun⟩

theorem mov (d : BitVec 7) (a : BitVec 7) (f : BitVec 1) : Statement (.mov d a f) := ⟨rfl, nofun⟩

theorem iaddi (d : BitVec 7) (a : BitVec 7) (i : BitVec 11) : Statement (.iaddi d a i) := ⟨rfl, nofun⟩

theorem andi (d : BitVec 7) (a : BitVec 7) (i : BitVec 11) : Statement (.andi d a i) := ⟨rfl, nofun⟩

theorem ori (d : BitVec 7) (a : BitVec 7) (i : BitVec 11) : Statement (.ori d a i) := ⟨rfl, nofun⟩

theorem xori (d : BitVec 7) (a : BitVec 7) (i : BitVec 11) : Statement (.xori d a i) := ⟨rfl, nofun⟩

theorem shfti (d : BitVec 7) (a : BitVec 7) (o : BitVec 2) (w : BitVec 1) (c : BitVec 6) : Statement (.shfti d a o w c) := ⟨rfl, nofun⟩

theorem icmpi (d : BitVec 7) (a : BitVec 7) (c : BitVec 3) (v : BitVec 8) : Statement (.icmpi d a c v) := ⟨rfl, nofun⟩

theorem movi (d : BitVec 7) (i : BitVec 11) : Statement (.movi d i) := ⟨rfl, nofun⟩

theorem abset (n : BitVec 3) (a : BitVec 7) (h : BitVec 1) (i : BitVec 10) : Statement (.abset n a h i) := ⟨rfl, nofun⟩

theorem aadd (d : BitVec 7) (a : BitVec 7) (b : BitVec 7) (e : BitVec 2) (s : BitVec 2) : Statement (.aadd d a b e s) := ⟨rfl, nofun⟩

theorem i64 (d : BitVec 7) (a : BitVec 7) (b : BitVec 7) (f : BitVec 3) : Statement (.i64 d a b f) := ⟨rfl, nofun⟩

theorem fadd (d : BitVec 7) (a : BitVec 7) (b : BitVec 7) (r : BitVec 2) : Statement (.fadd d a b r) := ⟨rfl, nofun⟩

theorem fsub (d : BitVec 7) (a : BitVec 7) (b : BitVec 7) (r : BitVec 2) : Statement (.fsub d a b r) := ⟨rfl, nofun⟩

theorem fmul (d : BitVec 7) (a : BitVec 7) (b : BitVec 7) (r : BitVec 2) : Statement (.fmul d a b r) := ⟨rfl, nofun⟩

theorem ffma (d : BitVec 7) (a : BitVec 7) (b : BitVec 7) (r : BitVec 2) : Statement (.ffma d a b r) := ⟨rfl, nofun⟩

theorem fmin (d : BitVec 7) (a : BitVec 7) (b : BitVec 7) (f : BitVec 1) : Statement (.fmin d a b f) := ⟨rfl, nofun⟩

theorem fmax (d : BitVec 7) (a : BitVec 7) (b : BitVec 7) (f : BitVec 1) : Statement (.fmax d a b f) := ⟨rfl, nofun⟩

theorem fcmp (d : BitVec 7) (a : BitVec 7) (b : BitVec 7) (c : BitVec 3) : Statement (.fcmp d a b c) := ⟨rfl, nofun⟩

theorem fsgn (d : BitVec 7) (a : BitVec 7) (b : BitVec 7) (f : BitVec 4) : Statement (.fsgn d a b f) := ⟨rfl, nofun⟩

theorem frcp (d : BitVec 7) (a : BitVec 7) (l : BitVec 4) : Statement (.frcp d a l) := ⟨rfl, nofun⟩

theorem frsq (d : BitVec 7) (a : BitVec 7) (l : BitVec 4) : Statement (.frsq d a l) := ⟨rfl, nofun⟩

theorem fexp2 (d : BitVec 7) (a : BitVec 7) (l : BitVec 4) : Statement (.fexp2 d a l) := ⟨rfl, nofun⟩

theorem flog2 (d : BitVec 7) (a : BitVec 7) (l : BitVec 4) : Statement (.flog2 d a l) := ⟨rfl, nofun⟩

theorem fsin (d : BitVec 7) (a : BitVec 7) (l : BitVec 4) : Statement (.fsin d a l) := ⟨rfl, nofun⟩

theorem fcos (d : BitVec 7) (a : BitVec 7) (l : BitVec 4) : Statement (.fcos d a l) := ⟨rfl, nofun⟩

theorem ftanh (d : BitVec 7) (a : BitVec 7) (l : BitVec 4) : Statement (.ftanh d a l) := ⟨rfl, nofun⟩

theorem fcvt (d : BitVec 7) (a : BitVec 7) (s : BitVec 3) (t : BitVec 3) (n : BitVec 1) (j : BitVec 2) (r : BitVec 2) : Statement (.fcvt d a s t n j r) := ⟨rfl, nofun⟩

theorem fcvts (d : BitVec 7) (a : BitVec 7) (b : BitVec 7) (t : BitVec 2) (r : BitVec 2) : Statement (.fcvts d a b t r) := ⟨rfl, nofun⟩

theorem hadd2 (d : BitVec 7) (a : BitVec 7) (b : BitVec 7) (f : BitVec 1) (r : BitVec 2) : Statement (.hadd2 d a b f r) := ⟨rfl, nofun⟩

theorem hmul2 (d : BitVec 7) (a : BitVec 7) (b : BitVec 7) (f : BitVec 1) (r : BitVec 2) : Statement (.hmul2 d a b f r) := ⟨rfl, nofun⟩

theorem hfma2 (d : BitVec 7) (a : BitVec 7) (b : BitVec 7) (f : BitVec 1) (r : BitVec 2) : Statement (.hfma2 d a b f r) := ⟨rfl, nofun⟩

theorem dot4 (d : BitVec 7) (a : BitVec 7) (b : BitVec 7) (f : BitVec 4) : Statement (.dot4 d a b f) := ⟨rfl, nofun⟩

theorem fscl (d : BitVec 7) (a : BitVec 7) (b : BitVec 7) (r : BitVec 2) : Statement (.fscl d a b r) := ⟨rfl, nofun⟩

theorem frnd (d : BitVec 7) (a : BitVec 7) (f : BitVec 4) : Statement (.frnd d a f) := ⟨rfl, nofun⟩

theorem fic (d : BitVec 7) (a : BitVec 7) (f : BitVec 4) : Statement (.fic d a f) := ⟨rfl, nofun⟩

theorem shfl (d : BitVec 7) (a : BitVec 7) (b : BitVec 7) (f : BitVec 4) : Statement (.shfl d a b f) := ⟨rfl, nofun⟩

theorem vote (d : BitVec 7) (a : BitVec 7) (f : BitVec 4) : Statement (.vote d a f) := ⟨rfl, nofun⟩

theorem rdce (d : BitVec 7) (a : BitVec 7) (f : BitVec 4) : Statement (.rdce d a f) := ⟨rfl, nofun⟩

theorem scan (d : BitVec 7) (a : BitVec 7) (f : BitVec 4) : Statement (.scan d a f) := ⟨rfl, nofun⟩

theorem kop (d : BitVec 7) (a : BitVec 7) (b : BitVec 7) (f : BitVec 4) : Statement (.kop d a b f) := ⟨rfl, nofun⟩

theorem kemRd (d : BitVec 7) : Statement (.kemRd d) := ⟨rfl, nofun⟩

theorem kemSet (a : BitVec 7) : Statement (.kemSet a) := ⟨rfl, nofun⟩

theorem kemAnd (a : BitVec 7) : Statement (.kemAnd a) := ⟨rfl, nofun⟩

theorem kemAndn (a : BitVec 7) : Statement (.kemAndn a) := ⟨rfl, nofun⟩

theorem kemSwap (d : BitVec 7) (a : BitVec 7) : Statement (.kemSwap d a) := ⟨rfl, nofun⟩

theorem kcnt (d : BitVec 7) (a : BitVec 7) (f : BitVec 4) : Statement (.kcnt d a f) := ⟨rfl, nofun⟩

theorem bcst (d : BitVec 7) (a : BitVec 7) (b : BitVec 7) (f : BitVec 1) : Statement (.bcst d a b f) := ⟨rfl, nofun⟩

theorem ld (d : BitVec 7) (a : BitVec 7) (n : BitVec 3) (s : BitVec 3) (h : BitVec 1) (l : BitVec 4) : Statement (.ld d a n s h l) := ⟨rfl, nofun⟩

theorem st (d : BitVec 7) (a : BitVec 7) (n : BitVec 3) (s : BitVec 3) (h : BitVec 1) : Statement (.st d a n s h) := ⟨rfl, nofun⟩

theorem lds (d : BitVec 7) (a : BitVec 7) (n : BitVec 3) (s : BitVec 3) (h : BitVec 1) (l : BitVec 4) : Statement (.lds d a n s h l) := ⟨rfl, nofun⟩

theorem sts (d : BitVec 7) (a : BitVec 7) (n : BitVec 3) (s : BitVec 3) (h : BitVec 1) : Statement (.sts d a n s h) := ⟨rfl, nofun⟩

theorem ldx (d : BitVec 7) (a : BitVec 7) (o : BitVec 5) (s : BitVec 2) (n : BitVec 3) : Statement (.ldx d a o s n) := ⟨rfl, nofun⟩

theorem stx (d : BitVec 7) (a : BitVec 7) (o : BitVec 5) (s : BitVec 2) (n : BitVec 3) : Statement (.stx d a o s n) := ⟨rfl, nofun⟩

theorem waitl (d : BitVec 7) (a : BitVec 7) (o : BitVec 5) (s : BitVec 1) (n : BitVec 3) : Statement (.waitl d a o s n) := ⟨rfl, nofun⟩

theorem prefL1 (a : BitVec 7) (n : BitVec 3) (h : BitVec 1) : Statement (.prefL1 a n h) := ⟨rfl, nofun⟩

theorem prefL2 (a : BitVec 7) (n : BitVec 3) (h : BitVec 1) : Statement (.prefL2 a n h) := ⟨rfl, nofun⟩

theorem atadd (d : BitVec 7) (a : BitVec 7) (b : BitVec 7) (n : BitVec 3) (w : BitVec 1) : Statement (.atadd d a b n w) := ⟨rfl, nofun⟩

theorem atsmin (d : BitVec 7) (a : BitVec 7) (b : BitVec 7) (n : BitVec 3) (w : BitVec 1) : Statement (.atsmin d a b n w) := ⟨rfl, nofun⟩

theorem atsmax (d : BitVec 7) (a : BitVec 7) (b : BitVec 7) (n : BitVec 3) (w : BitVec 1) : Statement (.atsmax d a b n w) := ⟨rfl, nofun⟩

theorem atnmin (d : BitVec 7) (a : BitVec 7) (b : BitVec 7) (n : BitVec 3) (w : BitVec 1) : Statement (.atnmin d a b n w) := ⟨rfl, nofun⟩

theorem atnmax (d : BitVec 7) (a : BitVec 7) (b : BitVec 7) (n : BitVec 3) (w : BitVec 1) : Statement (.atnmax d a b n w) := ⟨rfl, nofun⟩

theorem atand (d : BitVec 7) (a : BitVec 7) (b : BitVec 7) (n : BitVec 3) (w : BitVec 1) : Statement (.atand d a b n w) := ⟨rfl, nofun⟩

theorem ator (d : BitVec 7) (a : BitVec 7) (b : BitVec 7) (n : BitVec 3) (w : BitVec 1) : Statement (.ator d a b n w) := ⟨rfl, nofun⟩

theorem atxor (d : BitVec 7) (a : BitVec 7) (b : BitVec 7) (n : BitVec 3) (w : BitVec 1) : Statement (.atxor d a b n w) := ⟨rfl, nofun⟩

theorem atxch (d : BitVec 7) (a : BitVec 7) (b : BitVec 7) (n : BitVec 3) (w : BitVec 1) : Statement (.atxch d a b n w) := ⟨rfl, nofun⟩

theorem atcas (d : BitVec 7) (a : BitVec 7) (b : BitVec 7) (n : BitVec 3) (w : BitVec 1) : Statement (.atcas d a b n w) := ⟨rfl, nofun⟩

theorem atfadd (d : BitVec 7) (a : BitVec 7) (b : BitVec 7) (n : BitVec 3) : Statement (.atfadd d a b n) := ⟨rfl, nofun⟩

theorem atbadd2 (d : BitVec 7) (a : BitVec 7) (b : BitVec 7) (n : BitVec 3) : Statement (.atbadd2 d a b n) := ⟨rfl, nofun⟩

theorem kacq (d : BitVec 7) (a : BitVec 7) (i : BitVec 11) : Statement (.kacq d a i) := ⟨rfl, nofun⟩

theorem krel (d : BitVec 7) (a : BitVec 7) (i : BitVec 11) : Statement (.krel d a i) := ⟨rfl, nofun⟩

theorem fence (o : BitVec 5) : Statement (.fence o) := ⟨rfl, nofun⟩

theorem fencePubb (a : BitVec 7) (o : BitVec 5) (n : BitVec 3) : Statement (.fencePubb a o n) := ⟨rfl, nofun⟩

theorem bar (d : BitVec 7) (v : BitVec 2) (n : BitVec 4) : Statement (.bar d v n) := ⟨rfl, nofun⟩

theorem xcp (d : BitVec 7) (s : BitVec 1) : Statement (.xcp d s) := ⟨rfl, nofun⟩

theorem xcpd (d : BitVec 7) (a : BitVec 7) : Statement (.xcpd d a) := ⟨rfl, nofun⟩

theorem yieldc (k : BitVec 4) (h : BitVec 2) (p : BitVec 19) : Statement (.yieldc k h p) := ⟨rfl, nofun⟩

theorem spop (d : BitVec 7) (r : BitVec 7) : Statement (.spop d r) := ⟨rfl, nofun⟩

theorem spopOpen (d : BitVec 7) (r : BitVec 7) : Statement (.spopOpen d r) := ⟨rfl, nofun⟩

theorem srel (d : BitVec 7) (r : BitVec 7) (b : BitVec 7) : Statement (.srel d r b) := ⟨rfl, nofun⟩

theorem srelFree (d : BitVec 7) (r : BitVec 7) (b : BitVec 7) : Statement (.srelFree d r b) := ⟨rfl, nofun⟩

theorem mbrd (s : BitVec 2) : Statement (.mbrd s) := ⟨rfl, nofun⟩

theorem mbrdTry (s : BitVec 2) : Statement (.mbrdTry s) := ⟨rfl, nofun⟩

theorem jpost (d : BitVec 7) (s : BitVec 2) (b : BitVec 7) : Statement (.jpost d s b) := ⟨rfl, nofun⟩

theorem evsig (d : BitVec 7) (a : BitVec 7) (b : BitVec 7) : Statement (.evsig d a b) := ⟨rfl, nofun⟩

theorem evsigSet (d : BitVec 7) (a : BitVec 7) (b : BitVec 7) : Statement (.evsigSet d a b) := ⟨rfl, nofun⟩

theorem evsigRd (d : BitVec 7) (a : BitVec 7) : Statement (.evsigRd d a) := ⟨rfl, nofun⟩

theorem taga (d : BitVec 7) (a : BitVec 7) (b : BitVec 7) : Statement (.taga d a b) := ⟨rfl, nofun⟩

theorem tagf (d : BitVec 7) (a : BitVec 7) : Statement (.tagf d a) := ⟨rfl, nofun⟩

theorem meet (d : BitVec 7) (a : BitVec 7) (b : BitVec 7) : Statement (.meet d a b) := ⟨rfl, nofun⟩

theorem ttrdy (d : BitVec 7) (a : BitVec 7) : Statement (.ttrdy d a) := ⟨rfl, nofun⟩

theorem tileTld (t : BitVec 4) (a : BitVec 7) (n : BitVec 3) : Statement (.tileTld t a n) := ⟨rfl, nofun⟩

theorem tileTst (t : BitVec 4) (a : BitVec 7) (n : BitVec 3) : Statement (.tileTst t a n) := ⟨rfl, nofun⟩

theorem mma (d : BitVec 3) (a : BitVec 4) (b : BitVec 4) (f : BitVec 2) : Statement (.mma d a b f) := ⟨rfl, nofun⟩

theorem mjob (d : BitVec 7) (a : BitVec 7) (b : BitVec 7) : Statement (.mjob d a b) := ⟨rfl, nofun⟩

theorem mjobWait (d : BitVec 7) : Statement (.mjobWait d) := ⟨rfl, nofun⟩

theorem mjobCancel (d : BitVec 7) : Statement (.mjobCancel d) := ⟨rfl, nofun⟩

theorem accZero (d : BitVec 3) : Statement (.accZero d) := ⟨rfl, nofun⟩

theorem accDrain (d : BitVec 3) (a : BitVec 7) (n : BitVec 3) : Statement (.accDrain d a n) := ⟨rfl, nofun⟩

theorem accCvt (d : BitVec 3) (a : BitVec 7) (n : BitVec 3) : Statement (.accCvt d a n) := ⟨rfl, nofun⟩

theorem accMove (d : BitVec 3) (a : BitVec 3) : Statement (.accMove d a) := ⟨rfl, nofun⟩

theorem longLatencyResult (n : Nat) : Statement (.longLatencyResult n) := ⟨rfl, fun _ => rfl⟩

theorem pageWalkComplete (unit : Nat) (r : WalkReq) : Statement (.pageWalkComplete unit r) := ⟨rfl, fun _ => rfl⟩

theorem remoteAccess (r : RemoteReq) : Statement (.remoteAccess r) := ⟨rfl, fun _ => rfl⟩

theorem devmodeWrite (v : BitVec 64) : Statement (.devmodeWrite v) := ⟨rfl, fun _ => rfl⟩

theorem l2pinPin (v : BitVec 64) : Statement (.l2pinPin v) := ⟨rfl, fun _ => rfl⟩

theorem l2pinUnpin (v : BitVec 64) : Statement (.l2pinUnpin v) := ⟨rfl, fun _ => rfl⟩

theorem tlbiAll (v : BitVec 64) : Statement (.tlbiAll v) := ⟨rfl, fun _ => rfl⟩

theorem tlbiPage (v : BitVec 64) : Statement (.tlbiPage v) := ⟨rfl, fun _ => rfl⟩

theorem tlbigAll (v : BitVec 64) : Statement (.tlbigAll v) := ⟨rfl, fun _ => rfl⟩

theorem tlbigPage (v : BitVec 64) : Statement (.tlbigPage v) := ⟨rfl, fun _ => rfl⟩

theorem celadd (v : BitVec 64) : Statement (.celadd v) := ⟨rfl, fun _ => rfl⟩

theorem celtake (d : BitVec 7) : Statement (.celtake d) := ⟨rfl, fun _ => rfl⟩

theorem copyQueueSlotTake (core : Nat) (queue : Nat) : Statement (.copyQueueSlotTake core queue) := ⟨rfl, fun _ => rfl⟩

theorem copyComplete (core : Nat) (copy : Nat) : Statement (.copyComplete core copy) := ⟨rfl, fun _ => rfl⟩

theorem copyHalt (core : Nat) (copy : Nat) : Statement (.copyHalt core copy) := ⟨rfl, fun _ => rfl⟩

theorem faultLogEntryWrite (core : Nat) : Statement (.faultLogEntryWrite core) := ⟨rfl, fun _ => rfl⟩

theorem xqcfgWrite (v : BitVec 64) : Statement (.xqcfgWrite v) := ⟨rfl, fun _ => rfl⟩

theorem xfres (v : BitVec 64) : Statement (.xfres v) := ⟨rfl, fun _ => rfl⟩

theorem matrixCommandExecute (cluster : Nat) : Statement (.matrixCommandExecute cluster) := ⟨rfl, fun _ => rfl⟩

theorem walkerRecordWrite (cluster : Nat) : Statement (.walkerRecordWrite cluster) := ⟨rfl, fun _ => rfl⟩

theorem matrixSlotStage (cluster : Nat) : Statement (.matrixSlotStage cluster) := ⟨rfl, fun _ => rfl⟩

theorem matrixStepComplete (cluster : Nat) : Statement (.matrixStepComplete cluster) := ⟨rfl, fun _ => rfl⟩

theorem mtagtWrite (v : BitVec 64) : Statement (.mtagtWrite v) := ⟨rfl, fun _ => rfl⟩

theorem contribution (n : Nat) : Statement (.contribution n) := ⟨rfl, fun _ => rfl⟩

theorem roundResultWritten (part : Nat) (tag : Nat) : Statement (.roundResultWritten part tag) := ⟨rfl, fun _ => rfl⟩

theorem orphanTimeout (part : Nat) (tag : Nat) : Statement (.orphanTimeout part tag) := ⟨rfl, fun _ => rfl⟩

theorem meetAnswer (n : Nat) : Statement (.meetAnswer n) := ⟨rfl, fun _ => rfl⟩

theorem tagFreeingComplete (part : Nat) (tag : Nat) : Statement (.tagFreeingComplete part tag) := ⟨rfl, fun _ => rfl⟩

theorem tileChunkSend (part : Nat) (entry : Nat) : Statement (.tileChunkSend part entry) := ⟨rfl, fun _ => rfl⟩

theorem firingPairLanded (part : Nat) (entry : Nat) : Statement (.firingPairLanded part entry) := ⟨rfl, fun _ => rfl⟩

theorem arrivalRetry (n : Nat) : Statement (.arrivalRetry n) := ⟨rfl, fun _ => rfl⟩

theorem landingArrival (a : Arrival) : Statement (.landingArrival a) := ⟨rfl, fun _ => rfl⟩

theorem spillRefetch (part : Nat) : Statement (.spillRefetch part) := ⟨rfl, fun _ => rfl⟩

theorem landfree (v : BitVec 64) : Statement (.landfree v) := ⟨rfl, fun _ => rfl⟩

theorem tlaunch (v : BitVec 64) : Statement (.tlaunch v) := ⟨rfl, fun _ => rfl⟩

theorem operatorNop (o : OpFields) : Statement (.operatorNop o) := ⟨rfl, fun _ => rfl⟩

theorem operatorGemm (o : OpFields) : Statement (.operatorGemm o) := ⟨rfl, fun _ => rfl⟩

theorem operatorAdd (o : OpFields) : Statement (.operatorAdd o) := ⟨rfl, fun _ => rfl⟩

theorem operatorBias (o : OpFields) : Statement (.operatorBias o) := ⟨rfl, fun _ => rfl⟩

theorem operatorAct (o : OpFields) : Statement (.operatorAct o) := ⟨rfl, fun _ => rfl⟩

theorem operatorRnorm (o : OpFields) : Statement (.operatorRnorm o) := ⟨rfl, fun _ => rfl⟩

theorem operatorSoftmax (o : OpFields) : Statement (.operatorSoftmax o) := ⟨rfl, fun _ => rfl⟩

theorem operatorCopy (o : OpFields) : Statement (.operatorCopy o) := ⟨rfl, fun _ => rfl⟩

theorem operatorAllred (o : OpFields) : Statement (.operatorAllred o) := ⟨rfl, fun _ => rfl⟩

theorem operatorAlltoall (o : OpFields) : Statement (.operatorAlltoall o) := ⟨rfl, fun _ => rfl⟩

theorem operatorWait (o : OpFields) : Statement (.operatorWait o) := ⟨rfl, fun _ => rfl⟩

theorem operatorSig (o : OpFields) : Statement (.operatorSig o) := ⟨rfl, fun _ => rfl⟩

theorem operatorSel (o : OpFields) : Statement (.operatorSel o) := ⟨rfl, fun _ => rfl⟩

theorem operatorCall (o : OpFields) : Statement (.operatorCall o) := ⟨rfl, fun _ => rfl⟩

theorem operatorFence (o : OpFields) : Statement (.operatorFence o) := ⟨rfl, fun _ => rfl⟩

theorem operatorEnd (o : OpFields) : Statement (.operatorEnd o) := ⟨rfl, fun _ => rfl⟩

theorem operatorReserved (opc : BitVec 8) (o : OpFields) : Statement (.operatorReserved opc o) := ⟨rfl, fun _ => rfl⟩

theorem jobPost (part : Nat) : Statement (.jobPost part) := ⟨rfl, fun _ => rfl⟩

theorem operatingPointStable (part : Nat) : Statement (.operatingPointStable part) := ⟨rfl, fun _ => rfl⟩

theorem remoteEventSignal (r : RemoteSignal) : Statement (.remoteEventSignal r) := ⟨rfl, fun _ => rfl⟩

theorem wake (w : WakeMsg) : Statement (.wake w) := ⟨rfl, fun _ => rfl⟩

theorem queueEnable (q : Nat) (v : BitVec 64) : Statement (.queueEnable q v) := ⟨rfl, fun _ => rfl⟩

theorem queueDisable (q : Nat) (v : BitVec 64) : Statement (.queueDisable q v) := ⟨rfl, fun _ => rfl⟩

theorem queueRun (q : Nat) (v : BitVec 64) : Statement (.queueRun q v) := ⟨rfl, fun _ => rfl⟩

theorem queueHalt (q : Nat) (v : BitVec 64) : Statement (.queueHalt q v) := ⟨rfl, fun _ => rfl⟩

theorem packetNop (p : Packet) : Statement (.packetNop p) := ⟨rfl, fun _ => rfl⟩

theorem nopwrap (p : Packet) : Statement (.nopwrap p) := ⟨rfl, fun _ => rfl⟩

theorem indirect (p : Packet) : Statement (.indirect p) := ⟨rfl, fun _ => rfl⟩

theorem packetWait (p : Packet) : Statement (.packetWait p) := ⟨rfl, fun _ => rfl⟩

theorem waitReevaluate (q : Nat) : Statement (.waitReevaluate q) := ⟨rfl, fun _ => rfl⟩

theorem waitTimeout (q : Nat) : Statement (.waitTimeout q) := ⟨rfl, fun _ => rfl⟩

theorem pred (p : Packet) : Statement (.pred p) := ⟨rfl, fun _ => rfl⟩

theorem loop (p : Packet) : Statement (.loop p) := ⟨rfl, fun _ => rfl⟩

theorem ffence (p : Packet) : Statement (.ffence p) := ⟨rfl, fun _ => rfl⟩

theorem packetWrite (p : Packet) : Statement (.packetWrite p) := ⟨rfl, fun _ => rfl⟩

theorem packetEvsig (p : Packet) : Statement (.packetEvsig p) := ⟨rfl, fun _ => rfl⟩

theorem runops (p : Packet) : Statement (.runops p) := ⟨rfl, fun _ => rfl⟩

theorem runopsComplete (q : Nat) : Statement (.runopsComplete q) := ⟨rfl, fun _ => rfl⟩

theorem report (p : Packet) : Statement (.report p) := ⟨rfl, fun _ => rfl⟩

theorem packetReserved (p : Packet) : Statement (.packetReserved p) := ⟨rfl, fun _ => rfl⟩

theorem qpPeriodStart (q : Nat) : Statement (.qpPeriodStart q) := ⟨rfl, fun _ => rfl⟩

theorem qpOverrun (q : Nat) : Statement (.qpOverrun q) := ⟨rfl, fun _ => rfl⟩

theorem tellerServe (cluster : Nat) : Statement (.tellerServe cluster) := ⟨rfl, fun _ => rfl⟩

theorem waitlWake (n : Nat) : Statement (.waitlWake n) := ⟨rfl, fun _ => rfl⟩

theorem ctxopSave (v : BitVec 64) : Statement (.ctxopSave v) := ⟨rfl, fun _ => rfl⟩

theorem ctxopRestore (v : BitVec 64) : Statement (.ctxopRestore v) := ⟨rfl, fun _ => rfl⟩

theorem ctxopDrop (v : BitVec 64) : Statement (.ctxopDrop v) := ⟨rfl, fun _ => rfl⟩

theorem debugHalt (n : Nat) : Statement (.debugHalt n) := ⟨rfl, fun _ => rfl⟩

theorem debugResume (n : Nat) : Statement (.debugResume n) := ⟨rfl, fun _ => rfl⟩

theorem slotChange (core : Nat) : Statement (.slotChange core) := ⟨rfl, fun _ => rfl⟩

theorem teamPark (core : Nat) (team : Nat) : Statement (.teamPark core team) := ⟨rfl, fun _ => rfl⟩

theorem hardPark (core : Nat) (team : Nat) : Statement (.hardPark core team) := ⟨rfl, fun _ => rfl⟩

theorem vacate (v : BitVec 64) : Statement (.vacate v) := ⟨rfl, fun _ => rfl⟩

theorem drainHalfDeadline (core : Nat) (team : Nat) : Statement (.drainHalfDeadline core team) := ⟨rfl, fun _ => rfl⟩

theorem drainBoundarySave (core : Nat) (team : Nat) : Statement (.drainBoundarySave core team) := ⟨rfl, fun _ => rfl⟩

theorem drainDeadline (core : Nat) (team : Nat) : Statement (.drainDeadline core team) := ⟨rfl, fun _ => rfl⟩

theorem partitionStart (v : BitVec 64) : Statement (.partitionStart v) := ⟨rfl, fun _ => rfl⟩

theorem partitionEnd (v : BitVec 64) : Statement (.partitionEnd v) := ⟨rfl, fun _ => rfl⟩

theorem featenWrite (v : BitVec 64) : Statement (.featenWrite v) := ⟨rfl, fun _ => rfl⟩

theorem pubwinWrite (v : BitVec 64) : Statement (.pubwinWrite v) := ⟨rfl, fun _ => rfl⟩

theorem pubnextWrite (v : BitVec 64) : Statement (.pubnextWrite v) := ⟨rfl, fun _ => rfl⟩

theorem ccast (v : BitVec 64) : Statement (.ccast v) := ⟨rfl, fun _ => rfl⟩

theorem multicastReceive (m : CastMsg) : Statement (.multicastReceive m) := ⟨rfl, fun _ => rfl⟩

theorem multicastAnswer (part : Nat) (peer : Nat) (answer : BitVec 8) : Statement (.multicastAnswer part peer answer) := ⟨rfl, fun _ => rfl⟩

theorem rdmaWrite (m : RdmaMsg) : Statement (.rdmaWrite m) := ⟨rfl, fun _ => rfl⟩

theorem roceRefusedOperation (m : RdmaMsg) : Statement (.roceRefusedOperation m) := ⟨rfl, fun _ => rfl⟩

theorem linkChange (port : Nat) (up : Bool) : Statement (.linkChange port up) := ⟨rfl, fun _ => rfl⟩

theorem coldStart (b : BootInput) : Statement (.coldStart b) := ⟨rfl, fun _ => rfl⟩

theorem warmStart (b : BootInput) : Statement (.warmStart b) := ⟨rfl, fun _ => rfl⟩

theorem sbctlFreeze (v : BitVec 64) : Statement (.sbctlFreeze v) := ⟨rfl, fun _ => rfl⟩

theorem sbstatUnfreeze (v : BitVec 64) : Statement (.sbstatUnfreeze v) := ⟨rfl, fun _ => rfl⟩

theorem registerWrite (r : RegTarget) (v : BitVec 64) : Statement (.registerWrite r v) := ⟨rfl, fun _ => rfl⟩

theorem hostMemoryAccess (a : HostAccess) : Statement (.hostMemoryAccess a) := ⟨rfl, fun _ => rfl⟩

theorem xflogWrite (v : BitVec 64) : Statement (.xflogWrite v) := ⟨rfl, fun _ => rfl⟩

theorem srseedWrite (v : BitVec 64) : Statement (.srseedWrite v) := ⟨rfl, fun _ => rfl⟩

theorem tctlWrite (t : BitVec 4) (v : BitVec 64) : Statement (.tctlWrite t v) := ⟨rfl, fun _ => rfl⟩

theorem mdcfgWrite (v : BitVec 64) : Statement (.mdcfgWrite v) := ⟨rfl, fun _ => rfl⟩

theorem kbaseWrite (v : BitVec 64) : Statement (.kbaseWrite v) := ⟨rfl, fun _ => rfl⟩

theorem shdctlAdd (v : BitVec 64) : Statement (.shdctlAdd v) := ⟨rfl, fun _ => rfl⟩

theorem shdctlRemove (v : BitVec 64) : Statement (.shdctlRemove v) := ⟨rfl, fun _ => rfl⟩

theorem pbadd (v : BitVec 64) : Statement (.pbadd v) := ⟨rfl, fun _ => rfl⟩

theorem nop : Statement .nop := ⟨rfl, nofun⟩

theorem stop : Statement .stop := ⟨rfl, nofun⟩

theorem yield : Statement .yield := ⟨rfl, nofun⟩

theorem bkpt : Statement .bkpt := ⟨rfl, nofun⟩

theorem rte : Statement .rte := ⟨rfl, nofun⟩

theorem profileTransitionComplete : Statement .profileTransitionComplete := ⟨rfl, fun _ => rfl⟩

theorem cellarRelease : Statement .cellarRelease := ⟨rfl, fun _ => rfl⟩

theorem throttleStep : Statement .throttleStep := ⟨rfl, fun _ => rfl⟩

theorem thermalTrip : Statement .thermalTrip := ⟨rfl, fun _ => rfl⟩

end Sys2Proof.Laws.Shape
end

