-- ==== Sys2Proof/Laws/State.lean ====
section
/-! SUPPORT. The fields of the state after each update: one lemma per field and update, so that no proof unfolds a record update.
The first group of lemmas is true by unfolding the update; the second names the fields that an update changes. -/
namespace Sys2Proof.Laws
open Sys2Proof Sys2Proof.Machine

@[simp] theorem setGroup_hbm (s : State) (id : GroupId) (g : Group) : (s.setGroup id g).hbm = s.hbm := rfl
@[simp] theorem setGroup_win (s : State) (id : GroupId) (g : Group) : (s.setGroup id g).win = s.win := rfl
@[simp] theorem setGroup_vregs (s : State) (id : GroupId) (g : Group) : (s.setGroup id g).vregs = s.vregs := rfl
@[simp] theorem setGroup_sregs (s : State) (id : GroupId) (g : Group) : (s.setGroup id g).sregs = s.sregs := rfl
@[simp] theorem setGroup_accs (s : State) (id : GroupId) (g : Group) : (s.setGroup id g).accs = s.accs := rfl
@[simp] theorem setGroup_lpddr (s : State) (id : GroupId) (g : Group) : (s.setGroup id g).lpddr = s.lpddr := rfl
@[simp] theorem setGroup_cxl (s : State) (id : GroupId) (g : Group) : (s.setGroup id g).cxl = s.cxl := rfl
@[simp] theorem setGroup_icache (s : State) (id : GroupId) (g : Group) : (s.setGroup id g).icache = s.icache := rfl
@[simp] theorem setGroup_poison (s : State) (id : GroupId) (g : Group) : (s.setGroup id g).poison = s.poison := rfl
@[simp] theorem setGroup_teams (s : State) (id : GroupId) (g : Group) : (s.setGroup id g).teams = s.teams := rfl
@[simp] theorem setGroup_cores (s : State) (id : GroupId) (g : Group) : (s.setGroup id g).cores = s.cores := rfl
@[simp] theorem setGroup_clusters (s : State) (id : GroupId) (g : Group) : (s.setGroup id g).clusters = s.clusters := rfl
@[simp] theorem setGroup_parts (s : State) (id : GroupId) (g : Group) : (s.setGroup id g).parts = s.parts := rfl
@[simp] theorem setGroup_live (s : State) (id : GroupId) (g : Group) : (s.setGroup id g).live = s.live := rfl
@[simp] theorem setGroup_events (s : State) (id : GroupId) (g : Group) : (s.setGroup id g).events = s.events := rfl
@[simp] theorem setGroup_keys (s : State) (id : GroupId) (g : Group) : (s.setGroup id g).keys = s.keys := rfl
@[simp] theorem setGroup_pairs (s : State) (id : GroupId) (g : Group) : (s.setGroup id g).pairs = s.pairs := rfl
@[simp] theorem setGroup_l2tlb (s : State) (id : GroupId) (g : Group) : (s.setGroup id g).l2tlb = s.l2tlb := rfl
@[simp] theorem setGroup_pinned (s : State) (id : GroupId) (g : Group) : (s.setGroup id g).pinned = s.pinned := rfl
@[simp] theorem setGroup_qepoch (s : State) (id : GroupId) (g : Group) : (s.setGroup id g).qepoch = s.qepoch := rfl
@[simp] theorem setGroup_cellar (s : State) (id : GroupId) (g : Group) : (s.setGroup id g).cellar = s.cellar := rfl
@[simp] theorem setGroup_queues (s : State) (id : GroupId) (g : Group) : (s.setGroup id g).queues = s.queues := rfl
@[simp] theorem setGroup_qserved (s : State) (id : GroupId) (g : Group) : (s.setGroup id g).qserved = s.qserved := rfl
@[simp] theorem setGroup_rings (s : State) (id : GroupId) (g : Group) : (s.setGroup id g).rings = s.rings := rfl
@[simp] theorem setGroup_edf (s : State) (id : GroupId) (g : Group) : (s.setGroup id g).edf = s.edf := rfl
@[simp] theorem setGroup_mintIn (s : State) (id : GroupId) (g : Group) : (s.setGroup id g).mintIn = s.mintIn := rfl
@[simp] theorem setGroup_nrctl (s : State) (id : GroupId) (g : Group) : (s.setGroup id g).nrctl = s.nrctl := rfl
@[simp] theorem setGroup_nrbase (s : State) (id : GroupId) (g : Group) : (s.setGroup id g).nrbase = s.nrbase := rfl
@[simp] theorem setGroup_slEn (s : State) (id : GroupId) (g : Group) : (s.setGroup id g).slEn = s.slEn := rfl
@[simp] theorem setGroup_slN (s : State) (id : GroupId) (g : Group) : (s.setGroup id g).slN = s.slN := rfl
@[simp] theorem setGroup_slPeriod (s : State) (id : GroupId) (g : Group) : (s.setGroup id g).slPeriod = s.slPeriod := rfl
@[simp] theorem setGroup_slDrn (s : State) (id : GroupId) (g : Group) : (s.setGroup id g).slDrn = s.slDrn := rfl
@[simp] theorem setGroup_slEpoch (s : State) (id : GroupId) (g : Group) : (s.setGroup id g).slEpoch = s.slEpoch := rfl
@[simp] theorem setGroup_slSel (s : State) (id : GroupId) (g : Group) : (s.setGroup id g).slSel = s.slSel := rfl
@[simp] theorem setGroup_vState (s : State) (id : GroupId) (g : Group) : (s.setGroup id g).vState = s.vState := rfl
@[simp] theorem setGroup_vRes (s : State) (id : GroupId) (g : Group) : (s.setGroup id g).vRes = s.vRes := rfl
@[simp] theorem setGroup_vHard (s : State) (id : GroupId) (g : Group) : (s.setGroup id g).vHard = s.vHard := rfl
@[simp] theorem setGroup_vSaved (s : State) (id : GroupId) (g : Group) : (s.setGroup id g).vSaved = s.vSaved := rfl
@[simp] theorem setGroup_vElapsed (s : State) (id : GroupId) (g : Group) : (s.setGroup id g).vElapsed = s.vElapsed := rfl
@[simp] theorem setGroup_varea (s : State) (id : GroupId) (g : Group) : (s.setGroup id g).varea = s.varea := rfl
@[simp] theorem setGroup_vevt (s : State) (id : GroupId) (g : Group) : (s.setGroup id g).vevt = s.vevt := rfl
@[simp] theorem setGroup_vacate (s : State) (id : GroupId) (g : Group) : (s.setGroup id g).vacate = s.vacate := rfl
@[simp] theorem setGroup_images (s : State) (id : GroupId) (g : Group) : (s.setGroup id g).images = s.images := rfl
@[simp] theorem setGroup_reserves (s : State) (id : GroupId) (g : Group) : (s.setGroup id g).reserves = s.reserves := rfl
@[simp] theorem setGroup_pbEn (s : State) (id : GroupId) (g : Group) : (s.setGroup id g).pbEn = s.pbEn := rfl
@[simp] theorem setGroup_pbBase (s : State) (id : GroupId) (g : Group) : (s.setGroup id g).pbBase = s.pbBase := rfl
@[simp] theorem setGroup_net (s : State) (id : GroupId) (g : Group) : (s.setGroup id g).net = s.net := rfl
@[simp] theorem setGroup_answers (s : State) (id : GroupId) (g : Group) : (s.setGroup id g).answers = s.answers := rfl
@[simp] theorem setGroup_answered (s : State) (id : GroupId) (g : Group) : (s.setGroup id g).answered = s.answered := rfl
@[simp] theorem setGroup_lastContr (s : State) (id : GroupId) (g : Group) : (s.setGroup id g).lastContr = s.lastContr := rfl
@[simp] theorem setGroup_nextXid (s : State) (id : GroupId) (g : Group) : (s.setGroup id g).nextXid = s.nextXid := rfl
@[simp] theorem setGroup_nextCopy (s : State) (id : GroupId) (g : Group) : (s.setGroup id g).nextCopy = s.nextCopy := rfl
@[simp] theorem setGroup_nextUid (s : State) (id : GroupId) (g : Group) : (s.setGroup id g).nextUid = s.nextUid := rfl
@[simp] theorem setGroup_arrivalsHeld (s : State) (id : GroupId) (g : Group) : (s.setGroup id g).arrivalsHeld = s.arrivalsHeld := rfl
@[simp] theorem setGroup_sent (s : State) (id : GroupId) (g : Group) : (s.setGroup id g).sent = s.sent := rfl
@[simp] theorem setGroup_naks (s : State) (id : GroupId) (g : Group) : (s.setGroup id g).naks = s.naks := rfl
@[simp] theorem setGroup_devLock (s : State) (id : GroupId) (g : Group) : (s.setGroup id g).devLock = s.devLock := rfl
@[simp] theorem setGroup_devBadw (s : State) (id : GroupId) (g : Group) : (s.setGroup id g).devBadw = s.devBadw := rfl
@[simp] theorem setGroup_devEccm (s : State) (id : GroupId) (g : Group) : (s.setGroup id g).devEccm = s.devEccm := rfl
@[simp] theorem setGroup_devVatx (s : State) (id : GroupId) (g : Group) : (s.setGroup id g).devVatx = s.devVatx := rfl
@[simp] theorem setGroup_devPinf (s : State) (id : GroupId) (g : Group) : (s.setGroup id g).devPinf = s.devPinf := rfl
@[simp] theorem setGroup_devPact (s : State) (id : GroupId) (g : Group) : (s.setGroup id g).devPact = s.devPact := rfl
@[simp] theorem setGroup_devProf (s : State) (id : GroupId) (g : Group) : (s.setGroup id g).devProf = s.devProf := rfl
@[simp] theorem setGroup_eccMode (s : State) (id : GroupId) (g : Group) : (s.setGroup id g).eccMode = s.eccMode := rfl
@[simp] theorem setGroup_featen (s : State) (id : GroupId) (g : Group) : (s.setGroup id g).featen = s.featen := rfl
@[simp] theorem setGroup_idLock (s : State) (id : GroupId) (g : Group) : (s.setGroup id g).idLock = s.idLock := rfl
@[simp] theorem setGroup_portUp (s : State) (id : GroupId) (g : Group) : (s.setGroup id g).portUp = s.portUp := rfl
@[simp] theorem setGroup_devNum (s : State) (id : GroupId) (g : Group) : (s.setGroup id g).devNum = s.devNum := rfl
@[simp] theorem setGroup_bootKind (s : State) (id : GroupId) (g : Group) : (s.setGroup id g).bootKind = s.bootKind := rfl
@[simp] theorem setGroup_bootRetrain (s : State) (id : GroupId) (g : Group) : (s.setGroup id g).bootRetrain = s.bootRetrain := rfl
@[simp] theorem setGroup_bootStep (s : State) (id : GroupId) (g : Group) : (s.setGroup id g).bootStep = s.bootStep := rfl
@[simp] theorem setGroup_bootFail (s : State) (id : GroupId) (g : Group) : (s.setGroup id g).bootFail = s.bootFail := rfl
@[simp] theorem setGroup_bfail (s : State) (id : GroupId) (g : Group) : (s.setGroup id g).bfail = s.bfail := rfl
@[simp] theorem setGroup_warmReq (s : State) (id : GroupId) (g : Group) : (s.setGroup id g).warmReq = s.warmReq := rfl
@[simp] theorem setGroup_poolSz (s : State) (id : GroupId) (g : Group) : (s.setGroup id g).poolSz = s.poolSz := rfl
@[simp] theorem setGroup_warms (s : State) (id : GroupId) (g : Group) : (s.setGroup id g).warms = s.warms := rfl
@[simp] theorem setGroup_starts (s : State) (id : GroupId) (g : Group) : (s.setGroup id g).starts = s.starts := rfl
@[simp] theorem setGroup_thrLvl (s : State) (id : GroupId) (g : Group) : (s.setGroup id g).thrLvl = s.thrLvl := rfl
@[simp] theorem setGroup_thrCur (s : State) (id : GroupId) (g : Group) : (s.setGroup id g).thrCur = s.thrCur := rfl
@[simp] theorem setGroup_thrHot (s : State) (id : GroupId) (g : Group) : (s.setGroup id g).thrHot = s.thrHot := rfl
@[simp] theorem setGroup_thrTemp (s : State) (id : GroupId) (g : Group) : (s.setGroup id g).thrTemp = s.thrTemp := rfl
@[simp] theorem setGroup_eccUe (s : State) (id : GroupId) (g : Group) : (s.setGroup id g).eccUe = s.eccUe := rfl
@[simp] theorem setGroup_eccCe (s : State) (id : GroupId) (g : Group) : (s.setGroup id g).eccCe = s.eccCe := rfl
@[simp] theorem setGroup_sbFrozen (s : State) (id : GroupId) (g : Group) : (s.setGroup id g).sbFrozen = s.sbFrozen := rfl
@[simp] theorem setGroup_sbFreeze (s : State) (id : GroupId) (g : Group) : (s.setGroup id g).sbFreeze = s.sbFreeze := rfl
@[simp] theorem setGroup_sbCause (s : State) (id : GroupId) (g : Group) : (s.setGroup id g).sbCause = s.sbCause := rfl
@[simp] theorem setGroup_sbDrop (s : State) (id : GroupId) (g : Group) : (s.setGroup id g).sbDrop = s.sbDrop := rfl
@[simp] theorem setGroup_sbWidx (s : State) (id : GroupId) (g : Group) : (s.setGroup id g).sbWidx = s.sbWidx := rfl
@[simp] theorem setGroup_strongbox (s : State) (id : GroupId) (g : Group) : (s.setGroup id g).strongbox = s.strongbox := rfl
@[simp] theorem setGroup_cxlUp (s : State) (id : GroupId) (g : Group) : (s.setGroup id g).cxlUp = s.cxlUp := rfl
@[simp] theorem setGroup_psPend (s : State) (id : GroupId) (g : Group) : (s.setGroup id g).psPend = s.psPend := rfl
@[simp] theorem setGroup_psLstat (s : State) (id : GroupId) (g : Group) : (s.setGroup id g).psLstat = s.psLstat := rfl
@[simp] theorem setGroup_psStatus (s : State) (id : GroupId) (g : Group) : (s.setGroup id g).psStatus = s.psStatus := rfl
@[simp] theorem setGroup_firstStart (s : State) (id : GroupId) (g : Group) : (s.setGroup id g).firstStart = s.firstStart := rfl
@[simp] theorem setGroup_inReset (s : State) (id : GroupId) (g : Group) : (s.setGroup id g).inReset = s.inReset := rfl
@[simp] theorem setGroup_time (s : State) (id : GroupId) (g : Group) : (s.setGroup id g).time = s.time := rfl
@[simp] theorem setGroup_cur (s : State) (id : GroupId) (g : Group) : (s.setGroup id g).cur = s.cur := rfl
@[simp] theorem setGroup_curPart (s : State) (id : GroupId) (g : Group) : (s.setGroup id g).curPart = s.curPart := rfl
@[simp] theorem setGroup_curStream (s : State) (id : GroupId) (g : Group) : (s.setGroup id g).curStream = s.curStream := rfl
@[simp] theorem setGroup_curQueue (s : State) (id : GroupId) (g : Group) : (s.setGroup id g).curQueue = s.curQueue := rfl
@[simp] theorem setGroup_agenda (s : State) (id : GroupId) (g : Group) : (s.setGroup id g).agenda = s.agenda := rfl
@[simp] theorem setGroup_fresh (s : State) (id : GroupId) (g : Group) : (s.setGroup id g).fresh = s.fresh := rfl
@[simp] theorem setGroup_turns (s : State) (id : GroupId) (g : Group) : (s.setGroup id g).turns = s.turns := rfl

@[simp] theorem modCore_hbm (s : State) (c : Nat) (f : Core → Core) : (s.modCore c f).hbm = s.hbm := rfl
@[simp] theorem modCore_win (s : State) (c : Nat) (f : Core → Core) : (s.modCore c f).win = s.win := rfl
@[simp] theorem modCore_vregs (s : State) (c : Nat) (f : Core → Core) : (s.modCore c f).vregs = s.vregs := rfl
@[simp] theorem modCore_sregs (s : State) (c : Nat) (f : Core → Core) : (s.modCore c f).sregs = s.sregs := rfl
@[simp] theorem modCore_accs (s : State) (c : Nat) (f : Core → Core) : (s.modCore c f).accs = s.accs := rfl
@[simp] theorem modCore_lpddr (s : State) (c : Nat) (f : Core → Core) : (s.modCore c f).lpddr = s.lpddr := rfl
@[simp] theorem modCore_cxl (s : State) (c : Nat) (f : Core → Core) : (s.modCore c f).cxl = s.cxl := rfl
@[simp] theorem modCore_icache (s : State) (c : Nat) (f : Core → Core) : (s.modCore c f).icache = s.icache := rfl
@[simp] theorem modCore_poison (s : State) (c : Nat) (f : Core → Core) : (s.modCore c f).poison = s.poison := rfl
@[simp] theorem modCore_groups (s : State) (c : Nat) (f : Core → Core) : (s.modCore c f).groups = s.groups := rfl
@[simp] theorem modCore_teams (s : State) (c : Nat) (f : Core → Core) : (s.modCore c f).teams = s.teams := rfl
@[simp] theorem modCore_clusters (s : State) (c : Nat) (f : Core → Core) : (s.modCore c f).clusters = s.clusters := rfl
@[simp] theorem modCore_parts (s : State) (c : Nat) (f : Core → Core) : (s.modCore c f).parts = s.parts := rfl
@[simp] theorem modCore_live (s : State) (c : Nat) (f : Core → Core) : (s.modCore c f).live = s.live := rfl
@[simp] theorem modCore_events (s : State) (c : Nat) (f : Core → Core) : (s.modCore c f).events = s.events := rfl
@[simp] theorem modCore_keys (s : State) (c : Nat) (f : Core → Core) : (s.modCore c f).keys = s.keys := rfl
@[simp] theorem modCore_pairs (s : State) (c : Nat) (f : Core → Core) : (s.modCore c f).pairs = s.pairs := rfl
@[simp] theorem modCore_l2tlb (s : State) (c : Nat) (f : Core → Core) : (s.modCore c f).l2tlb = s.l2tlb := rfl
@[simp] theorem modCore_pinned (s : State) (c : Nat) (f : Core → Core) : (s.modCore c f).pinned = s.pinned := rfl
@[simp] theorem modCore_qepoch (s : State) (c : Nat) (f : Core → Core) : (s.modCore c f).qepoch = s.qepoch := rfl
@[simp] theorem modCore_cellar (s : State) (c : Nat) (f : Core → Core) : (s.modCore c f).cellar = s.cellar := rfl
@[simp] theorem modCore_queues (s : State) (c : Nat) (f : Core → Core) : (s.modCore c f).queues = s.queues := rfl
@[simp] theorem modCore_qserved (s : State) (c : Nat) (f : Core → Core) : (s.modCore c f).qserved = s.qserved := rfl
@[simp] theorem modCore_rings (s : State) (c : Nat) (f : Core → Core) : (s.modCore c f).rings = s.rings := rfl
@[simp] theorem modCore_edf (s : State) (c : Nat) (f : Core → Core) : (s.modCore c f).edf = s.edf := rfl
@[simp] theorem modCore_mintIn (s : State) (c : Nat) (f : Core → Core) : (s.modCore c f).mintIn = s.mintIn := rfl
@[simp] theorem modCore_nrctl (s : State) (c : Nat) (f : Core → Core) : (s.modCore c f).nrctl = s.nrctl := rfl
@[simp] theorem modCore_nrbase (s : State) (c : Nat) (f : Core → Core) : (s.modCore c f).nrbase = s.nrbase := rfl
@[simp] theorem modCore_slEn (s : State) (c : Nat) (f : Core → Core) : (s.modCore c f).slEn = s.slEn := rfl
@[simp] theorem modCore_slN (s : State) (c : Nat) (f : Core → Core) : (s.modCore c f).slN = s.slN := rfl
@[simp] theorem modCore_slPeriod (s : State) (c : Nat) (f : Core → Core) : (s.modCore c f).slPeriod = s.slPeriod := rfl
@[simp] theorem modCore_slDrn (s : State) (c : Nat) (f : Core → Core) : (s.modCore c f).slDrn = s.slDrn := rfl
@[simp] theorem modCore_slEpoch (s : State) (c : Nat) (f : Core → Core) : (s.modCore c f).slEpoch = s.slEpoch := rfl
@[simp] theorem modCore_slSel (s : State) (c : Nat) (f : Core → Core) : (s.modCore c f).slSel = s.slSel := rfl
@[simp] theorem modCore_vState (s : State) (c : Nat) (f : Core → Core) : (s.modCore c f).vState = s.vState := rfl
@[simp] theorem modCore_vRes (s : State) (c : Nat) (f : Core → Core) : (s.modCore c f).vRes = s.vRes := rfl
@[simp] theorem modCore_vHard (s : State) (c : Nat) (f : Core → Core) : (s.modCore c f).vHard = s.vHard := rfl
@[simp] theorem modCore_vSaved (s : State) (c : Nat) (f : Core → Core) : (s.modCore c f).vSaved = s.vSaved := rfl
@[simp] theorem modCore_vElapsed (s : State) (c : Nat) (f : Core → Core) : (s.modCore c f).vElapsed = s.vElapsed := rfl
@[simp] theorem modCore_varea (s : State) (c : Nat) (f : Core → Core) : (s.modCore c f).varea = s.varea := rfl
@[simp] theorem modCore_vevt (s : State) (c : Nat) (f : Core → Core) : (s.modCore c f).vevt = s.vevt := rfl
@[simp] theorem modCore_vacate (s : State) (c : Nat) (f : Core → Core) : (s.modCore c f).vacate = s.vacate := rfl
@[simp] theorem modCore_images (s : State) (c : Nat) (f : Core → Core) : (s.modCore c f).images = s.images := rfl
@[simp] theorem modCore_reserves (s : State) (c : Nat) (f : Core → Core) : (s.modCore c f).reserves = s.reserves := rfl
@[simp] theorem modCore_pbEn (s : State) (c : Nat) (f : Core → Core) : (s.modCore c f).pbEn = s.pbEn := rfl
@[simp] theorem modCore_pbBase (s : State) (c : Nat) (f : Core → Core) : (s.modCore c f).pbBase = s.pbBase := rfl
@[simp] theorem modCore_net (s : State) (c : Nat) (f : Core → Core) : (s.modCore c f).net = s.net := rfl
@[simp] theorem modCore_answers (s : State) (c : Nat) (f : Core → Core) : (s.modCore c f).answers = s.answers := rfl
@[simp] theorem modCore_answered (s : State) (c : Nat) (f : Core → Core) : (s.modCore c f).answered = s.answered := rfl
@[simp] theorem modCore_lastContr (s : State) (c : Nat) (f : Core → Core) : (s.modCore c f).lastContr = s.lastContr := rfl
@[simp] theorem modCore_nextXid (s : State) (c : Nat) (f : Core → Core) : (s.modCore c f).nextXid = s.nextXid := rfl
@[simp] theorem modCore_nextCopy (s : State) (c : Nat) (f : Core → Core) : (s.modCore c f).nextCopy = s.nextCopy := rfl
@[simp] theorem modCore_nextUid (s : State) (c : Nat) (f : Core → Core) : (s.modCore c f).nextUid = s.nextUid := rfl
@[simp] theorem modCore_arrivalsHeld (s : State) (c : Nat) (f : Core → Core) : (s.modCore c f).arrivalsHeld = s.arrivalsHeld := rfl
@[simp] theorem modCore_sent (s : State) (c : Nat) (f : Core → Core) : (s.modCore c f).sent = s.sent := rfl
@[simp] theorem modCore_naks (s : State) (c : Nat) (f : Core → Core) : (s.modCore c f).naks = s.naks := rfl
@[simp] theorem modCore_devLock (s : State) (c : Nat) (f : Core → Core) : (s.modCore c f).devLock = s.devLock := rfl
@[simp] theorem modCore_devBadw (s : State) (c : Nat) (f : Core → Core) : (s.modCore c f).devBadw = s.devBadw := rfl
@[simp] theorem modCore_devEccm (s : State) (c : Nat) (f : Core → Core) : (s.modCore c f).devEccm = s.devEccm := rfl
@[simp] theorem modCore_devVatx (s : State) (c : Nat) (f : Core → Core) : (s.modCore c f).devVatx = s.devVatx := rfl
@[simp] theorem modCore_devPinf (s : State) (c : Nat) (f : Core → Core) : (s.modCore c f).devPinf = s.devPinf := rfl
@[simp] theorem modCore_devPact (s : State) (c : Nat) (f : Core → Core) : (s.modCore c f).devPact = s.devPact := rfl
@[simp] theorem modCore_devProf (s : State) (c : Nat) (f : Core → Core) : (s.modCore c f).devProf = s.devProf := rfl
@[simp] theorem modCore_eccMode (s : State) (c : Nat) (f : Core → Core) : (s.modCore c f).eccMode = s.eccMode := rfl
@[simp] theorem modCore_featen (s : State) (c : Nat) (f : Core → Core) : (s.modCore c f).featen = s.featen := rfl
@[simp] theorem modCore_idLock (s : State) (c : Nat) (f : Core → Core) : (s.modCore c f).idLock = s.idLock := rfl
@[simp] theorem modCore_portUp (s : State) (c : Nat) (f : Core → Core) : (s.modCore c f).portUp = s.portUp := rfl
@[simp] theorem modCore_devNum (s : State) (c : Nat) (f : Core → Core) : (s.modCore c f).devNum = s.devNum := rfl
@[simp] theorem modCore_bootKind (s : State) (c : Nat) (f : Core → Core) : (s.modCore c f).bootKind = s.bootKind := rfl
@[simp] theorem modCore_bootRetrain (s : State) (c : Nat) (f : Core → Core) : (s.modCore c f).bootRetrain = s.bootRetrain := rfl
@[simp] theorem modCore_bootStep (s : State) (c : Nat) (f : Core → Core) : (s.modCore c f).bootStep = s.bootStep := rfl
@[simp] theorem modCore_bootFail (s : State) (c : Nat) (f : Core → Core) : (s.modCore c f).bootFail = s.bootFail := rfl
@[simp] theorem modCore_bfail (s : State) (c : Nat) (f : Core → Core) : (s.modCore c f).bfail = s.bfail := rfl
@[simp] theorem modCore_warmReq (s : State) (c : Nat) (f : Core → Core) : (s.modCore c f).warmReq = s.warmReq := rfl
@[simp] theorem modCore_poolSz (s : State) (c : Nat) (f : Core → Core) : (s.modCore c f).poolSz = s.poolSz := rfl
@[simp] theorem modCore_warms (s : State) (c : Nat) (f : Core → Core) : (s.modCore c f).warms = s.warms := rfl
@[simp] theorem modCore_starts (s : State) (c : Nat) (f : Core → Core) : (s.modCore c f).starts = s.starts := rfl
@[simp] theorem modCore_thrLvl (s : State) (c : Nat) (f : Core → Core) : (s.modCore c f).thrLvl = s.thrLvl := rfl
@[simp] theorem modCore_thrCur (s : State) (c : Nat) (f : Core → Core) : (s.modCore c f).thrCur = s.thrCur := rfl
@[simp] theorem modCore_thrHot (s : State) (c : Nat) (f : Core → Core) : (s.modCore c f).thrHot = s.thrHot := rfl
@[simp] theorem modCore_thrTemp (s : State) (c : Nat) (f : Core → Core) : (s.modCore c f).thrTemp = s.thrTemp := rfl
@[simp] theorem modCore_eccUe (s : State) (c : Nat) (f : Core → Core) : (s.modCore c f).eccUe = s.eccUe := rfl
@[simp] theorem modCore_eccCe (s : State) (c : Nat) (f : Core → Core) : (s.modCore c f).eccCe = s.eccCe := rfl
@[simp] theorem modCore_sbFrozen (s : State) (c : Nat) (f : Core → Core) : (s.modCore c f).sbFrozen = s.sbFrozen := rfl
@[simp] theorem modCore_sbFreeze (s : State) (c : Nat) (f : Core → Core) : (s.modCore c f).sbFreeze = s.sbFreeze := rfl
@[simp] theorem modCore_sbCause (s : State) (c : Nat) (f : Core → Core) : (s.modCore c f).sbCause = s.sbCause := rfl
@[simp] theorem modCore_sbDrop (s : State) (c : Nat) (f : Core → Core) : (s.modCore c f).sbDrop = s.sbDrop := rfl
@[simp] theorem modCore_sbWidx (s : State) (c : Nat) (f : Core → Core) : (s.modCore c f).sbWidx = s.sbWidx := rfl
@[simp] theorem modCore_strongbox (s : State) (c : Nat) (f : Core → Core) : (s.modCore c f).strongbox = s.strongbox := rfl
@[simp] theorem modCore_cxlUp (s : State) (c : Nat) (f : Core → Core) : (s.modCore c f).cxlUp = s.cxlUp := rfl
@[simp] theorem modCore_psPend (s : State) (c : Nat) (f : Core → Core) : (s.modCore c f).psPend = s.psPend := rfl
@[simp] theorem modCore_psLstat (s : State) (c : Nat) (f : Core → Core) : (s.modCore c f).psLstat = s.psLstat := rfl
@[simp] theorem modCore_psStatus (s : State) (c : Nat) (f : Core → Core) : (s.modCore c f).psStatus = s.psStatus := rfl
@[simp] theorem modCore_firstStart (s : State) (c : Nat) (f : Core → Core) : (s.modCore c f).firstStart = s.firstStart := rfl
@[simp] theorem modCore_inReset (s : State) (c : Nat) (f : Core → Core) : (s.modCore c f).inReset = s.inReset := rfl
@[simp] theorem modCore_time (s : State) (c : Nat) (f : Core → Core) : (s.modCore c f).time = s.time := rfl
@[simp] theorem modCore_cur (s : State) (c : Nat) (f : Core → Core) : (s.modCore c f).cur = s.cur := rfl
@[simp] theorem modCore_curPart (s : State) (c : Nat) (f : Core → Core) : (s.modCore c f).curPart = s.curPart := rfl
@[simp] theorem modCore_curStream (s : State) (c : Nat) (f : Core → Core) : (s.modCore c f).curStream = s.curStream := rfl
@[simp] theorem modCore_curQueue (s : State) (c : Nat) (f : Core → Core) : (s.modCore c f).curQueue = s.curQueue := rfl
@[simp] theorem modCore_agenda (s : State) (c : Nat) (f : Core → Core) : (s.modCore c f).agenda = s.agenda := rfl
@[simp] theorem modCore_fresh (s : State) (c : Nat) (f : Core → Core) : (s.modCore c f).fresh = s.fresh := rfl
@[simp] theorem modCore_turns (s : State) (c : Nat) (f : Core → Core) : (s.modCore c f).turns = s.turns := rfl

@[simp] theorem modCluster_hbm (s : State) (c : Nat) (f : Cluster → Cluster) : (s.modCluster c f).hbm = s.hbm := rfl
@[simp] theorem modCluster_win (s : State) (c : Nat) (f : Cluster → Cluster) : (s.modCluster c f).win = s.win := rfl
@[simp] theorem modCluster_vregs (s : State) (c : Nat) (f : Cluster → Cluster) : (s.modCluster c f).vregs = s.vregs := rfl
@[simp] theorem modCluster_sregs (s : State) (c : Nat) (f : Cluster → Cluster) : (s.modCluster c f).sregs = s.sregs := rfl
@[simp] theorem modCluster_accs (s : State) (c : Nat) (f : Cluster → Cluster) : (s.modCluster c f).accs = s.accs := rfl
@[simp] theorem modCluster_lpddr (s : State) (c : Nat) (f : Cluster → Cluster) : (s.modCluster c f).lpddr = s.lpddr := rfl
@[simp] theorem modCluster_cxl (s : State) (c : Nat) (f : Cluster → Cluster) : (s.modCluster c f).cxl = s.cxl := rfl
@[simp] theorem modCluster_icache (s : State) (c : Nat) (f : Cluster → Cluster) : (s.modCluster c f).icache = s.icache := rfl
@[simp] theorem modCluster_poison (s : State) (c : Nat) (f : Cluster → Cluster) : (s.modCluster c f).poison = s.poison := rfl
@[simp] theorem modCluster_groups (s : State) (c : Nat) (f : Cluster → Cluster) : (s.modCluster c f).groups = s.groups := rfl
@[simp] theorem modCluster_teams (s : State) (c : Nat) (f : Cluster → Cluster) : (s.modCluster c f).teams = s.teams := rfl
@[simp] theorem modCluster_cores (s : State) (c : Nat) (f : Cluster → Cluster) : (s.modCluster c f).cores = s.cores := rfl
@[simp] theorem modCluster_parts (s : State) (c : Nat) (f : Cluster → Cluster) : (s.modCluster c f).parts = s.parts := rfl
@[simp] theorem modCluster_live (s : State) (c : Nat) (f : Cluster → Cluster) : (s.modCluster c f).live = s.live := rfl
@[simp] theorem modCluster_events (s : State) (c : Nat) (f : Cluster → Cluster) : (s.modCluster c f).events = s.events := rfl
@[simp] theorem modCluster_keys (s : State) (c : Nat) (f : Cluster → Cluster) : (s.modCluster c f).keys = s.keys := rfl
@[simp] theorem modCluster_pairs (s : State) (c : Nat) (f : Cluster → Cluster) : (s.modCluster c f).pairs = s.pairs := rfl
@[simp] theorem modCluster_l2tlb (s : State) (c : Nat) (f : Cluster → Cluster) : (s.modCluster c f).l2tlb = s.l2tlb := rfl
@[simp] theorem modCluster_pinned (s : State) (c : Nat) (f : Cluster → Cluster) : (s.modCluster c f).pinned = s.pinned := rfl
@[simp] theorem modCluster_qepoch (s : State) (c : Nat) (f : Cluster → Cluster) : (s.modCluster c f).qepoch = s.qepoch := rfl
@[simp] theorem modCluster_cellar (s : State) (c : Nat) (f : Cluster → Cluster) : (s.modCluster c f).cellar = s.cellar := rfl
@[simp] theorem modCluster_queues (s : State) (c : Nat) (f : Cluster → Cluster) : (s.modCluster c f).queues = s.queues := rfl
@[simp] theorem modCluster_qserved (s : State) (c : Nat) (f : Cluster → Cluster) : (s.modCluster c f).qserved = s.qserved := rfl
@[simp] theorem modCluster_rings (s : State) (c : Nat) (f : Cluster → Cluster) : (s.modCluster c f).rings = s.rings := rfl
@[simp] theorem modCluster_edf (s : State) (c : Nat) (f : Cluster → Cluster) : (s.modCluster c f).edf = s.edf := rfl
@[simp] theorem modCluster_mintIn (s : State) (c : Nat) (f : Cluster → Cluster) : (s.modCluster c f).mintIn = s.mintIn := rfl
@[simp] theorem modCluster_nrctl (s : State) (c : Nat) (f : Cluster → Cluster) : (s.modCluster c f).nrctl = s.nrctl := rfl
@[simp] theorem modCluster_nrbase (s : State) (c : Nat) (f : Cluster → Cluster) : (s.modCluster c f).nrbase = s.nrbase := rfl
@[simp] theorem modCluster_slEn (s : State) (c : Nat) (f : Cluster → Cluster) : (s.modCluster c f).slEn = s.slEn := rfl
@[simp] theorem modCluster_slN (s : State) (c : Nat) (f : Cluster → Cluster) : (s.modCluster c f).slN = s.slN := rfl
@[simp] theorem modCluster_slPeriod (s : State) (c : Nat) (f : Cluster → Cluster) : (s.modCluster c f).slPeriod = s.slPeriod := rfl
@[simp] theorem modCluster_slDrn (s : State) (c : Nat) (f : Cluster → Cluster) : (s.modCluster c f).slDrn = s.slDrn := rfl
@[simp] theorem modCluster_slEpoch (s : State) (c : Nat) (f : Cluster → Cluster) : (s.modCluster c f).slEpoch = s.slEpoch := rfl
@[simp] theorem modCluster_slSel (s : State) (c : Nat) (f : Cluster → Cluster) : (s.modCluster c f).slSel = s.slSel := rfl
@[simp] theorem modCluster_vState (s : State) (c : Nat) (f : Cluster → Cluster) : (s.modCluster c f).vState = s.vState := rfl
@[simp] theorem modCluster_vRes (s : State) (c : Nat) (f : Cluster → Cluster) : (s.modCluster c f).vRes = s.vRes := rfl
@[simp] theorem modCluster_vHard (s : State) (c : Nat) (f : Cluster → Cluster) : (s.modCluster c f).vHard = s.vHard := rfl
@[simp] theorem modCluster_vSaved (s : State) (c : Nat) (f : Cluster → Cluster) : (s.modCluster c f).vSaved = s.vSaved := rfl
@[simp] theorem modCluster_vElapsed (s : State) (c : Nat) (f : Cluster → Cluster) : (s.modCluster c f).vElapsed = s.vElapsed := rfl
@[simp] theorem modCluster_varea (s : State) (c : Nat) (f : Cluster → Cluster) : (s.modCluster c f).varea = s.varea := rfl
@[simp] theorem modCluster_vevt (s : State) (c : Nat) (f : Cluster → Cluster) : (s.modCluster c f).vevt = s.vevt := rfl
@[simp] theorem modCluster_vacate (s : State) (c : Nat) (f : Cluster → Cluster) : (s.modCluster c f).vacate = s.vacate := rfl
@[simp] theorem modCluster_images (s : State) (c : Nat) (f : Cluster → Cluster) : (s.modCluster c f).images = s.images := rfl
@[simp] theorem modCluster_reserves (s : State) (c : Nat) (f : Cluster → Cluster) : (s.modCluster c f).reserves = s.reserves := rfl
@[simp] theorem modCluster_pbEn (s : State) (c : Nat) (f : Cluster → Cluster) : (s.modCluster c f).pbEn = s.pbEn := rfl
@[simp] theorem modCluster_pbBase (s : State) (c : Nat) (f : Cluster → Cluster) : (s.modCluster c f).pbBase = s.pbBase := rfl
@[simp] theorem modCluster_net (s : State) (c : Nat) (f : Cluster → Cluster) : (s.modCluster c f).net = s.net := rfl
@[simp] theorem modCluster_answers (s : State) (c : Nat) (f : Cluster → Cluster) : (s.modCluster c f).answers = s.answers := rfl
@[simp] theorem modCluster_answered (s : State) (c : Nat) (f : Cluster → Cluster) : (s.modCluster c f).answered = s.answered := rfl
@[simp] theorem modCluster_lastContr (s : State) (c : Nat) (f : Cluster → Cluster) : (s.modCluster c f).lastContr = s.lastContr := rfl
@[simp] theorem modCluster_nextXid (s : State) (c : Nat) (f : Cluster → Cluster) : (s.modCluster c f).nextXid = s.nextXid := rfl
@[simp] theorem modCluster_nextCopy (s : State) (c : Nat) (f : Cluster → Cluster) : (s.modCluster c f).nextCopy = s.nextCopy := rfl
@[simp] theorem modCluster_nextUid (s : State) (c : Nat) (f : Cluster → Cluster) : (s.modCluster c f).nextUid = s.nextUid := rfl
@[simp] theorem modCluster_arrivalsHeld (s : State) (c : Nat) (f : Cluster → Cluster) : (s.modCluster c f).arrivalsHeld = s.arrivalsHeld := rfl
@[simp] theorem modCluster_sent (s : State) (c : Nat) (f : Cluster → Cluster) : (s.modCluster c f).sent = s.sent := rfl
@[simp] theorem modCluster_naks (s : State) (c : Nat) (f : Cluster → Cluster) : (s.modCluster c f).naks = s.naks := rfl
@[simp] theorem modCluster_devLock (s : State) (c : Nat) (f : Cluster → Cluster) : (s.modCluster c f).devLock = s.devLock := rfl
@[simp] theorem modCluster_devBadw (s : State) (c : Nat) (f : Cluster → Cluster) : (s.modCluster c f).devBadw = s.devBadw := rfl
@[simp] theorem modCluster_devEccm (s : State) (c : Nat) (f : Cluster → Cluster) : (s.modCluster c f).devEccm = s.devEccm := rfl
@[simp] theorem modCluster_devVatx (s : State) (c : Nat) (f : Cluster → Cluster) : (s.modCluster c f).devVatx = s.devVatx := rfl
@[simp] theorem modCluster_devPinf (s : State) (c : Nat) (f : Cluster → Cluster) : (s.modCluster c f).devPinf = s.devPinf := rfl
@[simp] theorem modCluster_devPact (s : State) (c : Nat) (f : Cluster → Cluster) : (s.modCluster c f).devPact = s.devPact := rfl
@[simp] theorem modCluster_devProf (s : State) (c : Nat) (f : Cluster → Cluster) : (s.modCluster c f).devProf = s.devProf := rfl
@[simp] theorem modCluster_eccMode (s : State) (c : Nat) (f : Cluster → Cluster) : (s.modCluster c f).eccMode = s.eccMode := rfl
@[simp] theorem modCluster_featen (s : State) (c : Nat) (f : Cluster → Cluster) : (s.modCluster c f).featen = s.featen := rfl
@[simp] theorem modCluster_idLock (s : State) (c : Nat) (f : Cluster → Cluster) : (s.modCluster c f).idLock = s.idLock := rfl
@[simp] theorem modCluster_portUp (s : State) (c : Nat) (f : Cluster → Cluster) : (s.modCluster c f).portUp = s.portUp := rfl
@[simp] theorem modCluster_devNum (s : State) (c : Nat) (f : Cluster → Cluster) : (s.modCluster c f).devNum = s.devNum := rfl
@[simp] theorem modCluster_bootKind (s : State) (c : Nat) (f : Cluster → Cluster) : (s.modCluster c f).bootKind = s.bootKind := rfl
@[simp] theorem modCluster_bootRetrain (s : State) (c : Nat) (f : Cluster → Cluster) : (s.modCluster c f).bootRetrain = s.bootRetrain := rfl
@[simp] theorem modCluster_bootStep (s : State) (c : Nat) (f : Cluster → Cluster) : (s.modCluster c f).bootStep = s.bootStep := rfl
@[simp] theorem modCluster_bootFail (s : State) (c : Nat) (f : Cluster → Cluster) : (s.modCluster c f).bootFail = s.bootFail := rfl
@[simp] theorem modCluster_bfail (s : State) (c : Nat) (f : Cluster → Cluster) : (s.modCluster c f).bfail = s.bfail := rfl
@[simp] theorem modCluster_warmReq (s : State) (c : Nat) (f : Cluster → Cluster) : (s.modCluster c f).warmReq = s.warmReq := rfl
@[simp] theorem modCluster_poolSz (s : State) (c : Nat) (f : Cluster → Cluster) : (s.modCluster c f).poolSz = s.poolSz := rfl
@[simp] theorem modCluster_warms (s : State) (c : Nat) (f : Cluster → Cluster) : (s.modCluster c f).warms = s.warms := rfl
@[simp] theorem modCluster_starts (s : State) (c : Nat) (f : Cluster → Cluster) : (s.modCluster c f).starts = s.starts := rfl
@[simp] theorem modCluster_thrLvl (s : State) (c : Nat) (f : Cluster → Cluster) : (s.modCluster c f).thrLvl = s.thrLvl := rfl
@[simp] theorem modCluster_thrCur (s : State) (c : Nat) (f : Cluster → Cluster) : (s.modCluster c f).thrCur = s.thrCur := rfl
@[simp] theorem modCluster_thrHot (s : State) (c : Nat) (f : Cluster → Cluster) : (s.modCluster c f).thrHot = s.thrHot := rfl
@[simp] theorem modCluster_thrTemp (s : State) (c : Nat) (f : Cluster → Cluster) : (s.modCluster c f).thrTemp = s.thrTemp := rfl
@[simp] theorem modCluster_eccUe (s : State) (c : Nat) (f : Cluster → Cluster) : (s.modCluster c f).eccUe = s.eccUe := rfl
@[simp] theorem modCluster_eccCe (s : State) (c : Nat) (f : Cluster → Cluster) : (s.modCluster c f).eccCe = s.eccCe := rfl
@[simp] theorem modCluster_sbFrozen (s : State) (c : Nat) (f : Cluster → Cluster) : (s.modCluster c f).sbFrozen = s.sbFrozen := rfl
@[simp] theorem modCluster_sbFreeze (s : State) (c : Nat) (f : Cluster → Cluster) : (s.modCluster c f).sbFreeze = s.sbFreeze := rfl
@[simp] theorem modCluster_sbCause (s : State) (c : Nat) (f : Cluster → Cluster) : (s.modCluster c f).sbCause = s.sbCause := rfl
@[simp] theorem modCluster_sbDrop (s : State) (c : Nat) (f : Cluster → Cluster) : (s.modCluster c f).sbDrop = s.sbDrop := rfl
@[simp] theorem modCluster_sbWidx (s : State) (c : Nat) (f : Cluster → Cluster) : (s.modCluster c f).sbWidx = s.sbWidx := rfl
@[simp] theorem modCluster_strongbox (s : State) (c : Nat) (f : Cluster → Cluster) : (s.modCluster c f).strongbox = s.strongbox := rfl
@[simp] theorem modCluster_cxlUp (s : State) (c : Nat) (f : Cluster → Cluster) : (s.modCluster c f).cxlUp = s.cxlUp := rfl
@[simp] theorem modCluster_psPend (s : State) (c : Nat) (f : Cluster → Cluster) : (s.modCluster c f).psPend = s.psPend := rfl
@[simp] theorem modCluster_psLstat (s : State) (c : Nat) (f : Cluster → Cluster) : (s.modCluster c f).psLstat = s.psLstat := rfl
@[simp] theorem modCluster_psStatus (s : State) (c : Nat) (f : Cluster → Cluster) : (s.modCluster c f).psStatus = s.psStatus := rfl
@[simp] theorem modCluster_firstStart (s : State) (c : Nat) (f : Cluster → Cluster) : (s.modCluster c f).firstStart = s.firstStart := rfl
@[simp] theorem modCluster_inReset (s : State) (c : Nat) (f : Cluster → Cluster) : (s.modCluster c f).inReset = s.inReset := rfl
@[simp] theorem modCluster_time (s : State) (c : Nat) (f : Cluster → Cluster) : (s.modCluster c f).time = s.time := rfl
@[simp] theorem modCluster_cur (s : State) (c : Nat) (f : Cluster → Cluster) : (s.modCluster c f).cur = s.cur := rfl
@[simp] theorem modCluster_curPart (s : State) (c : Nat) (f : Cluster → Cluster) : (s.modCluster c f).curPart = s.curPart := rfl
@[simp] theorem modCluster_curStream (s : State) (c : Nat) (f : Cluster → Cluster) : (s.modCluster c f).curStream = s.curStream := rfl
@[simp] theorem modCluster_curQueue (s : State) (c : Nat) (f : Cluster → Cluster) : (s.modCluster c f).curQueue = s.curQueue := rfl
@[simp] theorem modCluster_agenda (s : State) (c : Nat) (f : Cluster → Cluster) : (s.modCluster c f).agenda = s.agenda := rfl
@[simp] theorem modCluster_fresh (s : State) (c : Nat) (f : Cluster → Cluster) : (s.modCluster c f).fresh = s.fresh := rfl
@[simp] theorem modCluster_turns (s : State) (c : Nat) (f : Cluster → Cluster) : (s.modCluster c f).turns = s.turns := rfl

@[simp] theorem modPart_hbm (s : State) (p : Nat) (f : Partition → Partition) : (s.modPart p f).hbm = s.hbm := rfl
@[simp] theorem modPart_win (s : State) (p : Nat) (f : Partition → Partition) : (s.modPart p f).win = s.win := rfl
@[simp] theorem modPart_vregs (s : State) (p : Nat) (f : Partition → Partition) : (s.modPart p f).vregs = s.vregs := rfl
@[simp] theorem modPart_sregs (s : State) (p : Nat) (f : Partition → Partition) : (s.modPart p f).sregs = s.sregs := rfl
@[simp] theorem modPart_accs (s : State) (p : Nat) (f : Partition → Partition) : (s.modPart p f).accs = s.accs := rfl
@[simp] theorem modPart_lpddr (s : State) (p : Nat) (f : Partition → Partition) : (s.modPart p f).lpddr = s.lpddr := rfl
@[simp] theorem modPart_cxl (s : State) (p : Nat) (f : Partition → Partition) : (s.modPart p f).cxl = s.cxl := rfl
@[simp] theorem modPart_icache (s : State) (p : Nat) (f : Partition → Partition) : (s.modPart p f).icache = s.icache := rfl
@[simp] theorem modPart_poison (s : State) (p : Nat) (f : Partition → Partition) : (s.modPart p f).poison = s.poison := rfl
@[simp] theorem modPart_groups (s : State) (p : Nat) (f : Partition → Partition) : (s.modPart p f).groups = s.groups := rfl
@[simp] theorem modPart_teams (s : State) (p : Nat) (f : Partition → Partition) : (s.modPart p f).teams = s.teams := rfl
@[simp] theorem modPart_cores (s : State) (p : Nat) (f : Partition → Partition) : (s.modPart p f).cores = s.cores := rfl
@[simp] theorem modPart_clusters (s : State) (p : Nat) (f : Partition → Partition) : (s.modPart p f).clusters = s.clusters := rfl
@[simp] theorem modPart_live (s : State) (p : Nat) (f : Partition → Partition) : (s.modPart p f).live = s.live := rfl
@[simp] theorem modPart_events (s : State) (p : Nat) (f : Partition → Partition) : (s.modPart p f).events = s.events := rfl
@[simp] theorem modPart_keys (s : State) (p : Nat) (f : Partition → Partition) : (s.modPart p f).keys = s.keys := rfl
@[simp] theorem modPart_pairs (s : State) (p : Nat) (f : Partition → Partition) : (s.modPart p f).pairs = s.pairs := rfl
@[simp] theorem modPart_l2tlb (s : State) (p : Nat) (f : Partition → Partition) : (s.modPart p f).l2tlb = s.l2tlb := rfl
@[simp] theorem modPart_pinned (s : State) (p : Nat) (f : Partition → Partition) : (s.modPart p f).pinned = s.pinned := rfl
@[simp] theorem modPart_qepoch (s : State) (p : Nat) (f : Partition → Partition) : (s.modPart p f).qepoch = s.qepoch := rfl
@[simp] theorem modPart_cellar (s : State) (p : Nat) (f : Partition → Partition) : (s.modPart p f).cellar = s.cellar := rfl
@[simp] theorem modPart_queues (s : State) (p : Nat) (f : Partition → Partition) : (s.modPart p f).queues = s.queues := rfl
@[simp] theorem modPart_qserved (s : State) (p : Nat) (f : Partition → Partition) : (s.modPart p f).qserved = s.qserved := rfl
@[simp] theorem modPart_rings (s : State) (p : Nat) (f : Partition → Partition) : (s.modPart p f).rings = s.rings := rfl
@[simp] theorem modPart_edf (s : State) (p : Nat) (f : Partition → Partition) : (s.modPart p f).edf = s.edf := rfl
@[simp] theorem modPart_mintIn (s : State) (p : Nat) (f : Partition → Partition) : (s.modPart p f).mintIn = s.mintIn := rfl
@[simp] theorem modPart_nrctl (s : State) (p : Nat) (f : Partition → Partition) : (s.modPart p f).nrctl = s.nrctl := rfl
@[simp] theorem modPart_nrbase (s : State) (p : Nat) (f : Partition → Partition) : (s.modPart p f).nrbase = s.nrbase := rfl
@[simp] theorem modPart_slEn (s : State) (p : Nat) (f : Partition → Partition) : (s.modPart p f).slEn = s.slEn := rfl
@[simp] theorem modPart_slN (s : State) (p : Nat) (f : Partition → Partition) : (s.modPart p f).slN = s.slN := rfl
@[simp] theorem modPart_slPeriod (s : State) (p : Nat) (f : Partition → Partition) : (s.modPart p f).slPeriod = s.slPeriod := rfl
@[simp] theorem modPart_slDrn (s : State) (p : Nat) (f : Partition → Partition) : (s.modPart p f).slDrn = s.slDrn := rfl
@[simp] theorem modPart_slEpoch (s : State) (p : Nat) (f : Partition → Partition) : (s.modPart p f).slEpoch = s.slEpoch := rfl
@[simp] theorem modPart_slSel (s : State) (p : Nat) (f : Partition → Partition) : (s.modPart p f).slSel = s.slSel := rfl
@[simp] theorem modPart_vState (s : State) (p : Nat) (f : Partition → Partition) : (s.modPart p f).vState = s.vState := rfl
@[simp] theorem modPart_vRes (s : State) (p : Nat) (f : Partition → Partition) : (s.modPart p f).vRes = s.vRes := rfl
@[simp] theorem modPart_vHard (s : State) (p : Nat) (f : Partition → Partition) : (s.modPart p f).vHard = s.vHard := rfl
@[simp] theorem modPart_vSaved (s : State) (p : Nat) (f : Partition → Partition) : (s.modPart p f).vSaved = s.vSaved := rfl
@[simp] theorem modPart_vElapsed (s : State) (p : Nat) (f : Partition → Partition) : (s.modPart p f).vElapsed = s.vElapsed := rfl
@[simp] theorem modPart_varea (s : State) (p : Nat) (f : Partition → Partition) : (s.modPart p f).varea = s.varea := rfl
@[simp] theorem modPart_vevt (s : State) (p : Nat) (f : Partition → Partition) : (s.modPart p f).vevt = s.vevt := rfl
@[simp] theorem modPart_vacate (s : State) (p : Nat) (f : Partition → Partition) : (s.modPart p f).vacate = s.vacate := rfl
@[simp] theorem modPart_images (s : State) (p : Nat) (f : Partition → Partition) : (s.modPart p f).images = s.images := rfl
@[simp] theorem modPart_reserves (s : State) (p : Nat) (f : Partition → Partition) : (s.modPart p f).reserves = s.reserves := rfl
@[simp] theorem modPart_pbEn (s : State) (p : Nat) (f : Partition → Partition) : (s.modPart p f).pbEn = s.pbEn := rfl
@[simp] theorem modPart_pbBase (s : State) (p : Nat) (f : Partition → Partition) : (s.modPart p f).pbBase = s.pbBase := rfl
@[simp] theorem modPart_net (s : State) (p : Nat) (f : Partition → Partition) : (s.modPart p f).net = s.net := rfl
@[simp] theorem modPart_answers (s : State) (p : Nat) (f : Partition → Partition) : (s.modPart p f).answers = s.answers := rfl
@[simp] theorem modPart_answered (s : State) (p : Nat) (f : Partition → Partition) : (s.modPart p f).answered = s.answered := rfl
@[simp] theorem modPart_lastContr (s : State) (p : Nat) (f : Partition → Partition) : (s.modPart p f).lastContr = s.lastContr := rfl
@[simp] theorem modPart_nextXid (s : State) (p : Nat) (f : Partition → Partition) : (s.modPart p f).nextXid = s.nextXid := rfl
@[simp] theorem modPart_nextCopy (s : State) (p : Nat) (f : Partition → Partition) : (s.modPart p f).nextCopy = s.nextCopy := rfl
@[simp] theorem modPart_nextUid (s : State) (p : Nat) (f : Partition → Partition) : (s.modPart p f).nextUid = s.nextUid := rfl
@[simp] theorem modPart_arrivalsHeld (s : State) (p : Nat) (f : Partition → Partition) : (s.modPart p f).arrivalsHeld = s.arrivalsHeld := rfl
@[simp] theorem modPart_sent (s : State) (p : Nat) (f : Partition → Partition) : (s.modPart p f).sent = s.sent := rfl
@[simp] theorem modPart_naks (s : State) (p : Nat) (f : Partition → Partition) : (s.modPart p f).naks = s.naks := rfl
@[simp] theorem modPart_devLock (s : State) (p : Nat) (f : Partition → Partition) : (s.modPart p f).devLock = s.devLock := rfl
@[simp] theorem modPart_devBadw (s : State) (p : Nat) (f : Partition → Partition) : (s.modPart p f).devBadw = s.devBadw := rfl
@[simp] theorem modPart_devEccm (s : State) (p : Nat) (f : Partition → Partition) : (s.modPart p f).devEccm = s.devEccm := rfl
@[simp] theorem modPart_devVatx (s : State) (p : Nat) (f : Partition → Partition) : (s.modPart p f).devVatx = s.devVatx := rfl
@[simp] theorem modPart_devPinf (s : State) (p : Nat) (f : Partition → Partition) : (s.modPart p f).devPinf = s.devPinf := rfl
@[simp] theorem modPart_devPact (s : State) (p : Nat) (f : Partition → Partition) : (s.modPart p f).devPact = s.devPact := rfl
@[simp] theorem modPart_devProf (s : State) (p : Nat) (f : Partition → Partition) : (s.modPart p f).devProf = s.devProf := rfl
@[simp] theorem modPart_eccMode (s : State) (p : Nat) (f : Partition → Partition) : (s.modPart p f).eccMode = s.eccMode := rfl
@[simp] theorem modPart_featen (s : State) (p : Nat) (f : Partition → Partition) : (s.modPart p f).featen = s.featen := rfl
@[simp] theorem modPart_idLock (s : State) (p : Nat) (f : Partition → Partition) : (s.modPart p f).idLock = s.idLock := rfl
@[simp] theorem modPart_portUp (s : State) (p : Nat) (f : Partition → Partition) : (s.modPart p f).portUp = s.portUp := rfl
@[simp] theorem modPart_devNum (s : State) (p : Nat) (f : Partition → Partition) : (s.modPart p f).devNum = s.devNum := rfl
@[simp] theorem modPart_bootKind (s : State) (p : Nat) (f : Partition → Partition) : (s.modPart p f).bootKind = s.bootKind := rfl
@[simp] theorem modPart_bootRetrain (s : State) (p : Nat) (f : Partition → Partition) : (s.modPart p f).bootRetrain = s.bootRetrain := rfl
@[simp] theorem modPart_bootStep (s : State) (p : Nat) (f : Partition → Partition) : (s.modPart p f).bootStep = s.bootStep := rfl
@[simp] theorem modPart_bootFail (s : State) (p : Nat) (f : Partition → Partition) : (s.modPart p f).bootFail = s.bootFail := rfl
@[simp] theorem modPart_bfail (s : State) (p : Nat) (f : Partition → Partition) : (s.modPart p f).bfail = s.bfail := rfl
@[simp] theorem modPart_warmReq (s : State) (p : Nat) (f : Partition → Partition) : (s.modPart p f).warmReq = s.warmReq := rfl
@[simp] theorem modPart_poolSz (s : State) (p : Nat) (f : Partition → Partition) : (s.modPart p f).poolSz = s.poolSz := rfl
@[simp] theorem modPart_warms (s : State) (p : Nat) (f : Partition → Partition) : (s.modPart p f).warms = s.warms := rfl
@[simp] theorem modPart_starts (s : State) (p : Nat) (f : Partition → Partition) : (s.modPart p f).starts = s.starts := rfl
@[simp] theorem modPart_thrLvl (s : State) (p : Nat) (f : Partition → Partition) : (s.modPart p f).thrLvl = s.thrLvl := rfl
@[simp] theorem modPart_thrCur (s : State) (p : Nat) (f : Partition → Partition) : (s.modPart p f).thrCur = s.thrCur := rfl
@[simp] theorem modPart_thrHot (s : State) (p : Nat) (f : Partition → Partition) : (s.modPart p f).thrHot = s.thrHot := rfl
@[simp] theorem modPart_thrTemp (s : State) (p : Nat) (f : Partition → Partition) : (s.modPart p f).thrTemp = s.thrTemp := rfl
@[simp] theorem modPart_eccUe (s : State) (p : Nat) (f : Partition → Partition) : (s.modPart p f).eccUe = s.eccUe := rfl
@[simp] theorem modPart_eccCe (s : State) (p : Nat) (f : Partition → Partition) : (s.modPart p f).eccCe = s.eccCe := rfl
@[simp] theorem modPart_sbFrozen (s : State) (p : Nat) (f : Partition → Partition) : (s.modPart p f).sbFrozen = s.sbFrozen := rfl
@[simp] theorem modPart_sbFreeze (s : State) (p : Nat) (f : Partition → Partition) : (s.modPart p f).sbFreeze = s.sbFreeze := rfl
@[simp] theorem modPart_sbCause (s : State) (p : Nat) (f : Partition → Partition) : (s.modPart p f).sbCause = s.sbCause := rfl
@[simp] theorem modPart_sbDrop (s : State) (p : Nat) (f : Partition → Partition) : (s.modPart p f).sbDrop = s.sbDrop := rfl
@[simp] theorem modPart_sbWidx (s : State) (p : Nat) (f : Partition → Partition) : (s.modPart p f).sbWidx = s.sbWidx := rfl
@[simp] theorem modPart_strongbox (s : State) (p : Nat) (f : Partition → Partition) : (s.modPart p f).strongbox = s.strongbox := rfl
@[simp] theorem modPart_cxlUp (s : State) (p : Nat) (f : Partition → Partition) : (s.modPart p f).cxlUp = s.cxlUp := rfl
@[simp] theorem modPart_psPend (s : State) (p : Nat) (f : Partition → Partition) : (s.modPart p f).psPend = s.psPend := rfl
@[simp] theorem modPart_psLstat (s : State) (p : Nat) (f : Partition → Partition) : (s.modPart p f).psLstat = s.psLstat := rfl
@[simp] theorem modPart_psStatus (s : State) (p : Nat) (f : Partition → Partition) : (s.modPart p f).psStatus = s.psStatus := rfl
@[simp] theorem modPart_firstStart (s : State) (p : Nat) (f : Partition → Partition) : (s.modPart p f).firstStart = s.firstStart := rfl
@[simp] theorem modPart_inReset (s : State) (p : Nat) (f : Partition → Partition) : (s.modPart p f).inReset = s.inReset := rfl
@[simp] theorem modPart_time (s : State) (p : Nat) (f : Partition → Partition) : (s.modPart p f).time = s.time := rfl
@[simp] theorem modPart_cur (s : State) (p : Nat) (f : Partition → Partition) : (s.modPart p f).cur = s.cur := rfl
@[simp] theorem modPart_curPart (s : State) (p : Nat) (f : Partition → Partition) : (s.modPart p f).curPart = s.curPart := rfl
@[simp] theorem modPart_curStream (s : State) (p : Nat) (f : Partition → Partition) : (s.modPart p f).curStream = s.curStream := rfl
@[simp] theorem modPart_curQueue (s : State) (p : Nat) (f : Partition → Partition) : (s.modPart p f).curQueue = s.curQueue := rfl
@[simp] theorem modPart_agenda (s : State) (p : Nat) (f : Partition → Partition) : (s.modPart p f).agenda = s.agenda := rfl
@[simp] theorem modPart_fresh (s : State) (p : Nat) (f : Partition → Partition) : (s.modPart p f).fresh = s.fresh := rfl
@[simp] theorem modPart_turns (s : State) (p : Nat) (f : Partition → Partition) : (s.modPart p f).turns = s.turns := rfl

@[simp] theorem modQueue_hbm (s : State) (q : Nat) (f : Queue → Queue) : (s.modQueue q f).hbm = s.hbm := rfl
@[simp] theorem modQueue_win (s : State) (q : Nat) (f : Queue → Queue) : (s.modQueue q f).win = s.win := rfl
@[simp] theorem modQueue_vregs (s : State) (q : Nat) (f : Queue → Queue) : (s.modQueue q f).vregs = s.vregs := rfl
@[simp] theorem modQueue_sregs (s : State) (q : Nat) (f : Queue → Queue) : (s.modQueue q f).sregs = s.sregs := rfl
@[simp] theorem modQueue_accs (s : State) (q : Nat) (f : Queue → Queue) : (s.modQueue q f).accs = s.accs := rfl
@[simp] theorem modQueue_lpddr (s : State) (q : Nat) (f : Queue → Queue) : (s.modQueue q f).lpddr = s.lpddr := rfl
@[simp] theorem modQueue_cxl (s : State) (q : Nat) (f : Queue → Queue) : (s.modQueue q f).cxl = s.cxl := rfl
@[simp] theorem modQueue_icache (s : State) (q : Nat) (f : Queue → Queue) : (s.modQueue q f).icache = s.icache := rfl
@[simp] theorem modQueue_poison (s : State) (q : Nat) (f : Queue → Queue) : (s.modQueue q f).poison = s.poison := rfl
@[simp] theorem modQueue_groups (s : State) (q : Nat) (f : Queue → Queue) : (s.modQueue q f).groups = s.groups := rfl
@[simp] theorem modQueue_teams (s : State) (q : Nat) (f : Queue → Queue) : (s.modQueue q f).teams = s.teams := rfl
@[simp] theorem modQueue_cores (s : State) (q : Nat) (f : Queue → Queue) : (s.modQueue q f).cores = s.cores := rfl
@[simp] theorem modQueue_clusters (s : State) (q : Nat) (f : Queue → Queue) : (s.modQueue q f).clusters = s.clusters := rfl
@[simp] theorem modQueue_parts (s : State) (q : Nat) (f : Queue → Queue) : (s.modQueue q f).parts = s.parts := rfl
@[simp] theorem modQueue_live (s : State) (q : Nat) (f : Queue → Queue) : (s.modQueue q f).live = s.live := rfl
@[simp] theorem modQueue_events (s : State) (q : Nat) (f : Queue → Queue) : (s.modQueue q f).events = s.events := rfl
@[simp] theorem modQueue_keys (s : State) (q : Nat) (f : Queue → Queue) : (s.modQueue q f).keys = s.keys := rfl
@[simp] theorem modQueue_pairs (s : State) (q : Nat) (f : Queue → Queue) : (s.modQueue q f).pairs = s.pairs := rfl
@[simp] theorem modQueue_l2tlb (s : State) (q : Nat) (f : Queue → Queue) : (s.modQueue q f).l2tlb = s.l2tlb := rfl
@[simp] theorem modQueue_pinned (s : State) (q : Nat) (f : Queue → Queue) : (s.modQueue q f).pinned = s.pinned := rfl
@[simp] theorem modQueue_qepoch (s : State) (q : Nat) (f : Queue → Queue) : (s.modQueue q f).qepoch = s.qepoch := rfl
@[simp] theorem modQueue_cellar (s : State) (q : Nat) (f : Queue → Queue) : (s.modQueue q f).cellar = s.cellar := rfl
@[simp] theorem modQueue_qserved (s : State) (q : Nat) (f : Queue → Queue) : (s.modQueue q f).qserved = s.qserved := rfl
@[simp] theorem modQueue_rings (s : State) (q : Nat) (f : Queue → Queue) : (s.modQueue q f).rings = s.rings := rfl
@[simp] theorem modQueue_edf (s : State) (q : Nat) (f : Queue → Queue) : (s.modQueue q f).edf = s.edf := rfl
@[simp] theorem modQueue_mintIn (s : State) (q : Nat) (f : Queue → Queue) : (s.modQueue q f).mintIn = s.mintIn := rfl
@[simp] theorem modQueue_nrctl (s : State) (q : Nat) (f : Queue → Queue) : (s.modQueue q f).nrctl = s.nrctl := rfl
@[simp] theorem modQueue_nrbase (s : State) (q : Nat) (f : Queue → Queue) : (s.modQueue q f).nrbase = s.nrbase := rfl
@[simp] theorem modQueue_slEn (s : State) (q : Nat) (f : Queue → Queue) : (s.modQueue q f).slEn = s.slEn := rfl
@[simp] theorem modQueue_slN (s : State) (q : Nat) (f : Queue → Queue) : (s.modQueue q f).slN = s.slN := rfl
@[simp] theorem modQueue_slPeriod (s : State) (q : Nat) (f : Queue → Queue) : (s.modQueue q f).slPeriod = s.slPeriod := rfl
@[simp] theorem modQueue_slDrn (s : State) (q : Nat) (f : Queue → Queue) : (s.modQueue q f).slDrn = s.slDrn := rfl
@[simp] theorem modQueue_slEpoch (s : State) (q : Nat) (f : Queue → Queue) : (s.modQueue q f).slEpoch = s.slEpoch := rfl
@[simp] theorem modQueue_slSel (s : State) (q : Nat) (f : Queue → Queue) : (s.modQueue q f).slSel = s.slSel := rfl
@[simp] theorem modQueue_vState (s : State) (q : Nat) (f : Queue → Queue) : (s.modQueue q f).vState = s.vState := rfl
@[simp] theorem modQueue_vRes (s : State) (q : Nat) (f : Queue → Queue) : (s.modQueue q f).vRes = s.vRes := rfl
@[simp] theorem modQueue_vHard (s : State) (q : Nat) (f : Queue → Queue) : (s.modQueue q f).vHard = s.vHard := rfl
@[simp] theorem modQueue_vSaved (s : State) (q : Nat) (f : Queue → Queue) : (s.modQueue q f).vSaved = s.vSaved := rfl
@[simp] theorem modQueue_vElapsed (s : State) (q : Nat) (f : Queue → Queue) : (s.modQueue q f).vElapsed = s.vElapsed := rfl
@[simp] theorem modQueue_varea (s : State) (q : Nat) (f : Queue → Queue) : (s.modQueue q f).varea = s.varea := rfl
@[simp] theorem modQueue_vevt (s : State) (q : Nat) (f : Queue → Queue) : (s.modQueue q f).vevt = s.vevt := rfl
@[simp] theorem modQueue_vacate (s : State) (q : Nat) (f : Queue → Queue) : (s.modQueue q f).vacate = s.vacate := rfl
@[simp] theorem modQueue_images (s : State) (q : Nat) (f : Queue → Queue) : (s.modQueue q f).images = s.images := rfl
@[simp] theorem modQueue_reserves (s : State) (q : Nat) (f : Queue → Queue) : (s.modQueue q f).reserves = s.reserves := rfl
@[simp] theorem modQueue_pbEn (s : State) (q : Nat) (f : Queue → Queue) : (s.modQueue q f).pbEn = s.pbEn := rfl
@[simp] theorem modQueue_pbBase (s : State) (q : Nat) (f : Queue → Queue) : (s.modQueue q f).pbBase = s.pbBase := rfl
@[simp] theorem modQueue_net (s : State) (q : Nat) (f : Queue → Queue) : (s.modQueue q f).net = s.net := rfl
@[simp] theorem modQueue_answers (s : State) (q : Nat) (f : Queue → Queue) : (s.modQueue q f).answers = s.answers := rfl
@[simp] theorem modQueue_answered (s : State) (q : Nat) (f : Queue → Queue) : (s.modQueue q f).answered = s.answered := rfl
@[simp] theorem modQueue_lastContr (s : State) (q : Nat) (f : Queue → Queue) : (s.modQueue q f).lastContr = s.lastContr := rfl
@[simp] theorem modQueue_nextXid (s : State) (q : Nat) (f : Queue → Queue) : (s.modQueue q f).nextXid = s.nextXid := rfl
@[simp] theorem modQueue_nextCopy (s : State) (q : Nat) (f : Queue → Queue) : (s.modQueue q f).nextCopy = s.nextCopy := rfl
@[simp] theorem modQueue_nextUid (s : State) (q : Nat) (f : Queue → Queue) : (s.modQueue q f).nextUid = s.nextUid := rfl
@[simp] theorem modQueue_arrivalsHeld (s : State) (q : Nat) (f : Queue → Queue) : (s.modQueue q f).arrivalsHeld = s.arrivalsHeld := rfl
@[simp] theorem modQueue_sent (s : State) (q : Nat) (f : Queue → Queue) : (s.modQueue q f).sent = s.sent := rfl
@[simp] theorem modQueue_naks (s : State) (q : Nat) (f : Queue → Queue) : (s.modQueue q f).naks = s.naks := rfl
@[simp] theorem modQueue_devLock (s : State) (q : Nat) (f : Queue → Queue) : (s.modQueue q f).devLock = s.devLock := rfl
@[simp] theorem modQueue_devBadw (s : State) (q : Nat) (f : Queue → Queue) : (s.modQueue q f).devBadw = s.devBadw := rfl
@[simp] theorem modQueue_devEccm (s : State) (q : Nat) (f : Queue → Queue) : (s.modQueue q f).devEccm = s.devEccm := rfl
@[simp] theorem modQueue_devVatx (s : State) (q : Nat) (f : Queue → Queue) : (s.modQueue q f).devVatx = s.devVatx := rfl
@[simp] theorem modQueue_devPinf (s : State) (q : Nat) (f : Queue → Queue) : (s.modQueue q f).devPinf = s.devPinf := rfl
@[simp] theorem modQueue_devPact (s : State) (q : Nat) (f : Queue → Queue) : (s.modQueue q f).devPact = s.devPact := rfl
@[simp] theorem modQueue_devProf (s : State) (q : Nat) (f : Queue → Queue) : (s.modQueue q f).devProf = s.devProf := rfl
@[simp] theorem modQueue_eccMode (s : State) (q : Nat) (f : Queue → Queue) : (s.modQueue q f).eccMode = s.eccMode := rfl
@[simp] theorem modQueue_featen (s : State) (q : Nat) (f : Queue → Queue) : (s.modQueue q f).featen = s.featen := rfl
@[simp] theorem modQueue_idLock (s : State) (q : Nat) (f : Queue → Queue) : (s.modQueue q f).idLock = s.idLock := rfl
@[simp] theorem modQueue_portUp (s : State) (q : Nat) (f : Queue → Queue) : (s.modQueue q f).portUp = s.portUp := rfl
@[simp] theorem modQueue_devNum (s : State) (q : Nat) (f : Queue → Queue) : (s.modQueue q f).devNum = s.devNum := rfl
@[simp] theorem modQueue_bootKind (s : State) (q : Nat) (f : Queue → Queue) : (s.modQueue q f).bootKind = s.bootKind := rfl
@[simp] theorem modQueue_bootRetrain (s : State) (q : Nat) (f : Queue → Queue) : (s.modQueue q f).bootRetrain = s.bootRetrain := rfl
@[simp] theorem modQueue_bootStep (s : State) (q : Nat) (f : Queue → Queue) : (s.modQueue q f).bootStep = s.bootStep := rfl
@[simp] theorem modQueue_bootFail (s : State) (q : Nat) (f : Queue → Queue) : (s.modQueue q f).bootFail = s.bootFail := rfl
@[simp] theorem modQueue_bfail (s : State) (q : Nat) (f : Queue → Queue) : (s.modQueue q f).bfail = s.bfail := rfl
@[simp] theorem modQueue_warmReq (s : State) (q : Nat) (f : Queue → Queue) : (s.modQueue q f).warmReq = s.warmReq := rfl
@[simp] theorem modQueue_poolSz (s : State) (q : Nat) (f : Queue → Queue) : (s.modQueue q f).poolSz = s.poolSz := rfl
@[simp] theorem modQueue_warms (s : State) (q : Nat) (f : Queue → Queue) : (s.modQueue q f).warms = s.warms := rfl
@[simp] theorem modQueue_starts (s : State) (q : Nat) (f : Queue → Queue) : (s.modQueue q f).starts = s.starts := rfl
@[simp] theorem modQueue_thrLvl (s : State) (q : Nat) (f : Queue → Queue) : (s.modQueue q f).thrLvl = s.thrLvl := rfl
@[simp] theorem modQueue_thrCur (s : State) (q : Nat) (f : Queue → Queue) : (s.modQueue q f).thrCur = s.thrCur := rfl
@[simp] theorem modQueue_thrHot (s : State) (q : Nat) (f : Queue → Queue) : (s.modQueue q f).thrHot = s.thrHot := rfl
@[simp] theorem modQueue_thrTemp (s : State) (q : Nat) (f : Queue → Queue) : (s.modQueue q f).thrTemp = s.thrTemp := rfl
@[simp] theorem modQueue_eccUe (s : State) (q : Nat) (f : Queue → Queue) : (s.modQueue q f).eccUe = s.eccUe := rfl
@[simp] theorem modQueue_eccCe (s : State) (q : Nat) (f : Queue → Queue) : (s.modQueue q f).eccCe = s.eccCe := rfl
@[simp] theorem modQueue_sbFrozen (s : State) (q : Nat) (f : Queue → Queue) : (s.modQueue q f).sbFrozen = s.sbFrozen := rfl
@[simp] theorem modQueue_sbFreeze (s : State) (q : Nat) (f : Queue → Queue) : (s.modQueue q f).sbFreeze = s.sbFreeze := rfl
@[simp] theorem modQueue_sbCause (s : State) (q : Nat) (f : Queue → Queue) : (s.modQueue q f).sbCause = s.sbCause := rfl
@[simp] theorem modQueue_sbDrop (s : State) (q : Nat) (f : Queue → Queue) : (s.modQueue q f).sbDrop = s.sbDrop := rfl
@[simp] theorem modQueue_sbWidx (s : State) (q : Nat) (f : Queue → Queue) : (s.modQueue q f).sbWidx = s.sbWidx := rfl
@[simp] theorem modQueue_strongbox (s : State) (q : Nat) (f : Queue → Queue) : (s.modQueue q f).strongbox = s.strongbox := rfl
@[simp] theorem modQueue_cxlUp (s : State) (q : Nat) (f : Queue → Queue) : (s.modQueue q f).cxlUp = s.cxlUp := rfl
@[simp] theorem modQueue_psPend (s : State) (q : Nat) (f : Queue → Queue) : (s.modQueue q f).psPend = s.psPend := rfl
@[simp] theorem modQueue_psLstat (s : State) (q : Nat) (f : Queue → Queue) : (s.modQueue q f).psLstat = s.psLstat := rfl
@[simp] theorem modQueue_psStatus (s : State) (q : Nat) (f : Queue → Queue) : (s.modQueue q f).psStatus = s.psStatus := rfl
@[simp] theorem modQueue_firstStart (s : State) (q : Nat) (f : Queue → Queue) : (s.modQueue q f).firstStart = s.firstStart := rfl
@[simp] theorem modQueue_inReset (s : State) (q : Nat) (f : Queue → Queue) : (s.modQueue q f).inReset = s.inReset := rfl
@[simp] theorem modQueue_time (s : State) (q : Nat) (f : Queue → Queue) : (s.modQueue q f).time = s.time := rfl
@[simp] theorem modQueue_cur (s : State) (q : Nat) (f : Queue → Queue) : (s.modQueue q f).cur = s.cur := rfl
@[simp] theorem modQueue_curPart (s : State) (q : Nat) (f : Queue → Queue) : (s.modQueue q f).curPart = s.curPart := rfl
@[simp] theorem modQueue_curStream (s : State) (q : Nat) (f : Queue → Queue) : (s.modQueue q f).curStream = s.curStream := rfl
@[simp] theorem modQueue_curQueue (s : State) (q : Nat) (f : Queue → Queue) : (s.modQueue q f).curQueue = s.curQueue := rfl
@[simp] theorem modQueue_agenda (s : State) (q : Nat) (f : Queue → Queue) : (s.modQueue q f).agenda = s.agenda := rfl
@[simp] theorem modQueue_fresh (s : State) (q : Nat) (f : Queue → Queue) : (s.modQueue q f).fresh = s.fresh := rfl
@[simp] theorem modQueue_turns (s : State) (q : Nat) (f : Queue → Queue) : (s.modQueue q f).turns = s.turns := rfl

@[simp] theorem modRing_hbm (s : State) (n : Nat) (f : EventRing → EventRing) : (s.modRing n f).hbm = s.hbm := rfl
@[simp] theorem modRing_win (s : State) (n : Nat) (f : EventRing → EventRing) : (s.modRing n f).win = s.win := rfl
@[simp] theorem modRing_vregs (s : State) (n : Nat) (f : EventRing → EventRing) : (s.modRing n f).vregs = s.vregs := rfl
@[simp] theorem modRing_sregs (s : State) (n : Nat) (f : EventRing → EventRing) : (s.modRing n f).sregs = s.sregs := rfl
@[simp] theorem modRing_accs (s : State) (n : Nat) (f : EventRing → EventRing) : (s.modRing n f).accs = s.accs := rfl
@[simp] theorem modRing_lpddr (s : State) (n : Nat) (f : EventRing → EventRing) : (s.modRing n f).lpddr = s.lpddr := rfl
@[simp] theorem modRing_cxl (s : State) (n : Nat) (f : EventRing → EventRing) : (s.modRing n f).cxl = s.cxl := rfl
@[simp] theorem modRing_icache (s : State) (n : Nat) (f : EventRing → EventRing) : (s.modRing n f).icache = s.icache := rfl
@[simp] theorem modRing_poison (s : State) (n : Nat) (f : EventRing → EventRing) : (s.modRing n f).poison = s.poison := rfl
@[simp] theorem modRing_groups (s : State) (n : Nat) (f : EventRing → EventRing) : (s.modRing n f).groups = s.groups := rfl
@[simp] theorem modRing_teams (s : State) (n : Nat) (f : EventRing → EventRing) : (s.modRing n f).teams = s.teams := rfl
@[simp] theorem modRing_cores (s : State) (n : Nat) (f : EventRing → EventRing) : (s.modRing n f).cores = s.cores := rfl
@[simp] theorem modRing_clusters (s : State) (n : Nat) (f : EventRing → EventRing) : (s.modRing n f).clusters = s.clusters := rfl
@[simp] theorem modRing_parts (s : State) (n : Nat) (f : EventRing → EventRing) : (s.modRing n f).parts = s.parts := rfl
@[simp] theorem modRing_live (s : State) (n : Nat) (f : EventRing → EventRing) : (s.modRing n f).live = s.live := rfl
@[simp] theorem modRing_events (s : State) (n : Nat) (f : EventRing → EventRing) : (s.modRing n f).events = s.events := rfl
@[simp] theorem modRing_keys (s : State) (n : Nat) (f : EventRing → EventRing) : (s.modRing n f).keys = s.keys := rfl
@[simp] theorem modRing_pairs (s : State) (n : Nat) (f : EventRing → EventRing) : (s.modRing n f).pairs = s.pairs := rfl
@[simp] theorem modRing_l2tlb (s : State) (n : Nat) (f : EventRing → EventRing) : (s.modRing n f).l2tlb = s.l2tlb := rfl
@[simp] theorem modRing_pinned (s : State) (n : Nat) (f : EventRing → EventRing) : (s.modRing n f).pinned = s.pinned := rfl
@[simp] theorem modRing_qepoch (s : State) (n : Nat) (f : EventRing → EventRing) : (s.modRing n f).qepoch = s.qepoch := rfl
@[simp] theorem modRing_cellar (s : State) (n : Nat) (f : EventRing → EventRing) : (s.modRing n f).cellar = s.cellar := rfl
@[simp] theorem modRing_queues (s : State) (n : Nat) (f : EventRing → EventRing) : (s.modRing n f).queues = s.queues := rfl
@[simp] theorem modRing_qserved (s : State) (n : Nat) (f : EventRing → EventRing) : (s.modRing n f).qserved = s.qserved := rfl
@[simp] theorem modRing_edf (s : State) (n : Nat) (f : EventRing → EventRing) : (s.modRing n f).edf = s.edf := rfl
@[simp] theorem modRing_mintIn (s : State) (n : Nat) (f : EventRing → EventRing) : (s.modRing n f).mintIn = s.mintIn := rfl
@[simp] theorem modRing_nrctl (s : State) (n : Nat) (f : EventRing → EventRing) : (s.modRing n f).nrctl = s.nrctl := rfl
@[simp] theorem modRing_nrbase (s : State) (n : Nat) (f : EventRing → EventRing) : (s.modRing n f).nrbase = s.nrbase := rfl
@[simp] theorem modRing_slEn (s : State) (n : Nat) (f : EventRing → EventRing) : (s.modRing n f).slEn = s.slEn := rfl
@[simp] theorem modRing_slN (s : State) (n : Nat) (f : EventRing → EventRing) : (s.modRing n f).slN = s.slN := rfl
@[simp] theorem modRing_slPeriod (s : State) (n : Nat) (f : EventRing → EventRing) : (s.modRing n f).slPeriod = s.slPeriod := rfl
@[simp] theorem modRing_slDrn (s : State) (n : Nat) (f : EventRing → EventRing) : (s.modRing n f).slDrn = s.slDrn := rfl
@[simp] theorem modRing_slEpoch (s : State) (n : Nat) (f : EventRing → EventRing) : (s.modRing n f).slEpoch = s.slEpoch := rfl
@[simp] theorem modRing_slSel (s : State) (n : Nat) (f : EventRing → EventRing) : (s.modRing n f).slSel = s.slSel := rfl
@[simp] theorem modRing_vState (s : State) (n : Nat) (f : EventRing → EventRing) : (s.modRing n f).vState = s.vState := rfl
@[simp] theorem modRing_vRes (s : State) (n : Nat) (f : EventRing → EventRing) : (s.modRing n f).vRes = s.vRes := rfl
@[simp] theorem modRing_vHard (s : State) (n : Nat) (f : EventRing → EventRing) : (s.modRing n f).vHard = s.vHard := rfl
@[simp] theorem modRing_vSaved (s : State) (n : Nat) (f : EventRing → EventRing) : (s.modRing n f).vSaved = s.vSaved := rfl
@[simp] theorem modRing_vElapsed (s : State) (n : Nat) (f : EventRing → EventRing) : (s.modRing n f).vElapsed = s.vElapsed := rfl
@[simp] theorem modRing_varea (s : State) (n : Nat) (f : EventRing → EventRing) : (s.modRing n f).varea = s.varea := rfl
@[simp] theorem modRing_vevt (s : State) (n : Nat) (f : EventRing → EventRing) : (s.modRing n f).vevt = s.vevt := rfl
@[simp] theorem modRing_vacate (s : State) (n : Nat) (f : EventRing → EventRing) : (s.modRing n f).vacate = s.vacate := rfl
@[simp] theorem modRing_images (s : State) (n : Nat) (f : EventRing → EventRing) : (s.modRing n f).images = s.images := rfl
@[simp] theorem modRing_reserves (s : State) (n : Nat) (f : EventRing → EventRing) : (s.modRing n f).reserves = s.reserves := rfl
@[simp] theorem modRing_pbEn (s : State) (n : Nat) (f : EventRing → EventRing) : (s.modRing n f).pbEn = s.pbEn := rfl
@[simp] theorem modRing_pbBase (s : State) (n : Nat) (f : EventRing → EventRing) : (s.modRing n f).pbBase = s.pbBase := rfl
@[simp] theorem modRing_net (s : State) (n : Nat) (f : EventRing → EventRing) : (s.modRing n f).net = s.net := rfl
@[simp] theorem modRing_answers (s : State) (n : Nat) (f : EventRing → EventRing) : (s.modRing n f).answers = s.answers := rfl
@[simp] theorem modRing_answered (s : State) (n : Nat) (f : EventRing → EventRing) : (s.modRing n f).answered = s.answered := rfl
@[simp] theorem modRing_lastContr (s : State) (n : Nat) (f : EventRing → EventRing) : (s.modRing n f).lastContr = s.lastContr := rfl
@[simp] theorem modRing_nextXid (s : State) (n : Nat) (f : EventRing → EventRing) : (s.modRing n f).nextXid = s.nextXid := rfl
@[simp] theorem modRing_nextCopy (s : State) (n : Nat) (f : EventRing → EventRing) : (s.modRing n f).nextCopy = s.nextCopy := rfl
@[simp] theorem modRing_nextUid (s : State) (n : Nat) (f : EventRing → EventRing) : (s.modRing n f).nextUid = s.nextUid := rfl
@[simp] theorem modRing_arrivalsHeld (s : State) (n : Nat) (f : EventRing → EventRing) : (s.modRing n f).arrivalsHeld = s.arrivalsHeld := rfl
@[simp] theorem modRing_sent (s : State) (n : Nat) (f : EventRing → EventRing) : (s.modRing n f).sent = s.sent := rfl
@[simp] theorem modRing_naks (s : State) (n : Nat) (f : EventRing → EventRing) : (s.modRing n f).naks = s.naks := rfl
@[simp] theorem modRing_devLock (s : State) (n : Nat) (f : EventRing → EventRing) : (s.modRing n f).devLock = s.devLock := rfl
@[simp] theorem modRing_devBadw (s : State) (n : Nat) (f : EventRing → EventRing) : (s.modRing n f).devBadw = s.devBadw := rfl
@[simp] theorem modRing_devEccm (s : State) (n : Nat) (f : EventRing → EventRing) : (s.modRing n f).devEccm = s.devEccm := rfl
@[simp] theorem modRing_devVatx (s : State) (n : Nat) (f : EventRing → EventRing) : (s.modRing n f).devVatx = s.devVatx := rfl
@[simp] theorem modRing_devPinf (s : State) (n : Nat) (f : EventRing → EventRing) : (s.modRing n f).devPinf = s.devPinf := rfl
@[simp] theorem modRing_devPact (s : State) (n : Nat) (f : EventRing → EventRing) : (s.modRing n f).devPact = s.devPact := rfl
@[simp] theorem modRing_devProf (s : State) (n : Nat) (f : EventRing → EventRing) : (s.modRing n f).devProf = s.devProf := rfl
@[simp] theorem modRing_eccMode (s : State) (n : Nat) (f : EventRing → EventRing) : (s.modRing n f).eccMode = s.eccMode := rfl
@[simp] theorem modRing_featen (s : State) (n : Nat) (f : EventRing → EventRing) : (s.modRing n f).featen = s.featen := rfl
@[simp] theorem modRing_idLock (s : State) (n : Nat) (f : EventRing → EventRing) : (s.modRing n f).idLock = s.idLock := rfl
@[simp] theorem modRing_portUp (s : State) (n : Nat) (f : EventRing → EventRing) : (s.modRing n f).portUp = s.portUp := rfl
@[simp] theorem modRing_devNum (s : State) (n : Nat) (f : EventRing → EventRing) : (s.modRing n f).devNum = s.devNum := rfl
@[simp] theorem modRing_bootKind (s : State) (n : Nat) (f : EventRing → EventRing) : (s.modRing n f).bootKind = s.bootKind := rfl
@[simp] theorem modRing_bootRetrain (s : State) (n : Nat) (f : EventRing → EventRing) : (s.modRing n f).bootRetrain = s.bootRetrain := rfl
@[simp] theorem modRing_bootStep (s : State) (n : Nat) (f : EventRing → EventRing) : (s.modRing n f).bootStep = s.bootStep := rfl
@[simp] theorem modRing_bootFail (s : State) (n : Nat) (f : EventRing → EventRing) : (s.modRing n f).bootFail = s.bootFail := rfl
@[simp] theorem modRing_bfail (s : State) (n : Nat) (f : EventRing → EventRing) : (s.modRing n f).bfail = s.bfail := rfl
@[simp] theorem modRing_warmReq (s : State) (n : Nat) (f : EventRing → EventRing) : (s.modRing n f).warmReq = s.warmReq := rfl
@[simp] theorem modRing_poolSz (s : State) (n : Nat) (f : EventRing → EventRing) : (s.modRing n f).poolSz = s.poolSz := rfl
@[simp] theorem modRing_warms (s : State) (n : Nat) (f : EventRing → EventRing) : (s.modRing n f).warms = s.warms := rfl
@[simp] theorem modRing_starts (s : State) (n : Nat) (f : EventRing → EventRing) : (s.modRing n f).starts = s.starts := rfl
@[simp] theorem modRing_thrLvl (s : State) (n : Nat) (f : EventRing → EventRing) : (s.modRing n f).thrLvl = s.thrLvl := rfl
@[simp] theorem modRing_thrCur (s : State) (n : Nat) (f : EventRing → EventRing) : (s.modRing n f).thrCur = s.thrCur := rfl
@[simp] theorem modRing_thrHot (s : State) (n : Nat) (f : EventRing → EventRing) : (s.modRing n f).thrHot = s.thrHot := rfl
@[simp] theorem modRing_thrTemp (s : State) (n : Nat) (f : EventRing → EventRing) : (s.modRing n f).thrTemp = s.thrTemp := rfl
@[simp] theorem modRing_eccUe (s : State) (n : Nat) (f : EventRing → EventRing) : (s.modRing n f).eccUe = s.eccUe := rfl
@[simp] theorem modRing_eccCe (s : State) (n : Nat) (f : EventRing → EventRing) : (s.modRing n f).eccCe = s.eccCe := rfl
@[simp] theorem modRing_sbFrozen (s : State) (n : Nat) (f : EventRing → EventRing) : (s.modRing n f).sbFrozen = s.sbFrozen := rfl
@[simp] theorem modRing_sbFreeze (s : State) (n : Nat) (f : EventRing → EventRing) : (s.modRing n f).sbFreeze = s.sbFreeze := rfl
@[simp] theorem modRing_sbCause (s : State) (n : Nat) (f : EventRing → EventRing) : (s.modRing n f).sbCause = s.sbCause := rfl
@[simp] theorem modRing_sbDrop (s : State) (n : Nat) (f : EventRing → EventRing) : (s.modRing n f).sbDrop = s.sbDrop := rfl
@[simp] theorem modRing_sbWidx (s : State) (n : Nat) (f : EventRing → EventRing) : (s.modRing n f).sbWidx = s.sbWidx := rfl
@[simp] theorem modRing_strongbox (s : State) (n : Nat) (f : EventRing → EventRing) : (s.modRing n f).strongbox = s.strongbox := rfl
@[simp] theorem modRing_cxlUp (s : State) (n : Nat) (f : EventRing → EventRing) : (s.modRing n f).cxlUp = s.cxlUp := rfl
@[simp] theorem modRing_psPend (s : State) (n : Nat) (f : EventRing → EventRing) : (s.modRing n f).psPend = s.psPend := rfl
@[simp] theorem modRing_psLstat (s : State) (n : Nat) (f : EventRing → EventRing) : (s.modRing n f).psLstat = s.psLstat := rfl
@[simp] theorem modRing_psStatus (s : State) (n : Nat) (f : EventRing → EventRing) : (s.modRing n f).psStatus = s.psStatus := rfl
@[simp] theorem modRing_firstStart (s : State) (n : Nat) (f : EventRing → EventRing) : (s.modRing n f).firstStart = s.firstStart := rfl
@[simp] theorem modRing_inReset (s : State) (n : Nat) (f : EventRing → EventRing) : (s.modRing n f).inReset = s.inReset := rfl
@[simp] theorem modRing_time (s : State) (n : Nat) (f : EventRing → EventRing) : (s.modRing n f).time = s.time := rfl
@[simp] theorem modRing_cur (s : State) (n : Nat) (f : EventRing → EventRing) : (s.modRing n f).cur = s.cur := rfl
@[simp] theorem modRing_curPart (s : State) (n : Nat) (f : EventRing → EventRing) : (s.modRing n f).curPart = s.curPart := rfl
@[simp] theorem modRing_curStream (s : State) (n : Nat) (f : EventRing → EventRing) : (s.modRing n f).curStream = s.curStream := rfl
@[simp] theorem modRing_curQueue (s : State) (n : Nat) (f : EventRing → EventRing) : (s.modRing n f).curQueue = s.curQueue := rfl
@[simp] theorem modRing_agenda (s : State) (n : Nat) (f : EventRing → EventRing) : (s.modRing n f).agenda = s.agenda := rfl
@[simp] theorem modRing_fresh (s : State) (n : Nat) (f : EventRing → EventRing) : (s.modRing n f).fresh = s.fresh := rfl
@[simp] theorem modRing_turns (s : State) (n : Nat) (f : EventRing → EventRing) : (s.modRing n f).turns = s.turns := rfl

theorem modGroup_eq (s : State) (id : GroupId) (f : Group → Group) : (s.modGroup id f) = { s with groups := (s.modGroup id f).groups } := by
  unfold State.modGroup; split <;> rfl
@[simp] theorem modGroup_hbm (s : State) (id : GroupId) (f : Group → Group) : (s.modGroup id f).hbm = s.hbm := by rw [modGroup_eq]
@[simp] theorem modGroup_win (s : State) (id : GroupId) (f : Group → Group) : (s.modGroup id f).win = s.win := by rw [modGroup_eq]
@[simp] theorem modGroup_vregs (s : State) (id : GroupId) (f : Group → Group) : (s.modGroup id f).vregs = s.vregs := by rw [modGroup_eq]
@[simp] theorem modGroup_sregs (s : State) (id : GroupId) (f : Group → Group) : (s.modGroup id f).sregs = s.sregs := by rw [modGroup_eq]
@[simp] theorem modGroup_accs (s : State) (id : GroupId) (f : Group → Group) : (s.modGroup id f).accs = s.accs := by rw [modGroup_eq]
@[simp] theorem modGroup_lpddr (s : State) (id : GroupId) (f : Group → Group) : (s.modGroup id f).lpddr = s.lpddr := by rw [modGroup_eq]
@[simp] theorem modGroup_cxl (s : State) (id : GroupId) (f : Group → Group) : (s.modGroup id f).cxl = s.cxl := by rw [modGroup_eq]
@[simp] theorem modGroup_icache (s : State) (id : GroupId) (f : Group → Group) : (s.modGroup id f).icache = s.icache := by rw [modGroup_eq]
@[simp] theorem modGroup_poison (s : State) (id : GroupId) (f : Group → Group) : (s.modGroup id f).poison = s.poison := by rw [modGroup_eq]
@[simp] theorem modGroup_teams (s : State) (id : GroupId) (f : Group → Group) : (s.modGroup id f).teams = s.teams := by rw [modGroup_eq]
@[simp] theorem modGroup_cores (s : State) (id : GroupId) (f : Group → Group) : (s.modGroup id f).cores = s.cores := by rw [modGroup_eq]
@[simp] theorem modGroup_clusters (s : State) (id : GroupId) (f : Group → Group) : (s.modGroup id f).clusters = s.clusters := by rw [modGroup_eq]
@[simp] theorem modGroup_parts (s : State) (id : GroupId) (f : Group → Group) : (s.modGroup id f).parts = s.parts := by rw [modGroup_eq]
@[simp] theorem modGroup_live (s : State) (id : GroupId) (f : Group → Group) : (s.modGroup id f).live = s.live := by rw [modGroup_eq]
@[simp] theorem modGroup_events (s : State) (id : GroupId) (f : Group → Group) : (s.modGroup id f).events = s.events := by rw [modGroup_eq]
@[simp] theorem modGroup_keys (s : State) (id : GroupId) (f : Group → Group) : (s.modGroup id f).keys = s.keys := by rw [modGroup_eq]
@[simp] theorem modGroup_pairs (s : State) (id : GroupId) (f : Group → Group) : (s.modGroup id f).pairs = s.pairs := by rw [modGroup_eq]
@[simp] theorem modGroup_l2tlb (s : State) (id : GroupId) (f : Group → Group) : (s.modGroup id f).l2tlb = s.l2tlb := by rw [modGroup_eq]
@[simp] theorem modGroup_pinned (s : State) (id : GroupId) (f : Group → Group) : (s.modGroup id f).pinned = s.pinned := by rw [modGroup_eq]
@[simp] theorem modGroup_qepoch (s : State) (id : GroupId) (f : Group → Group) : (s.modGroup id f).qepoch = s.qepoch := by rw [modGroup_eq]
@[simp] theorem modGroup_cellar (s : State) (id : GroupId) (f : Group → Group) : (s.modGroup id f).cellar = s.cellar := by rw [modGroup_eq]
@[simp] theorem modGroup_queues (s : State) (id : GroupId) (f : Group → Group) : (s.modGroup id f).queues = s.queues := by rw [modGroup_eq]
@[simp] theorem modGroup_qserved (s : State) (id : GroupId) (f : Group → Group) : (s.modGroup id f).qserved = s.qserved := by rw [modGroup_eq]
@[simp] theorem modGroup_rings (s : State) (id : GroupId) (f : Group → Group) : (s.modGroup id f).rings = s.rings := by rw [modGroup_eq]
@[simp] theorem modGroup_edf (s : State) (id : GroupId) (f : Group → Group) : (s.modGroup id f).edf = s.edf := by rw [modGroup_eq]
@[simp] theorem modGroup_mintIn (s : State) (id : GroupId) (f : Group → Group) : (s.modGroup id f).mintIn = s.mintIn := by rw [modGroup_eq]
@[simp] theorem modGroup_nrctl (s : State) (id : GroupId) (f : Group → Group) : (s.modGroup id f).nrctl = s.nrctl := by rw [modGroup_eq]
@[simp] theorem modGroup_nrbase (s : State) (id : GroupId) (f : Group → Group) : (s.modGroup id f).nrbase = s.nrbase := by rw [modGroup_eq]
@[simp] theorem modGroup_slEn (s : State) (id : GroupId) (f : Group → Group) : (s.modGroup id f).slEn = s.slEn := by rw [modGroup_eq]
@[simp] theorem modGroup_slN (s : State) (id : GroupId) (f : Group → Group) : (s.modGroup id f).slN = s.slN := by rw [modGroup_eq]
@[simp] theorem modGroup_slPeriod (s : State) (id : GroupId) (f : Group → Group) : (s.modGroup id f).slPeriod = s.slPeriod := by rw [modGroup_eq]
@[simp] theorem modGroup_slDrn (s : State) (id : GroupId) (f : Group → Group) : (s.modGroup id f).slDrn = s.slDrn := by rw [modGroup_eq]
@[simp] theorem modGroup_slEpoch (s : State) (id : GroupId) (f : Group → Group) : (s.modGroup id f).slEpoch = s.slEpoch := by rw [modGroup_eq]
@[simp] theorem modGroup_slSel (s : State) (id : GroupId) (f : Group → Group) : (s.modGroup id f).slSel = s.slSel := by rw [modGroup_eq]
@[simp] theorem modGroup_vState (s : State) (id : GroupId) (f : Group → Group) : (s.modGroup id f).vState = s.vState := by rw [modGroup_eq]
@[simp] theorem modGroup_vRes (s : State) (id : GroupId) (f : Group → Group) : (s.modGroup id f).vRes = s.vRes := by rw [modGroup_eq]
@[simp] theorem modGroup_vHard (s : State) (id : GroupId) (f : Group → Group) : (s.modGroup id f).vHard = s.vHard := by rw [modGroup_eq]
@[simp] theorem modGroup_vSaved (s : State) (id : GroupId) (f : Group → Group) : (s.modGroup id f).vSaved = s.vSaved := by rw [modGroup_eq]
@[simp] theorem modGroup_vElapsed (s : State) (id : GroupId) (f : Group → Group) : (s.modGroup id f).vElapsed = s.vElapsed := by rw [modGroup_eq]
@[simp] theorem modGroup_varea (s : State) (id : GroupId) (f : Group → Group) : (s.modGroup id f).varea = s.varea := by rw [modGroup_eq]
@[simp] theorem modGroup_vevt (s : State) (id : GroupId) (f : Group → Group) : (s.modGroup id f).vevt = s.vevt := by rw [modGroup_eq]
@[simp] theorem modGroup_vacate (s : State) (id : GroupId) (f : Group → Group) : (s.modGroup id f).vacate = s.vacate := by rw [modGroup_eq]
@[simp] theorem modGroup_images (s : State) (id : GroupId) (f : Group → Group) : (s.modGroup id f).images = s.images := by rw [modGroup_eq]
@[simp] theorem modGroup_reserves (s : State) (id : GroupId) (f : Group → Group) : (s.modGroup id f).reserves = s.reserves := by rw [modGroup_eq]
@[simp] theorem modGroup_pbEn (s : State) (id : GroupId) (f : Group → Group) : (s.modGroup id f).pbEn = s.pbEn := by rw [modGroup_eq]
@[simp] theorem modGroup_pbBase (s : State) (id : GroupId) (f : Group → Group) : (s.modGroup id f).pbBase = s.pbBase := by rw [modGroup_eq]
@[simp] theorem modGroup_net (s : State) (id : GroupId) (f : Group → Group) : (s.modGroup id f).net = s.net := by rw [modGroup_eq]
@[simp] theorem modGroup_answers (s : State) (id : GroupId) (f : Group → Group) : (s.modGroup id f).answers = s.answers := by rw [modGroup_eq]
@[simp] theorem modGroup_answered (s : State) (id : GroupId) (f : Group → Group) : (s.modGroup id f).answered = s.answered := by rw [modGroup_eq]
@[simp] theorem modGroup_lastContr (s : State) (id : GroupId) (f : Group → Group) : (s.modGroup id f).lastContr = s.lastContr := by rw [modGroup_eq]
@[simp] theorem modGroup_nextXid (s : State) (id : GroupId) (f : Group → Group) : (s.modGroup id f).nextXid = s.nextXid := by rw [modGroup_eq]
@[simp] theorem modGroup_nextCopy (s : State) (id : GroupId) (f : Group → Group) : (s.modGroup id f).nextCopy = s.nextCopy := by rw [modGroup_eq]
@[simp] theorem modGroup_nextUid (s : State) (id : GroupId) (f : Group → Group) : (s.modGroup id f).nextUid = s.nextUid := by rw [modGroup_eq]
@[simp] theorem modGroup_arrivalsHeld (s : State) (id : GroupId) (f : Group → Group) : (s.modGroup id f).arrivalsHeld = s.arrivalsHeld := by rw [modGroup_eq]
@[simp] theorem modGroup_sent (s : State) (id : GroupId) (f : Group → Group) : (s.modGroup id f).sent = s.sent := by rw [modGroup_eq]
@[simp] theorem modGroup_naks (s : State) (id : GroupId) (f : Group → Group) : (s.modGroup id f).naks = s.naks := by rw [modGroup_eq]
@[simp] theorem modGroup_devLock (s : State) (id : GroupId) (f : Group → Group) : (s.modGroup id f).devLock = s.devLock := by rw [modGroup_eq]
@[simp] theorem modGroup_devBadw (s : State) (id : GroupId) (f : Group → Group) : (s.modGroup id f).devBadw = s.devBadw := by rw [modGroup_eq]
@[simp] theorem modGroup_devEccm (s : State) (id : GroupId) (f : Group → Group) : (s.modGroup id f).devEccm = s.devEccm := by rw [modGroup_eq]
@[simp] theorem modGroup_devVatx (s : State) (id : GroupId) (f : Group → Group) : (s.modGroup id f).devVatx = s.devVatx := by rw [modGroup_eq]
@[simp] theorem modGroup_devPinf (s : State) (id : GroupId) (f : Group → Group) : (s.modGroup id f).devPinf = s.devPinf := by rw [modGroup_eq]
@[simp] theorem modGroup_devPact (s : State) (id : GroupId) (f : Group → Group) : (s.modGroup id f).devPact = s.devPact := by rw [modGroup_eq]
@[simp] theorem modGroup_devProf (s : State) (id : GroupId) (f : Group → Group) : (s.modGroup id f).devProf = s.devProf := by rw [modGroup_eq]
@[simp] theorem modGroup_eccMode (s : State) (id : GroupId) (f : Group → Group) : (s.modGroup id f).eccMode = s.eccMode := by rw [modGroup_eq]
@[simp] theorem modGroup_featen (s : State) (id : GroupId) (f : Group → Group) : (s.modGroup id f).featen = s.featen := by rw [modGroup_eq]
@[simp] theorem modGroup_idLock (s : State) (id : GroupId) (f : Group → Group) : (s.modGroup id f).idLock = s.idLock := by rw [modGroup_eq]
@[simp] theorem modGroup_portUp (s : State) (id : GroupId) (f : Group → Group) : (s.modGroup id f).portUp = s.portUp := by rw [modGroup_eq]
@[simp] theorem modGroup_devNum (s : State) (id : GroupId) (f : Group → Group) : (s.modGroup id f).devNum = s.devNum := by rw [modGroup_eq]
@[simp] theorem modGroup_bootKind (s : State) (id : GroupId) (f : Group → Group) : (s.modGroup id f).bootKind = s.bootKind := by rw [modGroup_eq]
@[simp] theorem modGroup_bootRetrain (s : State) (id : GroupId) (f : Group → Group) : (s.modGroup id f).bootRetrain = s.bootRetrain := by rw [modGroup_eq]
@[simp] theorem modGroup_bootStep (s : State) (id : GroupId) (f : Group → Group) : (s.modGroup id f).bootStep = s.bootStep := by rw [modGroup_eq]
@[simp] theorem modGroup_bootFail (s : State) (id : GroupId) (f : Group → Group) : (s.modGroup id f).bootFail = s.bootFail := by rw [modGroup_eq]
@[simp] theorem modGroup_bfail (s : State) (id : GroupId) (f : Group → Group) : (s.modGroup id f).bfail = s.bfail := by rw [modGroup_eq]
@[simp] theorem modGroup_warmReq (s : State) (id : GroupId) (f : Group → Group) : (s.modGroup id f).warmReq = s.warmReq := by rw [modGroup_eq]
@[simp] theorem modGroup_poolSz (s : State) (id : GroupId) (f : Group → Group) : (s.modGroup id f).poolSz = s.poolSz := by rw [modGroup_eq]
@[simp] theorem modGroup_warms (s : State) (id : GroupId) (f : Group → Group) : (s.modGroup id f).warms = s.warms := by rw [modGroup_eq]
@[simp] theorem modGroup_starts (s : State) (id : GroupId) (f : Group → Group) : (s.modGroup id f).starts = s.starts := by rw [modGroup_eq]
@[simp] theorem modGroup_thrLvl (s : State) (id : GroupId) (f : Group → Group) : (s.modGroup id f).thrLvl = s.thrLvl := by rw [modGroup_eq]
@[simp] theorem modGroup_thrCur (s : State) (id : GroupId) (f : Group → Group) : (s.modGroup id f).thrCur = s.thrCur := by rw [modGroup_eq]
@[simp] theorem modGroup_thrHot (s : State) (id : GroupId) (f : Group → Group) : (s.modGroup id f).thrHot = s.thrHot := by rw [modGroup_eq]
@[simp] theorem modGroup_thrTemp (s : State) (id : GroupId) (f : Group → Group) : (s.modGroup id f).thrTemp = s.thrTemp := by rw [modGroup_eq]
@[simp] theorem modGroup_eccUe (s : State) (id : GroupId) (f : Group → Group) : (s.modGroup id f).eccUe = s.eccUe := by rw [modGroup_eq]
@[simp] theorem modGroup_eccCe (s : State) (id : GroupId) (f : Group → Group) : (s.modGroup id f).eccCe = s.eccCe := by rw [modGroup_eq]
@[simp] theorem modGroup_sbFrozen (s : State) (id : GroupId) (f : Group → Group) : (s.modGroup id f).sbFrozen = s.sbFrozen := by rw [modGroup_eq]
@[simp] theorem modGroup_sbFreeze (s : State) (id : GroupId) (f : Group → Group) : (s.modGroup id f).sbFreeze = s.sbFreeze := by rw [modGroup_eq]
@[simp] theorem modGroup_sbCause (s : State) (id : GroupId) (f : Group → Group) : (s.modGroup id f).sbCause = s.sbCause := by rw [modGroup_eq]
@[simp] theorem modGroup_sbDrop (s : State) (id : GroupId) (f : Group → Group) : (s.modGroup id f).sbDrop = s.sbDrop := by rw [modGroup_eq]
@[simp] theorem modGroup_sbWidx (s : State) (id : GroupId) (f : Group → Group) : (s.modGroup id f).sbWidx = s.sbWidx := by rw [modGroup_eq]
@[simp] theorem modGroup_strongbox (s : State) (id : GroupId) (f : Group → Group) : (s.modGroup id f).strongbox = s.strongbox := by rw [modGroup_eq]
@[simp] theorem modGroup_cxlUp (s : State) (id : GroupId) (f : Group → Group) : (s.modGroup id f).cxlUp = s.cxlUp := by rw [modGroup_eq]
@[simp] theorem modGroup_psPend (s : State) (id : GroupId) (f : Group → Group) : (s.modGroup id f).psPend = s.psPend := by rw [modGroup_eq]
@[simp] theorem modGroup_psLstat (s : State) (id : GroupId) (f : Group → Group) : (s.modGroup id f).psLstat = s.psLstat := by rw [modGroup_eq]
@[simp] theorem modGroup_psStatus (s : State) (id : GroupId) (f : Group → Group) : (s.modGroup id f).psStatus = s.psStatus := by rw [modGroup_eq]
@[simp] theorem modGroup_firstStart (s : State) (id : GroupId) (f : Group → Group) : (s.modGroup id f).firstStart = s.firstStart := by rw [modGroup_eq]
@[simp] theorem modGroup_inReset (s : State) (id : GroupId) (f : Group → Group) : (s.modGroup id f).inReset = s.inReset := by rw [modGroup_eq]
@[simp] theorem modGroup_time (s : State) (id : GroupId) (f : Group → Group) : (s.modGroup id f).time = s.time := by rw [modGroup_eq]
@[simp] theorem modGroup_cur (s : State) (id : GroupId) (f : Group → Group) : (s.modGroup id f).cur = s.cur := by rw [modGroup_eq]
@[simp] theorem modGroup_curPart (s : State) (id : GroupId) (f : Group → Group) : (s.modGroup id f).curPart = s.curPart := by rw [modGroup_eq]
@[simp] theorem modGroup_curStream (s : State) (id : GroupId) (f : Group → Group) : (s.modGroup id f).curStream = s.curStream := by rw [modGroup_eq]
@[simp] theorem modGroup_curQueue (s : State) (id : GroupId) (f : Group → Group) : (s.modGroup id f).curQueue = s.curQueue := by rw [modGroup_eq]
@[simp] theorem modGroup_agenda (s : State) (id : GroupId) (f : Group → Group) : (s.modGroup id f).agenda = s.agenda := by rw [modGroup_eq]
@[simp] theorem modGroup_fresh (s : State) (id : GroupId) (f : Group → Group) : (s.modGroup id f).fresh = s.fresh := by rw [modGroup_eq]
@[simp] theorem modGroup_turns (s : State) (id : GroupId) (f : Group → Group) : (s.modGroup id f).turns = s.turns := by rw [modGroup_eq]

theorem modTeam_eq (s : State) (k : Nat) (f : Team → Team) : (s.modTeam k f) = { s with teams := (s.modTeam k f).teams } := by
  unfold State.modTeam; split <;> rfl
@[simp] theorem modTeam_hbm (s : State) (k : Nat) (f : Team → Team) : (s.modTeam k f).hbm = s.hbm := by rw [modTeam_eq]
@[simp] theorem modTeam_win (s : State) (k : Nat) (f : Team → Team) : (s.modTeam k f).win = s.win := by rw [modTeam_eq]
@[simp] theorem modTeam_vregs (s : State) (k : Nat) (f : Team → Team) : (s.modTeam k f).vregs = s.vregs := by rw [modTeam_eq]
@[simp] theorem modTeam_sregs (s : State) (k : Nat) (f : Team → Team) : (s.modTeam k f).sregs = s.sregs := by rw [modTeam_eq]
@[simp] theorem modTeam_accs (s : State) (k : Nat) (f : Team → Team) : (s.modTeam k f).accs = s.accs := by rw [modTeam_eq]
@[simp] theorem modTeam_lpddr (s : State) (k : Nat) (f : Team → Team) : (s.modTeam k f).lpddr = s.lpddr := by rw [modTeam_eq]
@[simp] theorem modTeam_cxl (s : State) (k : Nat) (f : Team → Team) : (s.modTeam k f).cxl = s.cxl := by rw [modTeam_eq]
@[simp] theorem modTeam_icache (s : State) (k : Nat) (f : Team → Team) : (s.modTeam k f).icache = s.icache := by rw [modTeam_eq]
@[simp] theorem modTeam_poison (s : State) (k : Nat) (f : Team → Team) : (s.modTeam k f).poison = s.poison := by rw [modTeam_eq]
@[simp] theorem modTeam_groups (s : State) (k : Nat) (f : Team → Team) : (s.modTeam k f).groups = s.groups := by rw [modTeam_eq]
@[simp] theorem modTeam_cores (s : State) (k : Nat) (f : Team → Team) : (s.modTeam k f).cores = s.cores := by rw [modTeam_eq]
@[simp] theorem modTeam_clusters (s : State) (k : Nat) (f : Team → Team) : (s.modTeam k f).clusters = s.clusters := by rw [modTeam_eq]
@[simp] theorem modTeam_parts (s : State) (k : Nat) (f : Team → Team) : (s.modTeam k f).parts = s.parts := by rw [modTeam_eq]
@[simp] theorem modTeam_live (s : State) (k : Nat) (f : Team → Team) : (s.modTeam k f).live = s.live := by rw [modTeam_eq]
@[simp] theorem modTeam_events (s : State) (k : Nat) (f : Team → Team) : (s.modTeam k f).events = s.events := by rw [modTeam_eq]
@[simp] theorem modTeam_keys (s : State) (k : Nat) (f : Team → Team) : (s.modTeam k f).keys = s.keys := by rw [modTeam_eq]
@[simp] theorem modTeam_pairs (s : State) (k : Nat) (f : Team → Team) : (s.modTeam k f).pairs = s.pairs := by rw [modTeam_eq]
@[simp] theorem modTeam_l2tlb (s : State) (k : Nat) (f : Team → Team) : (s.modTeam k f).l2tlb = s.l2tlb := by rw [modTeam_eq]
@[simp] theorem modTeam_pinned (s : State) (k : Nat) (f : Team → Team) : (s.modTeam k f).pinned = s.pinned := by rw [modTeam_eq]
@[simp] theorem modTeam_qepoch (s : State) (k : Nat) (f : Team → Team) : (s.modTeam k f).qepoch = s.qepoch := by rw [modTeam_eq]
@[simp] theorem modTeam_cellar (s : State) (k : Nat) (f : Team → Team) : (s.modTeam k f).cellar = s.cellar := by rw [modTeam_eq]
@[simp] theorem modTeam_queues (s : State) (k : Nat) (f : Team → Team) : (s.modTeam k f).queues = s.queues := by rw [modTeam_eq]
@[simp] theorem modTeam_qserved (s : State) (k : Nat) (f : Team → Team) : (s.modTeam k f).qserved = s.qserved := by rw [modTeam_eq]
@[simp] theorem modTeam_rings (s : State) (k : Nat) (f : Team → Team) : (s.modTeam k f).rings = s.rings := by rw [modTeam_eq]
@[simp] theorem modTeam_edf (s : State) (k : Nat) (f : Team → Team) : (s.modTeam k f).edf = s.edf := by rw [modTeam_eq]
@[simp] theorem modTeam_mintIn (s : State) (k : Nat) (f : Team → Team) : (s.modTeam k f).mintIn = s.mintIn := by rw [modTeam_eq]
@[simp] theorem modTeam_nrctl (s : State) (k : Nat) (f : Team → Team) : (s.modTeam k f).nrctl = s.nrctl := by rw [modTeam_eq]
@[simp] theorem modTeam_nrbase (s : State) (k : Nat) (f : Team → Team) : (s.modTeam k f).nrbase = s.nrbase := by rw [modTeam_eq]
@[simp] theorem modTeam_slEn (s : State) (k : Nat) (f : Team → Team) : (s.modTeam k f).slEn = s.slEn := by rw [modTeam_eq]
@[simp] theorem modTeam_slN (s : State) (k : Nat) (f : Team → Team) : (s.modTeam k f).slN = s.slN := by rw [modTeam_eq]
@[simp] theorem modTeam_slPeriod (s : State) (k : Nat) (f : Team → Team) : (s.modTeam k f).slPeriod = s.slPeriod := by rw [modTeam_eq]
@[simp] theorem modTeam_slDrn (s : State) (k : Nat) (f : Team → Team) : (s.modTeam k f).slDrn = s.slDrn := by rw [modTeam_eq]
@[simp] theorem modTeam_slEpoch (s : State) (k : Nat) (f : Team → Team) : (s.modTeam k f).slEpoch = s.slEpoch := by rw [modTeam_eq]
@[simp] theorem modTeam_slSel (s : State) (k : Nat) (f : Team → Team) : (s.modTeam k f).slSel = s.slSel := by rw [modTeam_eq]
@[simp] theorem modTeam_vState (s : State) (k : Nat) (f : Team → Team) : (s.modTeam k f).vState = s.vState := by rw [modTeam_eq]
@[simp] theorem modTeam_vRes (s : State) (k : Nat) (f : Team → Team) : (s.modTeam k f).vRes = s.vRes := by rw [modTeam_eq]
@[simp] theorem modTeam_vHard (s : State) (k : Nat) (f : Team → Team) : (s.modTeam k f).vHard = s.vHard := by rw [modTeam_eq]
@[simp] theorem modTeam_vSaved (s : State) (k : Nat) (f : Team → Team) : (s.modTeam k f).vSaved = s.vSaved := by rw [modTeam_eq]
@[simp] theorem modTeam_vElapsed (s : State) (k : Nat) (f : Team → Team) : (s.modTeam k f).vElapsed = s.vElapsed := by rw [modTeam_eq]
@[simp] theorem modTeam_varea (s : State) (k : Nat) (f : Team → Team) : (s.modTeam k f).varea = s.varea := by rw [modTeam_eq]
@[simp] theorem modTeam_vevt (s : State) (k : Nat) (f : Team → Team) : (s.modTeam k f).vevt = s.vevt := by rw [modTeam_eq]
@[simp] theorem modTeam_vacate (s : State) (k : Nat) (f : Team → Team) : (s.modTeam k f).vacate = s.vacate := by rw [modTeam_eq]
@[simp] theorem modTeam_images (s : State) (k : Nat) (f : Team → Team) : (s.modTeam k f).images = s.images := by rw [modTeam_eq]
@[simp] theorem modTeam_reserves (s : State) (k : Nat) (f : Team → Team) : (s.modTeam k f).reserves = s.reserves := by rw [modTeam_eq]
@[simp] theorem modTeam_pbEn (s : State) (k : Nat) (f : Team → Team) : (s.modTeam k f).pbEn = s.pbEn := by rw [modTeam_eq]
@[simp] theorem modTeam_pbBase (s : State) (k : Nat) (f : Team → Team) : (s.modTeam k f).pbBase = s.pbBase := by rw [modTeam_eq]
@[simp] theorem modTeam_net (s : State) (k : Nat) (f : Team → Team) : (s.modTeam k f).net = s.net := by rw [modTeam_eq]
@[simp] theorem modTeam_answers (s : State) (k : Nat) (f : Team → Team) : (s.modTeam k f).answers = s.answers := by rw [modTeam_eq]
@[simp] theorem modTeam_answered (s : State) (k : Nat) (f : Team → Team) : (s.modTeam k f).answered = s.answered := by rw [modTeam_eq]
@[simp] theorem modTeam_lastContr (s : State) (k : Nat) (f : Team → Team) : (s.modTeam k f).lastContr = s.lastContr := by rw [modTeam_eq]
@[simp] theorem modTeam_nextXid (s : State) (k : Nat) (f : Team → Team) : (s.modTeam k f).nextXid = s.nextXid := by rw [modTeam_eq]
@[simp] theorem modTeam_nextCopy (s : State) (k : Nat) (f : Team → Team) : (s.modTeam k f).nextCopy = s.nextCopy := by rw [modTeam_eq]
@[simp] theorem modTeam_nextUid (s : State) (k : Nat) (f : Team → Team) : (s.modTeam k f).nextUid = s.nextUid := by rw [modTeam_eq]
@[simp] theorem modTeam_arrivalsHeld (s : State) (k : Nat) (f : Team → Team) : (s.modTeam k f).arrivalsHeld = s.arrivalsHeld := by rw [modTeam_eq]
@[simp] theorem modTeam_sent (s : State) (k : Nat) (f : Team → Team) : (s.modTeam k f).sent = s.sent := by rw [modTeam_eq]
@[simp] theorem modTeam_naks (s : State) (k : Nat) (f : Team → Team) : (s.modTeam k f).naks = s.naks := by rw [modTeam_eq]
@[simp] theorem modTeam_devLock (s : State) (k : Nat) (f : Team → Team) : (s.modTeam k f).devLock = s.devLock := by rw [modTeam_eq]
@[simp] theorem modTeam_devBadw (s : State) (k : Nat) (f : Team → Team) : (s.modTeam k f).devBadw = s.devBadw := by rw [modTeam_eq]
@[simp] theorem modTeam_devEccm (s : State) (k : Nat) (f : Team → Team) : (s.modTeam k f).devEccm = s.devEccm := by rw [modTeam_eq]
@[simp] theorem modTeam_devVatx (s : State) (k : Nat) (f : Team → Team) : (s.modTeam k f).devVatx = s.devVatx := by rw [modTeam_eq]
@[simp] theorem modTeam_devPinf (s : State) (k : Nat) (f : Team → Team) : (s.modTeam k f).devPinf = s.devPinf := by rw [modTeam_eq]
@[simp] theorem modTeam_devPact (s : State) (k : Nat) (f : Team → Team) : (s.modTeam k f).devPact = s.devPact := by rw [modTeam_eq]
@[simp] theorem modTeam_devProf (s : State) (k : Nat) (f : Team → Team) : (s.modTeam k f).devProf = s.devProf := by rw [modTeam_eq]
@[simp] theorem modTeam_eccMode (s : State) (k : Nat) (f : Team → Team) : (s.modTeam k f).eccMode = s.eccMode := by rw [modTeam_eq]
@[simp] theorem modTeam_featen (s : State) (k : Nat) (f : Team → Team) : (s.modTeam k f).featen = s.featen := by rw [modTeam_eq]
@[simp] theorem modTeam_idLock (s : State) (k : Nat) (f : Team → Team) : (s.modTeam k f).idLock = s.idLock := by rw [modTeam_eq]
@[simp] theorem modTeam_portUp (s : State) (k : Nat) (f : Team → Team) : (s.modTeam k f).portUp = s.portUp := by rw [modTeam_eq]
@[simp] theorem modTeam_devNum (s : State) (k : Nat) (f : Team → Team) : (s.modTeam k f).devNum = s.devNum := by rw [modTeam_eq]
@[simp] theorem modTeam_bootKind (s : State) (k : Nat) (f : Team → Team) : (s.modTeam k f).bootKind = s.bootKind := by rw [modTeam_eq]
@[simp] theorem modTeam_bootRetrain (s : State) (k : Nat) (f : Team → Team) : (s.modTeam k f).bootRetrain = s.bootRetrain := by rw [modTeam_eq]
@[simp] theorem modTeam_bootStep (s : State) (k : Nat) (f : Team → Team) : (s.modTeam k f).bootStep = s.bootStep := by rw [modTeam_eq]
@[simp] theorem modTeam_bootFail (s : State) (k : Nat) (f : Team → Team) : (s.modTeam k f).bootFail = s.bootFail := by rw [modTeam_eq]
@[simp] theorem modTeam_bfail (s : State) (k : Nat) (f : Team → Team) : (s.modTeam k f).bfail = s.bfail := by rw [modTeam_eq]
@[simp] theorem modTeam_warmReq (s : State) (k : Nat) (f : Team → Team) : (s.modTeam k f).warmReq = s.warmReq := by rw [modTeam_eq]
@[simp] theorem modTeam_poolSz (s : State) (k : Nat) (f : Team → Team) : (s.modTeam k f).poolSz = s.poolSz := by rw [modTeam_eq]
@[simp] theorem modTeam_warms (s : State) (k : Nat) (f : Team → Team) : (s.modTeam k f).warms = s.warms := by rw [modTeam_eq]
@[simp] theorem modTeam_starts (s : State) (k : Nat) (f : Team → Team) : (s.modTeam k f).starts = s.starts := by rw [modTeam_eq]
@[simp] theorem modTeam_thrLvl (s : State) (k : Nat) (f : Team → Team) : (s.modTeam k f).thrLvl = s.thrLvl := by rw [modTeam_eq]
@[simp] theorem modTeam_thrCur (s : State) (k : Nat) (f : Team → Team) : (s.modTeam k f).thrCur = s.thrCur := by rw [modTeam_eq]
@[simp] theorem modTeam_thrHot (s : State) (k : Nat) (f : Team → Team) : (s.modTeam k f).thrHot = s.thrHot := by rw [modTeam_eq]
@[simp] theorem modTeam_thrTemp (s : State) (k : Nat) (f : Team → Team) : (s.modTeam k f).thrTemp = s.thrTemp := by rw [modTeam_eq]
@[simp] theorem modTeam_eccUe (s : State) (k : Nat) (f : Team → Team) : (s.modTeam k f).eccUe = s.eccUe := by rw [modTeam_eq]
@[simp] theorem modTeam_eccCe (s : State) (k : Nat) (f : Team → Team) : (s.modTeam k f).eccCe = s.eccCe := by rw [modTeam_eq]
@[simp] theorem modTeam_sbFrozen (s : State) (k : Nat) (f : Team → Team) : (s.modTeam k f).sbFrozen = s.sbFrozen := by rw [modTeam_eq]
@[simp] theorem modTeam_sbFreeze (s : State) (k : Nat) (f : Team → Team) : (s.modTeam k f).sbFreeze = s.sbFreeze := by rw [modTeam_eq]
@[simp] theorem modTeam_sbCause (s : State) (k : Nat) (f : Team → Team) : (s.modTeam k f).sbCause = s.sbCause := by rw [modTeam_eq]
@[simp] theorem modTeam_sbDrop (s : State) (k : Nat) (f : Team → Team) : (s.modTeam k f).sbDrop = s.sbDrop := by rw [modTeam_eq]
@[simp] theorem modTeam_sbWidx (s : State) (k : Nat) (f : Team → Team) : (s.modTeam k f).sbWidx = s.sbWidx := by rw [modTeam_eq]
@[simp] theorem modTeam_strongbox (s : State) (k : Nat) (f : Team → Team) : (s.modTeam k f).strongbox = s.strongbox := by rw [modTeam_eq]
@[simp] theorem modTeam_cxlUp (s : State) (k : Nat) (f : Team → Team) : (s.modTeam k f).cxlUp = s.cxlUp := by rw [modTeam_eq]
@[simp] theorem modTeam_psPend (s : State) (k : Nat) (f : Team → Team) : (s.modTeam k f).psPend = s.psPend := by rw [modTeam_eq]
@[simp] theorem modTeam_psLstat (s : State) (k : Nat) (f : Team → Team) : (s.modTeam k f).psLstat = s.psLstat := by rw [modTeam_eq]
@[simp] theorem modTeam_psStatus (s : State) (k : Nat) (f : Team → Team) : (s.modTeam k f).psStatus = s.psStatus := by rw [modTeam_eq]
@[simp] theorem modTeam_firstStart (s : State) (k : Nat) (f : Team → Team) : (s.modTeam k f).firstStart = s.firstStart := by rw [modTeam_eq]
@[simp] theorem modTeam_inReset (s : State) (k : Nat) (f : Team → Team) : (s.modTeam k f).inReset = s.inReset := by rw [modTeam_eq]
@[simp] theorem modTeam_time (s : State) (k : Nat) (f : Team → Team) : (s.modTeam k f).time = s.time := by rw [modTeam_eq]
@[simp] theorem modTeam_cur (s : State) (k : Nat) (f : Team → Team) : (s.modTeam k f).cur = s.cur := by rw [modTeam_eq]
@[simp] theorem modTeam_curPart (s : State) (k : Nat) (f : Team → Team) : (s.modTeam k f).curPart = s.curPart := by rw [modTeam_eq]
@[simp] theorem modTeam_curStream (s : State) (k : Nat) (f : Team → Team) : (s.modTeam k f).curStream = s.curStream := by rw [modTeam_eq]
@[simp] theorem modTeam_curQueue (s : State) (k : Nat) (f : Team → Team) : (s.modTeam k f).curQueue = s.curQueue := by rw [modTeam_eq]
@[simp] theorem modTeam_agenda (s : State) (k : Nat) (f : Team → Team) : (s.modTeam k f).agenda = s.agenda := by rw [modTeam_eq]
@[simp] theorem modTeam_fresh (s : State) (k : Nat) (f : Team → Team) : (s.modTeam k f).fresh = s.fresh := by rw [modTeam_eq]
@[simp] theorem modTeam_turns (s : State) (k : Nat) (f : Team → Team) : (s.modTeam k f).turns = s.turns := by rw [modTeam_eq]

theorem cellSet_eq (s : State) (c : Bool × Nat) (v : Word) : (cellSet s c v) = { s with sregs := (cellSet s c v).sregs, vregs := (cellSet s c v).vregs } := by
  unfold cellSet; split <;> rfl
@[simp] theorem cellSet_hbm (s : State) (c : Bool × Nat) (v : Word) : (cellSet s c v).hbm = s.hbm := by rw [cellSet_eq]
@[simp] theorem cellSet_win (s : State) (c : Bool × Nat) (v : Word) : (cellSet s c v).win = s.win := by rw [cellSet_eq]
@[simp] theorem cellSet_accs (s : State) (c : Bool × Nat) (v : Word) : (cellSet s c v).accs = s.accs := by rw [cellSet_eq]
@[simp] theorem cellSet_lpddr (s : State) (c : Bool × Nat) (v : Word) : (cellSet s c v).lpddr = s.lpddr := by rw [cellSet_eq]
@[simp] theorem cellSet_cxl (s : State) (c : Bool × Nat) (v : Word) : (cellSet s c v).cxl = s.cxl := by rw [cellSet_eq]
@[simp] theorem cellSet_icache (s : State) (c : Bool × Nat) (v : Word) : (cellSet s c v).icache = s.icache := by rw [cellSet_eq]
@[simp] theorem cellSet_poison (s : State) (c : Bool × Nat) (v : Word) : (cellSet s c v).poison = s.poison := by rw [cellSet_eq]
@[simp] theorem cellSet_groups (s : State) (c : Bool × Nat) (v : Word) : (cellSet s c v).groups = s.groups := by rw [cellSet_eq]
@[simp] theorem cellSet_teams (s : State) (c : Bool × Nat) (v : Word) : (cellSet s c v).teams = s.teams := by rw [cellSet_eq]
@[simp] theorem cellSet_cores (s : State) (c : Bool × Nat) (v : Word) : (cellSet s c v).cores = s.cores := by rw [cellSet_eq]
@[simp] theorem cellSet_clusters (s : State) (c : Bool × Nat) (v : Word) : (cellSet s c v).clusters = s.clusters := by rw [cellSet_eq]
@[simp] theorem cellSet_parts (s : State) (c : Bool × Nat) (v : Word) : (cellSet s c v).parts = s.parts := by rw [cellSet_eq]
@[simp] theorem cellSet_live (s : State) (c : Bool × Nat) (v : Word) : (cellSet s c v).live = s.live := by rw [cellSet_eq]
@[simp] theorem cellSet_events (s : State) (c : Bool × Nat) (v : Word) : (cellSet s c v).events = s.events := by rw [cellSet_eq]
@[simp] theorem cellSet_keys (s : State) (c : Bool × Nat) (v : Word) : (cellSet s c v).keys = s.keys := by rw [cellSet_eq]
@[simp] theorem cellSet_pairs (s : State) (c : Bool × Nat) (v : Word) : (cellSet s c v).pairs = s.pairs := by rw [cellSet_eq]
@[simp] theorem cellSet_l2tlb (s : State) (c : Bool × Nat) (v : Word) : (cellSet s c v).l2tlb = s.l2tlb := by rw [cellSet_eq]
@[simp] theorem cellSet_pinned (s : State) (c : Bool × Nat) (v : Word) : (cellSet s c v).pinned = s.pinned := by rw [cellSet_eq]
@[simp] theorem cellSet_qepoch (s : State) (c : Bool × Nat) (v : Word) : (cellSet s c v).qepoch = s.qepoch := by rw [cellSet_eq]
@[simp] theorem cellSet_cellar (s : State) (c : Bool × Nat) (v : Word) : (cellSet s c v).cellar = s.cellar := by rw [cellSet_eq]
@[simp] theorem cellSet_queues (s : State) (c : Bool × Nat) (v : Word) : (cellSet s c v).queues = s.queues := by rw [cellSet_eq]
@[simp] theorem cellSet_qserved (s : State) (c : Bool × Nat) (v : Word) : (cellSet s c v).qserved = s.qserved := by rw [cellSet_eq]
@[simp] theorem cellSet_rings (s : State) (c : Bool × Nat) (v : Word) : (cellSet s c v).rings = s.rings := by rw [cellSet_eq]
@[simp] theorem cellSet_edf (s : State) (c : Bool × Nat) (v : Word) : (cellSet s c v).edf = s.edf := by rw [cellSet_eq]
@[simp] theorem cellSet_mintIn (s : State) (c : Bool × Nat) (v : Word) : (cellSet s c v).mintIn = s.mintIn := by rw [cellSet_eq]
@[simp] theorem cellSet_nrctl (s : State) (c : Bool × Nat) (v : Word) : (cellSet s c v).nrctl = s.nrctl := by rw [cellSet_eq]
@[simp] theorem cellSet_nrbase (s : State) (c : Bool × Nat) (v : Word) : (cellSet s c v).nrbase = s.nrbase := by rw [cellSet_eq]
@[simp] theorem cellSet_slEn (s : State) (c : Bool × Nat) (v : Word) : (cellSet s c v).slEn = s.slEn := by rw [cellSet_eq]
@[simp] theorem cellSet_slN (s : State) (c : Bool × Nat) (v : Word) : (cellSet s c v).slN = s.slN := by rw [cellSet_eq]
@[simp] theorem cellSet_slPeriod (s : State) (c : Bool × Nat) (v : Word) : (cellSet s c v).slPeriod = s.slPeriod := by rw [cellSet_eq]
@[simp] theorem cellSet_slDrn (s : State) (c : Bool × Nat) (v : Word) : (cellSet s c v).slDrn = s.slDrn := by rw [cellSet_eq]
@[simp] theorem cellSet_slEpoch (s : State) (c : Bool × Nat) (v : Word) : (cellSet s c v).slEpoch = s.slEpoch := by rw [cellSet_eq]
@[simp] theorem cellSet_slSel (s : State) (c : Bool × Nat) (v : Word) : (cellSet s c v).slSel = s.slSel := by rw [cellSet_eq]
@[simp] theorem cellSet_vState (s : State) (c : Bool × Nat) (v : Word) : (cellSet s c v).vState = s.vState := by rw [cellSet_eq]
@[simp] theorem cellSet_vRes (s : State) (c : Bool × Nat) (v : Word) : (cellSet s c v).vRes = s.vRes := by rw [cellSet_eq]
@[simp] theorem cellSet_vHard (s : State) (c : Bool × Nat) (v : Word) : (cellSet s c v).vHard = s.vHard := by rw [cellSet_eq]
@[simp] theorem cellSet_vSaved (s : State) (c : Bool × Nat) (v : Word) : (cellSet s c v).vSaved = s.vSaved := by rw [cellSet_eq]
@[simp] theorem cellSet_vElapsed (s : State) (c : Bool × Nat) (v : Word) : (cellSet s c v).vElapsed = s.vElapsed := by rw [cellSet_eq]
@[simp] theorem cellSet_varea (s : State) (c : Bool × Nat) (v : Word) : (cellSet s c v).varea = s.varea := by rw [cellSet_eq]
@[simp] theorem cellSet_vevt (s : State) (c : Bool × Nat) (v : Word) : (cellSet s c v).vevt = s.vevt := by rw [cellSet_eq]
@[simp] theorem cellSet_vacate (s : State) (c : Bool × Nat) (v : Word) : (cellSet s c v).vacate = s.vacate := by rw [cellSet_eq]
@[simp] theorem cellSet_images (s : State) (c : Bool × Nat) (v : Word) : (cellSet s c v).images = s.images := by rw [cellSet_eq]
@[simp] theorem cellSet_reserves (s : State) (c : Bool × Nat) (v : Word) : (cellSet s c v).reserves = s.reserves := by rw [cellSet_eq]
@[simp] theorem cellSet_pbEn (s : State) (c : Bool × Nat) (v : Word) : (cellSet s c v).pbEn = s.pbEn := by rw [cellSet_eq]
@[simp] theorem cellSet_pbBase (s : State) (c : Bool × Nat) (v : Word) : (cellSet s c v).pbBase = s.pbBase := by rw [cellSet_eq]
@[simp] theorem cellSet_net (s : State) (c : Bool × Nat) (v : Word) : (cellSet s c v).net = s.net := by rw [cellSet_eq]
@[simp] theorem cellSet_answers (s : State) (c : Bool × Nat) (v : Word) : (cellSet s c v).answers = s.answers := by rw [cellSet_eq]
@[simp] theorem cellSet_answered (s : State) (c : Bool × Nat) (v : Word) : (cellSet s c v).answered = s.answered := by rw [cellSet_eq]
@[simp] theorem cellSet_lastContr (s : State) (c : Bool × Nat) (v : Word) : (cellSet s c v).lastContr = s.lastContr := by rw [cellSet_eq]
@[simp] theorem cellSet_nextXid (s : State) (c : Bool × Nat) (v : Word) : (cellSet s c v).nextXid = s.nextXid := by rw [cellSet_eq]
@[simp] theorem cellSet_nextCopy (s : State) (c : Bool × Nat) (v : Word) : (cellSet s c v).nextCopy = s.nextCopy := by rw [cellSet_eq]
@[simp] theorem cellSet_nextUid (s : State) (c : Bool × Nat) (v : Word) : (cellSet s c v).nextUid = s.nextUid := by rw [cellSet_eq]
@[simp] theorem cellSet_arrivalsHeld (s : State) (c : Bool × Nat) (v : Word) : (cellSet s c v).arrivalsHeld = s.arrivalsHeld := by rw [cellSet_eq]
@[simp] theorem cellSet_sent (s : State) (c : Bool × Nat) (v : Word) : (cellSet s c v).sent = s.sent := by rw [cellSet_eq]
@[simp] theorem cellSet_naks (s : State) (c : Bool × Nat) (v : Word) : (cellSet s c v).naks = s.naks := by rw [cellSet_eq]
@[simp] theorem cellSet_devLock (s : State) (c : Bool × Nat) (v : Word) : (cellSet s c v).devLock = s.devLock := by rw [cellSet_eq]
@[simp] theorem cellSet_devBadw (s : State) (c : Bool × Nat) (v : Word) : (cellSet s c v).devBadw = s.devBadw := by rw [cellSet_eq]
@[simp] theorem cellSet_devEccm (s : State) (c : Bool × Nat) (v : Word) : (cellSet s c v).devEccm = s.devEccm := by rw [cellSet_eq]
@[simp] theorem cellSet_devVatx (s : State) (c : Bool × Nat) (v : Word) : (cellSet s c v).devVatx = s.devVatx := by rw [cellSet_eq]
@[simp] theorem cellSet_devPinf (s : State) (c : Bool × Nat) (v : Word) : (cellSet s c v).devPinf = s.devPinf := by rw [cellSet_eq]
@[simp] theorem cellSet_devPact (s : State) (c : Bool × Nat) (v : Word) : (cellSet s c v).devPact = s.devPact := by rw [cellSet_eq]
@[simp] theorem cellSet_devProf (s : State) (c : Bool × Nat) (v : Word) : (cellSet s c v).devProf = s.devProf := by rw [cellSet_eq]
@[simp] theorem cellSet_eccMode (s : State) (c : Bool × Nat) (v : Word) : (cellSet s c v).eccMode = s.eccMode := by rw [cellSet_eq]
@[simp] theorem cellSet_featen (s : State) (c : Bool × Nat) (v : Word) : (cellSet s c v).featen = s.featen := by rw [cellSet_eq]
@[simp] theorem cellSet_idLock (s : State) (c : Bool × Nat) (v : Word) : (cellSet s c v).idLock = s.idLock := by rw [cellSet_eq]
@[simp] theorem cellSet_portUp (s : State) (c : Bool × Nat) (v : Word) : (cellSet s c v).portUp = s.portUp := by rw [cellSet_eq]
@[simp] theorem cellSet_devNum (s : State) (c : Bool × Nat) (v : Word) : (cellSet s c v).devNum = s.devNum := by rw [cellSet_eq]
@[simp] theorem cellSet_bootKind (s : State) (c : Bool × Nat) (v : Word) : (cellSet s c v).bootKind = s.bootKind := by rw [cellSet_eq]
@[simp] theorem cellSet_bootRetrain (s : State) (c : Bool × Nat) (v : Word) : (cellSet s c v).bootRetrain = s.bootRetrain := by rw [cellSet_eq]
@[simp] theorem cellSet_bootStep (s : State) (c : Bool × Nat) (v : Word) : (cellSet s c v).bootStep = s.bootStep := by rw [cellSet_eq]
@[simp] theorem cellSet_bootFail (s : State) (c : Bool × Nat) (v : Word) : (cellSet s c v).bootFail = s.bootFail := by rw [cellSet_eq]
@[simp] theorem cellSet_bfail (s : State) (c : Bool × Nat) (v : Word) : (cellSet s c v).bfail = s.bfail := by rw [cellSet_eq]
@[simp] theorem cellSet_warmReq (s : State) (c : Bool × Nat) (v : Word) : (cellSet s c v).warmReq = s.warmReq := by rw [cellSet_eq]
@[simp] theorem cellSet_poolSz (s : State) (c : Bool × Nat) (v : Word) : (cellSet s c v).poolSz = s.poolSz := by rw [cellSet_eq]
@[simp] theorem cellSet_warms (s : State) (c : Bool × Nat) (v : Word) : (cellSet s c v).warms = s.warms := by rw [cellSet_eq]
@[simp] theorem cellSet_starts (s : State) (c : Bool × Nat) (v : Word) : (cellSet s c v).starts = s.starts := by rw [cellSet_eq]
@[simp] theorem cellSet_thrLvl (s : State) (c : Bool × Nat) (v : Word) : (cellSet s c v).thrLvl = s.thrLvl := by rw [cellSet_eq]
@[simp] theorem cellSet_thrCur (s : State) (c : Bool × Nat) (v : Word) : (cellSet s c v).thrCur = s.thrCur := by rw [cellSet_eq]
@[simp] theorem cellSet_thrHot (s : State) (c : Bool × Nat) (v : Word) : (cellSet s c v).thrHot = s.thrHot := by rw [cellSet_eq]
@[simp] theorem cellSet_thrTemp (s : State) (c : Bool × Nat) (v : Word) : (cellSet s c v).thrTemp = s.thrTemp := by rw [cellSet_eq]
@[simp] theorem cellSet_eccUe (s : State) (c : Bool × Nat) (v : Word) : (cellSet s c v).eccUe = s.eccUe := by rw [cellSet_eq]
@[simp] theorem cellSet_eccCe (s : State) (c : Bool × Nat) (v : Word) : (cellSet s c v).eccCe = s.eccCe := by rw [cellSet_eq]
@[simp] theorem cellSet_sbFrozen (s : State) (c : Bool × Nat) (v : Word) : (cellSet s c v).sbFrozen = s.sbFrozen := by rw [cellSet_eq]
@[simp] theorem cellSet_sbFreeze (s : State) (c : Bool × Nat) (v : Word) : (cellSet s c v).sbFreeze = s.sbFreeze := by rw [cellSet_eq]
@[simp] theorem cellSet_sbCause (s : State) (c : Bool × Nat) (v : Word) : (cellSet s c v).sbCause = s.sbCause := by rw [cellSet_eq]
@[simp] theorem cellSet_sbDrop (s : State) (c : Bool × Nat) (v : Word) : (cellSet s c v).sbDrop = s.sbDrop := by rw [cellSet_eq]
@[simp] theorem cellSet_sbWidx (s : State) (c : Bool × Nat) (v : Word) : (cellSet s c v).sbWidx = s.sbWidx := by rw [cellSet_eq]
@[simp] theorem cellSet_strongbox (s : State) (c : Bool × Nat) (v : Word) : (cellSet s c v).strongbox = s.strongbox := by rw [cellSet_eq]
@[simp] theorem cellSet_cxlUp (s : State) (c : Bool × Nat) (v : Word) : (cellSet s c v).cxlUp = s.cxlUp := by rw [cellSet_eq]
@[simp] theorem cellSet_psPend (s : State) (c : Bool × Nat) (v : Word) : (cellSet s c v).psPend = s.psPend := by rw [cellSet_eq]
@[simp] theorem cellSet_psLstat (s : State) (c : Bool × Nat) (v : Word) : (cellSet s c v).psLstat = s.psLstat := by rw [cellSet_eq]
@[simp] theorem cellSet_psStatus (s : State) (c : Bool × Nat) (v : Word) : (cellSet s c v).psStatus = s.psStatus := by rw [cellSet_eq]
@[simp] theorem cellSet_firstStart (s : State) (c : Bool × Nat) (v : Word) : (cellSet s c v).firstStart = s.firstStart := by rw [cellSet_eq]
@[simp] theorem cellSet_inReset (s : State) (c : Bool × Nat) (v : Word) : (cellSet s c v).inReset = s.inReset := by rw [cellSet_eq]
@[simp] theorem cellSet_time (s : State) (c : Bool × Nat) (v : Word) : (cellSet s c v).time = s.time := by rw [cellSet_eq]
@[simp] theorem cellSet_cur (s : State) (c : Bool × Nat) (v : Word) : (cellSet s c v).cur = s.cur := by rw [cellSet_eq]
@[simp] theorem cellSet_curPart (s : State) (c : Bool × Nat) (v : Word) : (cellSet s c v).curPart = s.curPart := by rw [cellSet_eq]
@[simp] theorem cellSet_curStream (s : State) (c : Bool × Nat) (v : Word) : (cellSet s c v).curStream = s.curStream := by rw [cellSet_eq]
@[simp] theorem cellSet_curQueue (s : State) (c : Bool × Nat) (v : Word) : (cellSet s c v).curQueue = s.curQueue := by rw [cellSet_eq]
@[simp] theorem cellSet_agenda (s : State) (c : Bool × Nat) (v : Word) : (cellSet s c v).agenda = s.agenda := by rw [cellSet_eq]
@[simp] theorem cellSet_fresh (s : State) (c : Bool × Nat) (v : Word) : (cellSet s c v).fresh = s.fresh := by rw [cellSet_eq]
@[simp] theorem cellSet_turns (s : State) (c : Bool × Nat) (v : Word) : (cellSet s c v).turns = s.turns := by rw [cellSet_eq]

end Sys2Proof.Laws
end

