-- ==== Sys2Proof/Laws/Registers.lean ====
section
/-! SUPPORT. The laws of registers and of issue: what a register lane holds after a write, what a destination holds after a result, and
what an instruction that passes its checks leads to. -/
namespace Sys2Proof.Laws
open Sys2Proof Sys2Proof.Machine

@[simp] theorem group?_setGroup_same (s : State) (id : GroupId) (g : Group) : (s.setGroup id g).group? id = some g := by
  simp [State.setGroup, State.group?]

theorem group?_setGroup_other (s : State) (id id' : GroupId) (g : Group) (h : id' ≠ id) :
    (s.setGroup id g).group? id' = s.group? id' := by
  simp only [State.setGroup, State.group?]
  exact tabGet_tabSet_other _ _ _ _ h

theorem modGroup_some (s : State) (id : GroupId) (f : Group → Group) (g : Group) (h : s.group? id = some g) :
    s.modGroup id f = s.setGroup id (f g) := by
  simp [State.modGroup, h]

theorem setGroup_setGroup (s : State) (id : GroupId) (g g' : Group) : (s.setGroup id g).setGroup id g' = s.setGroup id g' := by
  simp [State.setGroup, tabSet_tabSet]

@[simp] theorem cellSet_group? (s : State) (c : Bool × Nat) (v : Word) (id : GroupId) : (cellSet s c v).group? id = s.group? id := by
  simp [State.group?]

@[simp] theorem cellGet_cellSet_same (s : State) (c : Bool × Nat) (v : Word) : cellGet (cellSet s c v) c = v := by
  unfold cellGet cellSet
  split <;> simp_all

theorem cellGet_cellSet_other (s : State) (c c' : Bool × Nat) (v : Word) (h : c' ≠ c) :
    cellGet (cellSet s c v) c' = cellGet s c' := by
  obtain ⟨b, n⟩ := c
  obtain ⟨b', n'⟩ := c'
  unfold cellGet cellSet
  cases b <;> cases b' <;> simp only [Bool.false_eq_true, if_false, if_true]
  · exact storeGet_storeSet_other _ _ _ _ (by rintro rfl; exact h rfl)
  · exact storeGet_storeSet_other _ _ _ _ (by rintro rfl; exact h rfl)

/-- Write lanes one after another. -/
def writeCells (s : State) (l : List ((Bool × Nat) × Word)) : State := l.foldl (fun s e => cellSet s e.1 e.2) s

theorem writeCells_other (l : List ((Bool × Nat) × Word)) : ∀ (s : State) (c : Bool × Nat), (∀ e ∈ l, e.1 ≠ c) →
    cellGet (writeCells s l) c = cellGet s c := by
  induction l with
  | nil => intro s c _; rfl
  | cons e r ih =>
    intro s c h
    have := ih (cellSet s e.1 e.2) c (fun x hx => h x (by simp [hx]))
    rw [show writeCells s (e :: r) = writeCells (cellSet s e.1 e.2) r from rfl, this,
      cellGet_cellSet_other _ _ _ _ (fun x => h e (by simp) x.symm)]

theorem writeCells_mem (l : List ((Bool × Nat) × Word)) : ∀ (s : State) (c : Bool × Nat) (v : Word),
    (c, v) ∈ l → (∀ e ∈ l, e.1 = c → e.2 = v) → cellGet (writeCells s l) c = v := by
  induction l with
  | nil => intro s c v h; simp at h
  | cons e r ih =>
    intro s c v h hu
    rw [show writeCells s (e :: r) = writeCells (cellSet s e.1 e.2) r from rfl]
    by_cases hr : (c, v) ∈ r
    · exact ih _ _ _ hr fun x hx => hu x (by simp [hx])
    · rcases List.mem_cons.1 h with rfl | h'
      · by_cases hex : ∃ x ∈ r, x.1 = c
        · obtain ⟨x, hx, hc⟩ := hex
          have hv := hu x (by simp [hx]) hc
          exact absurd (by rw [← hc, ← hv]; exact hx) hr
        · rw [writeCells_other _ _ _ (fun x hx hc => hex ⟨x, hx, hc⟩), cellGet_cellSet_same]
      · exact absurd h' hr

theorem writeCells_frame (l : List ((Bool × Nat) × Word)) : ∀ s : State,
    writeCells s l = { s with vregs := (writeCells s l).vregs, sregs := (writeCells s l).sregs } := by
  induction l with
  | nil => intro s; rfl
  | cons e r ih =>
    intro s
    rw [show writeCells s (e :: r) = writeCells (cellSet s e.1 e.2) r from rfl, ih]
    rw [cellSet_eq]

theorem writeV_eq (s : State) (id : GroupId) (g : Group) (reg : Nat) (vals : List (Nat × Word)) :
    writeV s id g reg vals = writeCells s (vals.map fun e => (regCell id g reg e.1, e.2)) := by
  simp [writeV, writeCells, List.foldl_map]

theorem writeCells_append (s : State) (l r : List ((Bool × Nat) × Word)) : writeCells s (l ++ r) = writeCells (writeCells s l) r := by
  simp [writeCells]

theorem foldl_writeV (ks : List Nat) (vals : Nat → List (Nat × Word)) (id : GroupId) (g : Group) (r : Nat) : ∀ s : State,
    ks.foldl (fun s k => writeV s id g (r + k) (vals k)) s =
      writeCells s (ks.flatMap fun k => (vals k).map fun e => (regCell id g (r + k) e.1, e.2)) := by
  induction ks with
  | nil => intro s; rfl
  | cons k t ih => intro s; rw [List.foldl_cons, ih, List.flatMap_cons, writeCells_append, writeV_eq]

/-- Register lanes of one field are apart: at most four registers, at most 64 lanes on a core and one on a sequencer. -/
theorem regCell_inj {id : GroupId} {g : Group} {r k k' l l' : Nat} (hk : k < 4) (hk' : k' < 4)
    (hl : if isSeq id then l = 0 ∧ l' = 0 else l < 64 ∧ l' < 64) (h : regCell id g (r + k) l = regCell id g (r + k') l') :
    k = k' ∧ l = l' := by
  unfold regCell at h
  split at h
  · next hs =>
    rw [if_pos hs] at hl
    injection h with _ h
    omega
  · next hs =>
    rw [if_neg hs] at hl
    injection h with _ h
    omega

theorem active_lt {g : Group} {l : Nat} (h : l ∈ g.active) : l < g.width := by
  simp [Group.active] at h; exact h.1

theorem active_shape {s : State} {g : Group} (hw : if isSeq s.cur then g.width = 1 else g.width ≤ 64) {l l' : Nat}
    (h : l ∈ g.active) (h' : l' ∈ g.active) : if isSeq s.cur then l = 0 ∧ l' = 0 else l < 64 ∧ l' < 64 := by
  have h1 := active_lt h
  have h2 := active_lt h'
  split at hw
  · simp_all
  · simp_all; omega

/-- Lanes of a sound register file are read as they are stored. -/
theorem sound_cellRead {s : State} {g : Group} (hs : Sound s g) {reg lane : Nat} (hl : lane < 64) :
    cellRead s (regCell s.cur g reg lane) = cellGet s (regCell s.cur g reg lane) := by
  simp [cellRead, hs reg lane hl]

/-- Writing lanes of a sound register file leaves the poison as it is. -/
theorem sound_heal {s t : State} {g : Group} (hs : Sound s g) (ht : t.poison = s.poison) (cells : List (Bool × Nat))
    (hc : ∀ c ∈ cells, ∃ reg lane, lane < 64 ∧ c = regCell s.cur g reg lane) : healCells t cells = t := by
  have hp : t.poison.filter (fun u => !cells.any fun c => cellUnit c == u && cells.any fun d => cellUnit d == u && d != c) = t.poison := by
    refine List.filter_eq_self.2 fun u hu => ?_
    simp only [Bool.not_eq_true', List.any_eq_false]
    intro c hm
    obtain ⟨reg, lane, hl, rfl⟩ := hc c hm
    have hb := hs reg lane hl
    simp only [cellBad, List.contains_eq_mem, decide_eq_false_iff_not] at hb
    have : ¬ cellUnit (regCell s.cur g reg lane) = u := by
      rintro rfl
      exact hb (ht ▸ hu)
    simp [this]
  unfold healCells
  rw [hp]

/-- The lanes of a group are lanes of its register file. -/
theorem width_le {s : State} {g : Group} (hc : Current s g) : g.width ≤ 64 := by
  have h := hc.2.2.2.1
  split at h <;> omega

/-- An instruction of a current group meets no uncorrectable register word. -/
theorem sound_sources {s : State} {g : Group} (hc : Current s g) (i : Instr) : eccSources s s.cur g i = none := by
  have hw := width_le hc
  have hs := hc.2.2.2.2
  unfold eccSources
  split
  · rfl
  · have hb : ∀ cells : Nat → List (Bool × Nat), (∀ lane < 64, ∀ c ∈ cells lane, cellBad s c = false) →
        ((List.range g.width).filterMap fun lane => ((cells lane).find? (cellBad s)).map fun c => (lane, c)) = [] := by
      intro cells hcells
      rw [List.filterMap_eq_nil_iff]
      intro lane hm
      have := List.mem_range.1 hm
      rw [Option.map_eq_none_iff, List.find?_eq_none]
      intro c hcm
      simp [hcells lane (by omega) c hcm]
    dsimp only
    rw [hb]
    intro lane hl c hcm
    simp only [List.mem_flatMap, List.mem_map] at hcm
    obtain ⟨e, -, k, -, rfl⟩ := hcm
    exact hs _ _ hl

/-- What issue leads to for a current group whose instruction passes its checks: the body acts. -/
theorem issue_ok {s : State} {g : Group} {i : Instr} (h : Issues s g i) (body : State → GroupId → Group → State) :
    issue i s body = .next (body s s.cur g) := by
  have hsrc := sound_sources h.1 i
  obtain ⟨⟨hg, ho, he, _⟩, hc⟩ := h
  simp [issue, hg, closeWindows, landWhere, ho, he, hc, hsrc]

theorem retire_eq (s : State) (id : GroupId) (g : Group) (hg : s.group? id = some g) (ho : g.out = []) :
    retire s id = { s.setGroup id g.goesOn with fresh := s.fresh + 8 } := by
  unfold retire
  rw [modGroup_some _ _ _ _ hg]
  simp [Group.retire, Group.retireTo, Group.goesOn, Group.goesTo, tick, ho]

theorem retireTo_eq (s : State) (id : GroupId) (g : Group) (pc : Dword) (hg : s.group? id = some g) (ho : g.out = []) :
    retireTo s id pc = { s.setGroup id (g.goesTo pc) with fresh := s.fresh + 8 } := by
  unfold retireTo
  rw [modGroup_some _ _ _ _ hg]
  simp [Group.retireTo, Group.goesTo, tick, ho]

/-- The frame of an update of the current group alone. -/
theorem ownGroup_retire (s : State) (g' : Group) (f : Nat) :
    OwnGroup s { s.setGroup s.cur g' with fresh := f } g' := by
  refine ⟨⟨rfl, ?_⟩, fun c => rfl, ?_⟩
  · intro id h; exact group?_setGroup_other s s.cur id g' h
  · exact group?_setGroup_same s s.cur g'

/-- A destination of v registers, with no window open: the lanes are written and nothing else. -/
theorem writeDst_v {s : State} {g : Group} {o : Opnd} (f : Nat → BitVec 128) (hv : opndIsV o = true) (hcur : Current s g) :
    writeDst s s.cur g g.pre o g.active f = writeCells s ((List.range o.wid).flatMap fun k =>
      g.active.map fun l => (cellOf s g o k l, (f l).extractLsb' (32 * k) 32)) := by
  have ho := hcur.2.1
  have hw := width_le hcur
  unfold writeDst
  rw [if_pos hv]
  simp only [foldl_writeV, dirtyCells, ho, List.isEmpty_nil, if_true, List.map_map, Function.comp_def]
  refine sound_heal hcur.2.2.2.2 (by rw [writeCells_frame]) _ ?_
  intro c hm
  simp only [List.mem_map, List.mem_flatMap] at hm
  obtain ⟨x, ⟨k, -, l, hl, rfl⟩, rfl⟩ := hm
  refine ⟨_, l, ?_, rfl⟩
  simp only [Group.active, List.mem_filter, List.mem_range] at hl
  omega

theorem writeCells_group? (s : State) (l : List ((Bool × Nat) × Word)) (id : GroupId) :
    (writeCells s l).group? id = s.group? id := by
  rw [writeCells_frame]; rfl

/-- Completing an instruction after lanes were written, the record of the group being g'. -/
theorem laneResult_of_cells {s : State} {g g' : Group} {o : Opnd} (f : Nat → BitVec 128) (n : Nat) (hc : Current s g)
    (hv : opndIsV o = true) (hw : o.wid ≤ 4) :
    LaneResult s { (writeCells s ((List.range o.wid).flatMap fun k =>
      g.active.map fun l => (cellOf s g o k l, (f l).extractLsb' (32 * k) 32))).setGroup s.cur g' with fresh := n } g g' o f := by
  obtain ⟨hg, ho, he, hsh⟩ := hc
  refine ⟨⟨?_, ?_⟩, ?_⟩
  · rw [writeCells_frame]; rfl
  · intro id hid
    refine (group?_setGroup_other _ s.cur id g' hid).trans ?_
    exact writeCells_group? _ _ _
  · rw [if_pos hv]
    refine ⟨?_, ?_, group?_setGroup_same _ s.cur g'⟩
    · intro lane hl k hk
      show cellGet (writeCells s _) _ = _
      refine writeCells_mem _ _ _ _ ?_ ?_
      · rw [List.mem_flatMap]
        exact ⟨k, List.mem_range.2 hk, List.mem_map.2 ⟨lane, hl, rfl⟩⟩
      · intro e hm hcell
        rw [List.mem_flatMap] at hm
        obtain ⟨k', hk', hm⟩ := hm
        obtain ⟨l', hl', rfl⟩ := List.mem_map.1 hm
        have hk'' := List.mem_range.1 hk'
        have := regCell_inj (id := s.cur) (g := g) (r := regNum g g.pre o) (by omega : k' < 4) (by omega : k < 4)
          (active_shape hsh.1 hl' hl) hcell
        obtain ⟨rfl, rfl⟩ := this
        rfl
    · intro c hcell
      show cellGet (writeCells s _) _ = _
      refine writeCells_other _ _ _ ?_
      intro e hm
      rw [List.mem_flatMap] at hm
      obtain ⟨k', hk', hm⟩ := hm
      obtain ⟨l', hl', rfl⟩ := List.mem_map.1 hm
      exact fun x => hcell l' hl' k' (List.mem_range.1 hk') x.symm

theorem active_head_mem {g : Group} {l : Nat} (h : g.lowest = some l) : l ∈ g.active := by
  unfold Group.lowest at h
  cases ha : g.active with
  | nil => simp [ha] at h
  | cons x r => simp [ha] at h; simp [h]

theorem markDirty_nil (r : List (Nat × Nat)) : markDirty r [] = [] := rfl

theorem withScalar_out {g g' : Group} (o : Opnd) (f : Nat → BitVec 128) : (withScalar g g' o f).out = g'.out := by
  unfold withScalar
  split
  · split <;> rfl
  · rfl

theorem withScalar_goesOn {g : Group} (o : Opnd) (f : Nat → BitVec 128) :
    (withScalar g g o f).goesOn = withScalar g g.goesOn o f := by
  unfold withScalar
  split
  · split <;> rfl
  · rfl

/-- A destination that is no v register, with no window open: at most a scalar of the group changes. -/
theorem writeDst_s {s : State} {g : Group} {o : Opnd} (f : Nat → BitVec 128) (hv : opndIsV o = false) (hg : s.group? s.cur = some g)
    (ho : g.out = []) :
    writeDst s s.cur g g.pre o g.active f = s.setGroup s.cur (withScalar g g o f) ∨
      writeDst s s.cur g g.pre o g.active f = s ∧ withScalar g g o f = g := by
  have h96 : (96#7).ule o.fld = true := by
    unfold opndIsV at hv
    simp [BitVec.ult, BitVec.ule] at hv ⊢
    omega
  unfold writeDst withScalar
  rw [if_neg (by simp [hv])]
  by_cases h112 : o.fld.ult 112#7 = true
  · rw [if_pos h112]
    have hs : scalarOk o.fld = true := by simp [scalarOk, h96, h112]
    cases hl : g.lowest with
    | none => right; simp
    | some l =>
      left
      have hm : g.active.contains l = true := by simpa using active_head_mem hl
      simp only [hs, if_true]
      simp only [hm, if_true]
      rw [modGroup_some _ _ _ _ hg]
      simp [Group.setS, ho, markDirty_nil, scalarVal]
  · rw [if_neg h112]
    right
    have hs : scalarOk o.fld = false := by simp [scalarOk, h112]
    cases hl : g.lowest <;> simp [hs]

/-- A per-lane instruction that is issued: its result stands in its destination, the next word follows, and nothing else differs. -/
theorem perLane_result {s : State} {g : Group} {o : Opnd} (f : State → GroupId → Group → Nat → BitVec 128) (hc : Current s g)
    (hw : o.wid ≤ 4) : LaneResult s (perLane o f s s.cur g) g g.goesOn o (f s s.cur g) := by
  obtain ⟨hg, ho, he, hsh⟩ := hc
  unfold perLane
  by_cases hv : opndIsV o = true
  · rw [writeDst_v _ hv ⟨hg, ho, he, hsh⟩, retire_eq _ _ g (by rw [writeCells_group?]; exact hg) ho]
    exact laneResult_of_cells _ _ ⟨hg, ho, he, hsh⟩ hv hw
  · have hv' : opndIsV o = false := by simpa using hv
    have e : ∃ n, retire (writeDst s s.cur g g.pre o g.active (f s s.cur g)) s.cur =
        { s.setGroup s.cur (withScalar g g.goesOn o (f s s.cur g)) with fresh := n } := by
      refine ⟨s.fresh + 8, ?_⟩
      rcases writeDst_s (f s s.cur g) hv' hg ho with h | ⟨h, h2⟩
      · rw [h, retire_eq _ _ _ (group?_setGroup_same _ _ _) (by rw [withScalar_out]; exact ho), setGroup_setGroup, withScalar_goesOn]
        rfl
      · rw [h, retire_eq _ _ g hg ho, ← withScalar_goesOn, h2]
    obtain ⟨n, e⟩ := e
    rw [e]
    obtain ⟨h1, h2, h3⟩ := ownGroup_retire s (withScalar g g.goesOn o (f s s.cur g)) n
    refine ⟨h1, ?_⟩
    rw [if_neg hv]
    exact ⟨h2, h3⟩

theorem getLsbD_one_shift (i l : Nat) (h : l < 64) : (1#64 <<< i).getLsbD l = decide (l = i) := by
  simp only [BitVec.getLsbD_shiftLeft, h, decide_true, Bool.true_and]
  by_cases hl : l < i
  · simp [hl]; omega
  · have : (1#64).getLsbD (l - i) = decide (l - i = 0) := by
      rcases Nat.eq_zero_or_pos (l - i) with h0 | h0
      · simp [h0]
      · simp [BitVec.getLsbD_one]
    rw [this]; simp [hl]; omega

theorem maskFold (l : Nat) (h : l < 64) (L : List Nat) : ∀ m : Dword,
    (L.foldl (fun m i => m ||| (1#64 <<< i)) m).getLsbD l = (m.getLsbD l || decide (l ∈ L)) := by
  induction L with
  | nil => intro m; simp
  | cons i r ih =>
    intro m
    rw [List.foldl_cons, ih, BitVec.getLsbD_or, getLsbD_one_shift _ _ h]
    by_cases hi : l = i <;> simp [hi]

/-- A mask holds the bits listed. -/
theorem maskOf_bit (L : List Nat) (l : Nat) (h : l < 64) : (maskOf L).getLsbD l = decide (l ∈ L) := by
  unfold maskOf
  rw [maskFold l h]; simp

/-- The full mask holds the bits below the width. -/
theorem fullMask_bit (w l : Nat) (h : l < 64) : (fullMask w).getLsbD l = decide (l < w) := by
  unfold fullMask
  rw [BitVec.getLsbD_ofNat, Nat.testBit_two_pow_sub_one]
  simp [h]

/-- A mask writer that is issued: its mask holds its bits in the active lanes, and nothing else differs. -/
theorem maskWriter_result {s : State} {g : Group} (k : BitVec 7) (f : State → GroupId → Group → Nat → Bool) (hc : Current s g) :
    MaskResult s (maskWriter k f s s.cur g) g k.toNat (f s s.cur g) := by
  obtain ⟨hg, ho, he, hsh⟩ := hc
  unfold maskWriter
  rw [modGroup_some _ _ _ _ hg, retire_eq _ _ _ (group?_setGroup_same _ _ _) (by simpa [Group.setK] using ho), setGroup_setGroup]
  obtain ⟨h1, h2, h3⟩ := ownGroup_retire s (Group.goesOn (g.setK k.toNat (maskOf (g.active.filter (f s s.cur g))))) (s.fresh + 8)
  refine ⟨h1, h2, maskOf (g.active.filter (f s s.cur g)) &&& fullMask g.width, ?_, h3⟩
  intro l hl
  rw [BitVec.getLsbD_and, maskOf_bit _ _ hl, fullMask_bit _ _ hl]
  by_cases hm : l ∈ g.active
  · have := active_lt hm
    by_cases hf : f s s.cur g l = true <;> simp [hm, hf, this]
  · simp [hm]

/-- The scalar written is the same for values that a scalar takes alike. -/
theorem withScalar_congr {g g' : Group} {o : Opnd} {f f' : Nat → BitVec 128}
    (h : ∀ l, scalarVal o.wid (f l) = scalarVal o.wid (f' l)) : withScalar g g' o f = withScalar g g' o f' := by
  unfold withScalar
  split <;> simp [h]

/-- A result is the same for values that agree on the registers written. -/
theorem laneResult_congr {s t : State} {g g' : Group} {o : Opnd} {f f' : Nat → BitVec 128}
    (h : ∀ l, (f l).setWidth (32 * o.wid) = (f' l).setWidth (32 * o.wid)) (ho : o.wid = 1 ∨ o.wid = 2)
    (r : LaneResult s t g g' o f) : LaneResult s t g g' o f' := by
  refine ⟨r.1, ?_⟩
  have r2 := r.2
  have e : ∀ l, ∀ k < o.wid, (f l).extractLsb' (32 * k) 32 = (f' l).extractLsb' (32 * k) 32 := by
    intro l k hk
    have hl := h l
    apply BitVec.eq_of_getLsbD_eq
    intro i hi
    have := congrArg (fun v => v.getLsbD (32 * k + i)) hl
    simp only [BitVec.getLsbD_setWidth] at this
    simp only [BitVec.getLsbD_extractLsb']
    have h2 : 32 * k + i < 32 * o.wid := by omega
    simp only [h2, decide_true, Bool.true_and] at this
    simp [this]
  split
  · next hv =>
    rw [if_pos hv] at r2
    refine ⟨fun l hl k hk => ?_, r2.2.1, r2.2.2⟩
    rw [r2.1 l hl k hk, e l k hk]
  · next hv =>
    rw [if_neg hv] at r2
    refine ⟨r2.1, ?_⟩
    rw [r2.2, withScalar_congr]
    intro l
    have hl := h l
    unfold scalarVal
    generalize o.wid = w at *
    rcases ho with rfl | rfl
    · simp only [if_true]; exact congrArg (BitVec.setWidth 64) hl
    · simpa using hl

/-- A per-lane instruction gives its result. -/
theorem gives_perLane {s : State} {g : Group} {i : Instr} {d : BitVec 7} {n : Nat} {f : Nat → BitVec 128}
    {F : State → GroupId → Group → Nat → BitVec 128}
    (hx : exec i s = issue i s (perLane (dstOpnd d n) F)) (hn : n = 1 ∨ n = 2)
    (hf : ∀ l, (F s s.cur g l).setWidth (32 * n) = (f l).setWidth (32 * n)) : Gives s g i d n f := by
  intro hi
  refine ⟨_, by rw [hx, issue_ok hi], ?_⟩
  exact laneResult_congr (o := dstOpnd d n) hf hn (perLane_result F hi.1 (by show n ≤ 4; omega))
/-- A mask writer gives its bits. -/
theorem gives_maskWriter {s : State} {g : Group} {i : Instr} {d : BitVec 7} {f : Nat → Bool} {F : State → GroupId → Group → Nat → Bool}
    (hx : exec i s = issue i s (maskWriter d F)) (hf : ∀ l, F s s.cur g l = f l) : GivesMask s g i d f := by
  intro hi
  refine ⟨_, by rw [hx, issue_ok hi], ?_⟩
  have := maskWriter_result d F hi.1
  rwa [show F s s.cur g = f from funext hf] at this

end Sys2Proof.Laws
end

