-- ==== Sys2Proof/Tests/Slice0.lean ====
section
/-! SUPPORT. Tests of the model: ill-formed instructions, words of the specification, hypotheses of the statements that a state meets, and
single steps. Expected values are the specification's worked values, or worked by hand from its rules. -/
namespace Sys2Proof.Tests

set_option Elab.async false
open Sys2Proof Sys2Proof.Machine

/-- A vector group of 4 lanes in S mode, residency slot 0 of core 8, partition 3. -/
def tG : Group :=
  { Group.launch with uid := 1, part := 3, team := 256, width := 4, em := 0xF, rsize := 4, pc := 0x20000 }

/-- Its team: number 0 on core 8 with 4 KiB of scratchpad. -/
def tT : Team :=
  { uid := 0, part := 3, core := 8, num := 0, paired := false, sbase := 0, ssize := 1, rings := [], tbar := [], cbar := 0, gbar := 0,
    pb := [], ph := [], ringWait := [], groups := [256], held := [], drain := none, saving := none, expiry := none, parked := false, stopped := false }

/-- Tables at 0x8000 that map the first GiB of every kind to itself, with every grant. -/
def tTables : Store 8 :=
  [(0x8000, 1), (0x8002, 1), (0x9000, 1), (0x9002, 1), (0xA000, 1), (0xA002, 1), (0xB000, 1), (0xB002, 1), (0xC000, 1), (0xC002, 1),
   (0x10000, 0x3F)]

/-- The machine with that group alone, which issues; its partition holds core 8. -/
def tS : State :=
  { State.reset with
    groups := [(256, tG)], teams := [(256, tT)], cur := 256, live := 8, hbm := tTables, devNum := 5,
    cores := [(8, { Core.reset with slmap := 0x83 })],
    parts := [(3, { Partition.start with s1root := 1, s2root := 1, hroot := 1, evN := 64, evDpn := 32, kN := 8 })] }

/-- The machine with another group in the place of that group. -/
def withG (g : Group) : State := { tS with groups := [(256, g)] }

/-- The group of sequencer 4, width 1. -/
def qG : Group := { tG with role := .matrix, width := 1, em := 1, team := 256 }

/-- The machine with the sequencer's group alone, which issues. -/
def qS : State := { tS with groups := [(8196, qG)], cur := 8196, teams := [(256, { tT with groups := [8196] })] }

/-- Lanes of a register of the group. -/
def withReg (s : State) (r : Nat) (l : List Word) : State := writeV s s.cur tG r (l.zipIdx.map fun e => (e.2, e.1))

/-- The state that an instruction leads to; the state itself where it answers none. -/
def after (i : Instr) (s : State) : State :=
  match exec i s with
  | .next t => t
  | _ => s

/-- Whether an instruction answers a next state. -/
def goes (i : Instr) (s : State) : Bool :=
  match exec i s with
  | .next _ => true
  | _ => false

/-- A lane of a register of the group. -/
def lane (s : State) (r l : Nat) : Word := cellGet s (regCell s.cur tG r l)

/-- The group that issued. -/
def me (s : State) : Group := (s.group? s.cur).getD tG

/-- Issues as a test. -/
def issuesB (s : State) (g : Group) (i : Instr) : Bool :=
  decide (s.group? s.cur = some g) && g.out.isEmpty && g.eccNow.isEmpty && (if isSeq s.cur then g.width == 1 else decide (g.width ≤ 64)) &&
  s.poison.isEmpty && (checkIssue s s.cur g i).isNone

theorem issues_of {s : State} {g : Group} {i : Instr} (h : issuesB s g i = true) : Issues s g i := by
  simp only [issuesB, Bool.and_eq_true, decide_eq_true_eq, List.isEmpty_iff, Option.isNone_iff_eq_none] at h
  obtain ⟨⟨⟨⟨⟨h1, h2⟩, h3⟩, h4⟩, h6⟩, h5⟩ := h
  refine ⟨⟨h1, h2, h3, ?_, fun reg lane _ => ?_⟩, h5⟩
  · split
    · next hq => rw [if_pos hq] at h4; simpa using h4
    · next hq => rw [if_neg hq] at h4; simpa using h4
  · simp [cellBad, h6]

/-- An answer of a translation. -/
def okIs (e : Except Cause Phys) (p : Phys) : Bool :=
  match e with
  | .ok q => q == p
  | .error _ => false

theorem okIs_eq {e : Except Cause Phys} {p : Phys} (h : okIs e p = true) : e = .ok p := by
  cases e with
  | ok q => simp only [okIs, beq_iff_eq] at h; rw [h]
  | error c => simp [okIs] at h

/-- Reaches as a test. -/
def reachesB (s : State) (g : Group) (grant : Grant) (lanes : List Nat) (va : Nat → VAddr) (n : Nat) (ph : Nat → Phys) : Bool :=
  lanes.all fun l => isLocal s (va l) && (va l).toNat % n == 0 && (poisonIn s (ph l).kind (ph l).off n).isNone &&
    okIs (translate s (unitOf s.cur) g.part false g.mode grant (vaKind (va l)) (vaOff (va l))) (ph l)

theorem reaches_of {s : State} {g : Group} {grant : Grant} {lanes : List Nat} {va : Nat → VAddr} {n : Nat} {ph : Nat → Phys}
    (h : reachesB s g grant lanes va n ph = true) : Reaches s g grant lanes va n ph := by
  intro l hl
  have h1 := List.all_eq_true.1 h l hl
  simp only [Bool.and_eq_true, beq_iff_eq, Option.isNone_iff_eq_none] at h1
  exact ⟨h1.1.1.1, h1.1.1.2, h1.1.2, okIs_eq h1.2⟩

/-! Ill-formed instructions: each check of WellFormed refuses one. -/

/-- R29, R41: d of FCMP, ICMP, ICMPI, VOTE is a mask field. -/
theorem test_wf_mask_fields : ([.fcmp 16 2 3 0, .icmp 16 2 3 0 0, .icmpi 16 2 0 0, .vote 16 2 0] : List Instr).all (fun i => !i.wf) = true := by decide
/-- R136, R137: types that an instruction does not accept. -/
theorem test_wf_types : ([.iadd 1 2 3 6, .imulh 1 2 3 4, .dot4 1 2 3 6, .fsgn 1 2 3 5, .frnd 1 2 5, .shfl 1 2 3 4, .rdce 1 2 11, .kcnt 1 2 5] :
    List Instr).all (fun i => !i.wf) = true := by decide
/-- R134, R100, R143, R263: fields that name a scalar or z. -/
theorem test_wf_scalar_fields : ([.jmpr 95 96, .jmpr 96 112, .ret 95, .winb 95 0, .abset 0 95 0 0, .kacq 1 95 0, .publ 95 96 97, .tileTld 0 95 0] :
    List Instr).all (fun i => !i.wf) = true := by decide
/-- R142: an amount of 32 or more on 32 bits; R144: an extension code of 3; R114: rounding code 3. -/
theorem test_wf_codes : ([.shfti 1 2 0 0 32, .aadd 1 2 3 3 0, .fadd 1 2 3 3, .fscl 1 2 3 3, .i64 1 2 3 6] : List Instr).all (fun i => !i.wf) = true := by
  decide
/-- R71, R267: sizes; a 128-bit register field may not be a scalar. -/
theorem test_wf_sizes : ([.ld 1 2 0 7 0 0, .ld 96 2 0 6 0 0, .st 1 2 0 1 0, .st 1 2 0 3 0, .ldx 1 2 0 3 0, .stx 96 2 0 2 0] : List Instr).all
    (fun i => !i.wf) = true := by decide
/-- R161: fields that a function of KOP does not use; R163, R278: unassigned functions. -/
theorem test_wf_kop_bar : ([.kop 1 2 3 4, .kop 1 1 0 7, .kop 1 95 112 8, .kop 1 2 3 9, .bar 1 3 0, .bar 1 1 8, .bar 1 2 4] : List Instr).all
    (fun i => !i.wf) = true := by decide
/-- R26, R27: register fields above 115 and destinations that hold a constant; a pair at an odd register. -/
theorem test_wf_registers : ([.iadd 116 2 3 0, .iadd 113 2 3 0, .iadd 1 2 3 2, .iadd 2 3 4 2, .ld 2 4 0 6 0 0] : List Instr).all (fun i => !i.wf) = true := by
  decide
/-- R33: lit needs its prefix, and the prefix a field that holds lit. -/
theorem test_wf_lit : (Instr.iadd 1 115 3 0).legal 3 Pre.none = false ∧ (Instr.iadd 1 115 3 0).legal 3 ⟨some 0, none⟩ = true ∧
    (Instr.iadd 1 2 3 0).legal 3 ⟨some 0, none⟩ = false ∧ (Instr.shfti 1 2 0 0 1).legal 3 ⟨some 0, none⟩ = false := by decide
/-- R32: a field that is enabled must be a vector register field of the target, and not a mask field. -/
theorem test_wf_ix : (Instr.iadd 1 2 3 0).legal 3 ⟨none, some 0x100⟩ = true ∧ (Instr.iadd 96 2 3 0).legal 3 ⟨none, some 0x100⟩ = false ∧
    (Instr.fcmp 1 2 3 0).legal 3 ⟨none, some 0x100⟩ = false ∧ (Instr.bra 0 1).legal 3 ⟨none, some 0x100⟩ = false := by decide

/-! Words: the specification's own, and of every family one whose bits are written from its encoding table. -/

theorem test_word_memory : decodeWord 0xB0101183 = some (.ld 4 2 1 4 0 3) ∧ decodeWord 0xB22832A0 = some (.st 10 6 2 5 0) ∧
    decodeWord 0xB4080880 = some (.lds 2 1 0 4 0 0) ∧ decodeWord 0xB61C0880 = some (.sts 7 1 0 4 0) ∧ decodeWord 0xBFC01880 = some (.prefL2 3 0 0) := by
  decide
theorem test_word_strong : decodeWord 0xBBC38004 = some (.stx 112 112 0 0 2) ∧ decodeWord 0xBC0B87C4 = some (.waitl 2 112 31 0 2) ∧
    decodeWord 0xD20B8034 = some (.atcas 2 112 3 2 0) ∧ decodeWord 0xD8138005 = some (.kacq 4 112 5) ∧ decodeWord 0xDA138005 = some (.krel 4 112 5) := by
  decide
theorem test_word_units : decodeWord 0xE20F1700 = some (.xcpd 3 98) ∧ decodeWord 0xE4200001 = some (.yieldc 1 0 1) ∧ decodeWord 0xE6040700 = some (.spop 1 0) ∧
    decodeWord 0xE6040701 = some (.spopOpen 1 0) ∧ decodeWord 0xE80C0010 = some (.srel 3 0 1) ∧ decodeWord 0xE80C0011 = some (.srelFree 3 0 1) := by decide
theorem test_word_events : decodeWord 0xEB938700 = some (.mbrd 1) ∧ decodeWord 0xEC0B4030 = some (.jpost 2 2 3) ∧ decodeWord 0xEFC33F00 = some (.evsig 112 103 112) ∧
    decodeWord 0xF00C1700 = some (.taga 3 2 112) ∧ decodeWord 0xF2141F00 = some (.tagf 5 3) ∧ decodeWord 0xF4242620 = some (.meet 9 4 98) := by decide
theorem test_word_matrix : decodeWord 0xF80B0840 = some (.tileTld 2 97 4) ∧ decodeWord 0xFA041031 = some (.mma 1 2 3 1) ∧
    decodeWord 0xFE071852 = some (.accCvt 1 99 5) ∧ decodeWord 0xFD938701 = some (.mjobWait 100) := by decide
theorem test_word_system : decodeWord 0x19C080E8 = some (.csrw 112 0x101 104) ∧ decodeWord 0x19C0806A = some (.csrw 112 0x100 106) ∧
    decodeWord 0x1B931630 = some (.publ 100 98 99) ∧ decodeWord 0x0FC38020 = some (.winb 112 32) ∧ decodeWord 0x00000001 = some .nop := by decide
/-- 07 Tables 5 and 7 written out: op, d, a, b, fn. -/
theorem test_word_integer : decodeWord (0b0010000_0000001_0000010_0000011_0100#32) = some (.iadd 1 2 3 4) ∧
    decodeWord (0b0010111_0000001_0000010_0000011_1001#32) = some (.imnx 1 2 3 1 1) ∧ decodeWord (0b0100100_0000001_0000010_0000011_0101#32) = some (.sel 1 2 3 5) ∧
    decodeWord (0b0100011_0000001_0000010_0000011_0110#32) = some (.icmp 1 2 3 1 2) := by decide
/-- 07 Tables 12 and 13 written out: FCMP.LE, FRCP with lookahead 2, FFMA with rounding code 2. -/
theorem test_word_float : decodeWord (0b0110110_0000001_0000010_0000011_0011#32) = some (.fcmp 1 2 3 3) ∧ decodeWord 0x7E181988 = some (.fcvt 6 3 1 4 0 2 0) := by
  decide
/-- R41: CTL with function 0, a must-be-zero field, an unassigned function. -/
theorem test_word_none : decodeWord 0 = none ∧ decodeWord (0b0000001_0001_00_0000000000000000000#32) = none ∧ decodeWord 0x00000006 = none := by decide
/-- R22, R5: a word lies in memory with its lowest byte first. -/
theorem test_word_bytes : decodeBytes [0x30, 0x16, 0x93, 0x1B] = some (.publ 100 98 99, []) := by decide

/-! Hypotheses of the statements: for every instruction with a word, a state and a group that pass every check before issue. -/

theorem issues_all {s : State} {g : Group} {l : List Instr} (h : l.all (issuesB s g) = true) : ∀ i ∈ l, Issues s g i :=
  fun i hi => issues_of (List.all_eq_true.1 h i hi)

/-- Integer arithmetic and moves. -/
def integerInstrs : List Instr := [.iadd 2 3 4 0, .iadd 2 4 6 3, .isub 2 3 4 1, .imul 2 3 4 4, .imulh 2 3 4 1, .imad 2 3 4 5, .idiv 2 3 4 1, .irem 2 3 4 0,
  .imnx 2 3 4 1 1, .and 2 3 4 0, .or 2 4 6 2, .xor 2 3 4 1, .andn 2 3 4 0, .shl 2 3 4 0, .shr 2 4 4 3, .sra 2 3 4 1, .rot 2 3 4 0, .bits 2 3 0, .bits 2 3 1,
  .bits 2 4 6, .bits 2 4 7, .bfx 2 3 4 1, .bfi 2 3 4, .icmp 1 3 4 0 2, .sel 2 3 4 15, .mov 2 4 1, .iaddi 2 3 0x7FF, .iaddi 96 97 1, .andi 2 3 1, .ori 2 3 1,
  .xori 2 3 1, .shfti 2 3 0 0 31, .shfti 2 4 1 1 63, .icmpi 1 3 2 0xFF, .movi 2 5, .abset 7 112 1 3, .aadd 2 4 6 0 3, .i64 2 4 6 0, .i64 2 3 112 7,
  .iadd 112 3 4 0, .iadd 97 3 4 0]
/-- Floating point. -/
def floatInstrs : List Instr := [.fadd 2 3 4 0, .fsub 2 3 4 1, .fmul 2 3 4 2, .ffma 2 3 4 0, .fmin 2 3 4 0, .fmax 2 3 4 1, .fcmp 1 3 4 5, .fsgn 2 3 4 2,
  .fsgn 2 3 112 3, .frcp 2 3 2, .frsq 2 3 0, .fexp2 2 3 0, .flog2 2 3 0, .fsin 2 3 0, .fcos 2 3 0, .ftanh 2 3 15, .fcvt 6 3 1 4 0 2 0, .fcvts 2 4 3 0 0,
  .fcvts 2 4 3 3 2, .hadd2 2 3 4 0 0, .hmul2 2 3 4 1 1, .hfma2 2 3 4 0 2, .dot4 2 3 4 0, .dot4 2 3 4 5, .fscl 2 3 4 0, .frnd 2 3 4, .fic 2 3 4]
/-- Lanes, masks, control, prefixes. -/
def controlInstrs : List Instr := [.shfl 2 3 4 3, .vote 1 3 0, .rdce 2 3 8, .scan 2 3 0, .kop 1 2 3 3, .kop 1 0 0 6, .kop 1 96 112 8, .kemRd 1, .kemSet 1, .kemAnd 2,
  .kemAndn 3, .kemSwap 1 2, .kcnt 2 1 0, .kcnt 2 1 3, .kcnt 2 1 4, .bcst 2 3 4 0, .bra 0 5, .brany 1 0 3, .brall 1 0 3, .brnone 15 3 3, .call 0 0x7FFFF,
  .jmpr 112 96, .jmpr 97 96, .ret 111, .lit 7, .ix 1 2 0 0 0 0, .winb 112 32, .nop, .yield, .bkpt, .rte, .stop, .sysc 112 1, .hcall 5 1, .trap 0 0,
  .csrr 96 4, .csrw 112 0x101 104]
/-- Memory, atomics, ordering, rings, copies, events, meeting. -/
def memoryInstrs : List Instr := [.ld 2 3 0 4 0 0, .ld 2 3 0 5 0 15, .ld 4 3 1 6 0 0, .st 2 3 0 0 0, .st 2 3 0 5 0, .lds 2 3 0 1 0 0, .sts 2 3 0 4 0, .ldx 2 3 31 0 0,
  .ldx 4 3 31 2 0, .stx 2 3 31 1 0, .waitl 2 3 31 0 0, .prefL1 3 0 0, .prefL2 3 0 0, .atadd 2 3 4 0 0, .atsmin 2 3 4 0 1, .atsmax 2 3 4 0 0, .atnmin 2 3 4 0 0,
  .atnmax 2 3 4 0 0, .atand 2 3 4 0 0, .ator 2 3 4 0 0, .atxor 2 3 4 0 0, .atxch 2 3 4 0 0, .atcas 2 3 4 0 1, .atfadd 2 3 4 0, .atbadd2 2 3 4 0, .kacq 2 112 5,
  .krel 2 96 5, .fence 31, .fencePubb 3 31 0, .bar 2 0 15, .bar 2 1 7, .bar 2 2 3, .spop 2 15, .spopOpen 2 0, .srel 2 0 3, .srelFree 2 0 3,
  .mbrd 3, .mbrdTry 0, .jpost 2 2 3, .evsig 2 3 4, .evsigSet 2 3 4, .evsigRd 2 3, .meet 2 3 4, .publ 96 97 98, .tagf 2 3, .ttrdy 2 3]
/-- What a copy group and a sequencer add. -/
def copyInstrs : List Instr := [.yieldc 1 0 3, .xcp 2 0, .xcp 112 1, .xcpd 2 3, .xcpd 2 98, .taga 2 3 112]
def matrixInstrs : List Instr := [.tileTld 2 97 4, .tileTst 2 112 0, .mma 1 2 3 1, .mma 1 2 3 0, .mjob 2 112 96, .mjobWait 2, .mjobCancel 96, .accZero 1, .accDrain 1 97 2,
  .accCvt 1 99 5, .accMove 1 2]

/-- A copy group. -/
def cG : Group := { tG with role := .copy }
/-- A U-mode group whose partition has no handlers. -/
def uG : Group := { tG with mode := .u }
/-- An H-mode group. -/
def hG : Group := { tG with mode := .h }

theorem witness_issues_integer : ∀ i ∈ integerInstrs, Issues tS tG i := issues_all (by decide +kernel)
theorem witness_issues_float : ∀ i ∈ floatInstrs, Issues tS tG i := issues_all (by decide +kernel)
theorem witness_issues_control : ∀ i ∈ controlInstrs, Issues tS tG i := issues_all (by decide +kernel)
theorem witness_issues_memory : ∀ i ∈ memoryInstrs, Issues tS tG i := issues_all (by decide +kernel)
theorem witness_issues_copy : ∀ i ∈ copyInstrs, Issues (withG cG) cG i := issues_all (by decide +kernel)
theorem witness_issues_matrix : ∀ i ∈ matrixInstrs, Issues qS qG i := issues_all (by decide +kernel)
theorem witness_issues_user : ∀ i ∈ [Instr.hcall 5 1, .sysc 112 1, .iadd 2 3 4 0, .evsig 2 3 4, .csrw 112 8 96], Issues (withG uG) uG i :=
  issues_all (by decide +kernel)
/-- R32, R33: an instruction with a prefix of each kind. -/
theorem witness_issues_prefixed : Issues (withG { tG with preLit := some 7, preStart := some 0x1FFFC }) { tG with preLit := some 7, preStart := some 0x1FFFC }
      (.iadd 2 115 3 0) ∧
    Issues (withG { tG with preIx := some 0x100, preStart := some 0x1FFFC }) { tG with preIx := some 0x100, preStart := some 0x1FFFC } (.iadd 2 3 4 0) :=
  ⟨issues_of (by decide +kernel), issues_of (by decide +kernel)⟩
/-- A current group whose instruction is not legal, and the words of TrapsIll and IllWord. -/
theorem witness_ill : Current tS tG ∧ 5 < (6#4).toNat ∧ 3 < (4#4).toNat ∧ 16 ≤ (16#7).toNat ∧ (1#4 : BitVec 4) ≠ 0 :=
  ⟨(issues_of (i := .nop) (by decide +kernel) : Issues tS tG .nop).1, by decide⟩

/-- R114, R121: a value with its binary exponent, 5 × 2^-1 in 2^1 to 2^2; one at the lowest exponent of FP32; and a rounding code. -/
theorem witness_round : ∃ (m : Nat) (e lg : Int) (rnd r : Nat), rnd < 3 ∧ r < 65536 ∧ 0 < m ∧ (2 : Rat) ^ lg ≤ (m : Rat) * (2 : Rat) ^ e ∧
    (m : Rat) * (2 : Rat) ^ e < (2 : Rat) ^ (lg + 1) := ⟨5, -1, 1, 2, 65535, by decide, by decide, by decide, by decide +kernel, by decide +kernel⟩
/-- R117: a result below the normal range, so that FTZ acts, and one above it. -/
theorem witness_tiny : (decodeF fp16 (roundF fp16 0 false 0 false (.fin true 1 (-20))).1).finite = true ∧
    0 < (decodeF fp16 (roundF fp16 0 false 0 false (.fin true 1 (-20))).1).mag ∧
    (decodeF fp16 (roundF fp16 0 false 0 false (.fin true 1 (-20))).1).mag < (2 : Rat) ^ fp16.emin := by decide +kernel
/-- R148: FPX enabled for NV, and a signalling NaN in an active lane: FCMP traps. -/
theorem witness_fpx : Issues (withG { tG with fpctl := 31 }) { tG with fpctl := 31 } (.fcmp 1 3 4 5) ∧ fpEnables { tG with fpctl := 31 } &&& fNV ≠ 0 :=
  ⟨issues_of (by decide +kernel), by decide +kernel⟩
/-- R122: 127.5 rounds above an 8-bit integer, -128.5 to the lowest, 1.5 within. -/
theorem witness_to_int : (2 : Rat) ^ (8 - 1 : Nat) ≤ roundAt 0 0 ((255 : Nat) * (2 : Rat) ^ (-1 : Int)) 1 ∧ roundAt 0 0 ((3 : Nat) * (2 : Rat) ^ (-1 : Int)) 1 = 2 := by
  decide +kernel
/-- R36: a group with one result on its way and an older one whose window is still open. -/
theorem witness_outstanding : ∃ (g : Group) (o p : Outstanding), (withG g).group? 256 = some g ∧ g.out = [p] ++ o :: [] ∧ (p.vals = [] ∧ p.svals = []) ∧
    o.vals ≠ [] ∧ o.dirty = [] ∧
    o.vals.Pairwise (fun e f => (e.1, e.2.1) ≠ (f.1, f.2.1) ∧ regCell 256 g e.1 e.2.1 ≠ regCell 256 g f.1 f.2.1) ∧ p.left = 0 ∧ o.left ≠ 0 :=
  ⟨{ tG with out := [⟨1, 0, [4], [], [], [], none⟩, ⟨2, 2, [5], [(5, 0, 7), (5, 1, 8)], [], [], none⟩] }, _, _, rfl, rfl, ⟨rfl, rfl⟩, by decide, rfl,
    by decide, rfl, by decide⟩
/-- R151: values of each class of Table 13. -/
theorem witness_functions : isNanV (decodeF fp32 0x7F800001) = true ∧ decodeF fp32 0xFF800000 = .inf true ∧
    (decodeF fp32 0x80000000).mag = 0 ∧ (decodeF fp32 1).mag < (2 : Rat) ^ (-128 : Int) ∧ (decodeF fp32 0x40000000).mag = (2 : Rat) ^ (1 : Int) ∧
    (decodeF fp32 0x40000000).rat = (2 : Int) ∧ (decodeF fp32 0x40800000).mag = (2 : Rat) ^ (2 * 1 : Int) ∧ 128 ≤ (decodeF fp32 0x43000000).rat ∧
    (decodeF fp32 0xC3160000).rat < -149 ∧ 9 ≤ (decodeF fp32 0x41100000).mag := by decide +kernel
/-- R163: groups with a lowest active lane and with none. -/
theorem witness_lowest : tG.lowest = some 0 ∧ ({ tG with em := 0 } : Group).active = [] := by decide
/-- R133, R134: a mask that meets EM, one that does not, one that covers it, and jump targets. -/
theorem witness_branch : (∃ l, l < 64 ∧ ((2#64).getLsbD l && tG.em.getLsbD l) = true) ∧ (0x20000#64).toNat % 4 = 0 ∧ (0x20002#64).toNat % 4 ≠ 0 :=
  ⟨⟨1, by decide⟩, by decide, by decide⟩
/-- R100: window bases at the boundary of a view of 128, and beyond it. -/
theorem witness_winb : (0 < (32 : Int) ∧ (32 : Int) % 8 = 0 ∧ (32 : Int) + 96 ≤ tG.view) ∧ ¬ ((40 : Int) + 96 ≤ tG.view) := by decide
/-- R285: handlers of S and H that can be entered, held, and beyond the view. -/
theorem witness_traps : twbValid 32 (tG.viewS) = true ∧ twbValid 40 (tG.viewS) = false ∧ uG.st.held = false ∧ uG.dbg.haltReq = false ∧ uG.stopping = false := by
  decide
/-- R42: an instruction at each place of the order: PRIV, an unassigned CSR, ROLE, WIN, IDX. -/
theorem witness_checks : (checkIssue tS 256 uG .rte).map (·.1) = some .priv ∧ (checkIssue tS 256 tG (.csrr 96 0x400)).map (·.1) = some .priv ∧
    (checkIssue tS 256 tG (.csrr 96 0x00D)).map (·.1) = some .ill ∧ (checkIssue tS 256 tG (.xcp 2 0)).map (·.1) = some .role ∧
    (checkIssue tS 256 { tG with wb := 64 } (.iadd 2 64 3 0)).map (·.1) = some .win ∧ (checkIssue tS 256 tG (.winb 112 40)).map (·.1) = some .win ∧
    (checkIssue tS 256 { tG with preIx := some 0x100, x := [(0, 128)] } (.iadd 2 3 4 0)).map (·.1) = some .idx ∧
    (checkIssue tS 256 { tG with dbg := { tG.dbg with lavCheck := true }, out := [⟨1, 2, [5], [(5, 0, 7)], [], [], none⟩] } (.iadd 2 5 4 0)).map (·.1) = some .lav := by decide +kernel
/-- R288, R289: BKPT that halts; trap states that RTE can return to and one beyond the view. -/
theorem witness_rte : ({ tG with dbg := { tG.dbg with bkptHalts := true } } : Group).dbg.bkptHalts = true ∧ tG.st.pwb = 0 ∧
    tG.viewOf .u < (5#6 : BitVec 6).toNat * 8 + 96 := by decide
/-- R280: CSRs that a mode reaches. -/
theorem witness_csr : ∀ i ∈ [Instr.csrr 96 0, .csrr 96 0x1A0, .csrr 96 0x1E8, .csrw 96 4 97, .csrw 96 0x100 97, .csrw 96 0x108 97], Issues tS tG i :=
  issues_all (by decide +kernel)
theorem witness_csr_h : ∀ i ∈ [Instr.csrr 96 0x400, .csrr 96 0x4A0, .csrr 96 0x489, .csrw 96 0x408 97, .csrw 96 0x4A0 97], Issues (withG hG) hG i :=
  issues_all (by decide +kernel)

/-- The group with base register 0 at kind 0 of device 5. -/
def mG : Group := { tG with ab := [(0, 40#80 <<< 64)] }
/-- The machine in which register 3 holds four addresses a word apart. -/
def mS : State := withReg (withG mG) 3 [0x40000, 0x40004, 0x40008, 0x4000C]
/-- The places of those addresses. -/
def mPh (l : Nat) : Phys := ⟨0, 0x40000 + 4 * l, false⟩

theorem witness_reaches : Issues mS mG (.ld 4 3 0 4 0 0) ∧ Issues mS mG (.st 4 3 0 4 0) ∧ Issues mS mG (.ldx 4 3 31 0 0) ∧ Issues mS mG (.stx 4 3 31 0 0) ∧
    Reaches mS mG .load mG.pending (addrOf mS mG 0 3 0) 4 mPh ∧ Reaches mS mG .store mG.pending (addrOf mS mG 0 3 0) 4 mPh :=
  ⟨issues_of (by decide +kernel), issues_of (by decide +kernel), issues_of (by decide +kernel), issues_of (by decide +kernel), 
    reaches_of (by decide +kernel), reaches_of (by decide +kernel)⟩
/-- R66, R267: a misaligned lane, and a lane that does not translate beside lanes that do. -/
theorem witness_failing : (mG.pending.filter fun l => (addrOf (withReg mS 3 [0x40000, 0x40002]) mG 0 3 0 l).toNat % 4 != 0).head? = some 1 ∧
    (translate mS (unitOf 256) 3 false .s .load 0 0x40000000).toBool = false ∧
    isLocal mS (addrOf (withReg mS 3 [0x40000000]) mG 0 3 0 0) = true := by decide +kernel
/-- R96: an allocation of one unit, addresses inside it, and a gap in one of three units. -/
theorem witness_scratch : tT.ssize ≠ 0 ∧ tT.ssize.toNat ≤ 128 ∧ tT.sbase.toNat + tT.ssize.toNat ≤ 128 ∧ tT.core < 255 ∧ coreOf 256 < 256 ∧
    (scratchLocate tT 8 100).2.2 = false ∧ (scratchLocate { tT with ssize := 3 } 8 0x3000).2.2 = true ∧ tS.team? tG.team = some tT := by decide +kernel
/-- R270: lanes of an atomic at places apart, with empty tellers. -/
theorem witness_atomic : Issues mS mG (.atadd 2 3 4 0 0) ∧ mG.wait = .none ∧ Reaches mS mG .store mG.pending (addrOf mS mG 0 3 0) 4 mPh ∧
    (∀ l ∈ mG.pending, (mPh l).shd = false ∧ (mS.cluster (homeOf (mPh l).kind (mPh l).off)).teller = []) ∧
    ∀ l ∈ mG.pending, ∀ m ∈ mG.pending, l < m → ∀ j < 4, ¬ inPlace (mPh m) 4 (mPh l).kind ((mPh l).off + j) :=
  ⟨issues_of (by decide +kernel), rfl, reaches_of (by decide +kernel), by decide +kernel, by unfold inPlace; decide +kernel⟩

/-- R51: places of kinds 0, 1 and 4 that translate; a walk that completes and one that fails. -/
theorem witness_translate : okIs (translate tS (unitOf 256) 3 false .s .load 0 0x40000) ⟨0, 0x40000, false⟩ = true ∧
    okIs (translate tS (unitOf 256) 3 false .s .fetch 4 0x20000) ⟨4, 0x20000, false⟩ = true ∧
    okIs (combined tS 3 .s .load 0 0x3FFFFFFF) ⟨0, 0x3FFFFFFF, false⟩ = true ∧ (combined tS 3 .s .load 0 0x40000000).toBool = false := by decide +kernel
/-- R257: a group about to read, one whose lines differ from d, and sleepers whose sleep is over and is not. -/
theorem witness_waitl : Issues mS mG (.waitl 4 3 31 0 0) ∧ Reaches mS mG .wait mG.pending (addrOf mS mG 0 3 0) 4 mPh ∧
    (mG.pending.all fun l => placeValue mS (mPh l) 4 == (srcD mS mG 4 1 l).toNat) = true ∧
    Issues (withReg mS 4 [7]) mG (.waitl 4 3 31 0 0) ∧ placeValue (withReg mS 4 [7]) (mPh 0) 4 ≠ (srcD (withReg mS 4 [7]) mG 4 1 0).toNat ∧
    Issues (withG { mG with wait := .line [(0, 4096)] true none none }) { mG with wait := .line [(0, 4096)] true none none } (.waitl 4 3 31 0 0) ∧
    Issues (withG { mG with wait := .line [(0, 4096)] false (some 9) none }) { mG with wait := .line [(0, 4096)] false (some 9) none } (.waitl 4 3 31 0 0) :=
  ⟨issues_of (by decide +kernel), reaches_of (by decide +kernel), by decide +kernel, issues_of (by decide +kernel), by decide +kernel,
    issues_of (by decide +kernel), issues_of (by decide +kernel)⟩

/-- The machine in which key 7 of the partition, its last, is bound. -/
def kS : State := { tS with keys := [(7, ⟨true, 0, 0x40000, 1, 41⟩)] }
theorem witness_keys : Issues kS tG (.kacq 2 112 7) ∧ Issues kS tG (.krel 2 112 7) ∧ (kS.key 7).v = true ∧ (kS.part 3).kN = 8 ∧
    Issues kS tG (.kacq 2 112 8) ∧ (kS.key 6).v = false ∧ kS.group? 256 = some tG ∧ tG.mode ≠ .u :=
  ⟨issues_of (by decide +kernel), issues_of (by decide +kernel), by decide +kernel, rfl, issues_of (by decide +kernel), by decide +kernel⟩

/-- The machine in which the first GiB of kinds 0 and 1 is shadowed, its pair the two first GiB. -/
def pS : State :=
  { mS with hbm := tTables.dropLast ++ [(0x10000, 0xBF), (0x10008, 0x3F), (0x1000B, 0x40)], pairs := [⟨3, 0, 30, 0, false⟩] }
/-- R264, R274: lanes that name one pair, lanes that name none, and SHDCTL words of each size, on a bound and on no leaf boundary. -/
theorem witness_publish : Issues pS mG (.fencePubb 3 31 0) ∧ (mG.active.all fun l => (pubbPair pS 256 mG (addrOf pS mG 0 3 0 l)).toBool) = true ∧
    Issues mS mG (.fencePubb 3 31 0) ∧ (mG.active.all fun l => !(pubbPair mS 256 mG (addrOf mS mG 0 3 0 l)).toBool) = true ∧
    (0x2000000000010000#64).extractLsb' 60 2 = 2#2 ∧ 0x10000 % 2 ^ 31 ≠ 0 ∧ (0x2000000080000000#64).extractLsb' 16 32 * 2 ^ 16 = 0x80000000 ∧
    pS.pairs.length < 4096 ∧ pS.group? pS.cur = some mG ∧ mG.mode ≠ .u :=
  ⟨issues_of (by decide +kernel), by decide +kernel, issues_of (by decide +kernel), by decide +kernel, by decide +kernel⟩

/-- The team with bit 0 of team barrier 2 set, and the machine with it. -/
def bS : State := { tS with teams := [(256, { tT with tbar := [(2, 1)] })] }
theorem witness_barriers : Issues bS tG (.bar 2 0 2) ∧ Issues bS tG (.bar 2 0 3) ∧ (storeGet ([(2, 1)] : Store 32) 2).getLsbD tG.gid = true ∧
    (storeGet ([(2, 1)] : Store 32) 3).getLsbD tG.gid = false ∧ bS.team? tG.team = some { tT with tbar := [(2, 1)] } ∧
    (memberArr bS 2 256).length = 1 ∧ (bS.groups.filter fun e => e.1 == bS.cur).length = 1 ∧
    Issues (withG { tG with pass := 4 }) { tG with pass := 4 } (.bar 2 0 2) ∧ Issues (withG { tG with arr := 4 }) { tG with arr := 4 } (.bar 2 0 2) :=
  ⟨issues_of (by decide +kernel), issues_of (by decide +kernel), by decide +kernel, by decide +kernel, by decide +kernel, by decide +kernel,
    by decide +kernel, issues_of (by decide +kernel), issues_of (by decide +kernel)⟩

/-- Ring 3 of two slots of 256 bytes at 0x100: its slot 0 FULL, slot 1 OPEN. -/
def tR : Ring := ⟨true, 1, 3, 0x100, 0, 0b0110, 0, 1, false, false⟩
/-- The machine with that ring, and the disabled ring 4. -/
def rS : State := { tS with teams := [(256, { tT with rings := [(3, tR)] })] }
theorem witness_rings : Issues rS tG (.spop 2 3) ∧ Issues rS tG (.spopOpen 2 3) ∧ Issues rS tG (.srel 2 3 4) ∧ Issues rS tG (.srelFree 2 3 4) ∧ Issues rS tG (.spop 2 4) ∧
    (slotSt tR 0, slotSt tR 1) = (2, 1) ∧ (ringOf tT 4).en = false ∧ emitRing rS (.live 256) 3 = false ∧ ringWaiters rS { tT with rings := [(3, tR)] } 3 false = [] ∧
    tG.lowest = some 0 :=
  ⟨issues_of (by decide +kernel), issues_of (by decide +kernel), issues_of (by decide +kernel), issues_of (by decide +kernel), issues_of (by decide +kernel),
    by decide +kernel⟩

/-- 15: throttling that steps up, that steps down and that stays; ports and the CXL link that change; a locked DEVMODE. -/
theorem witness_hub : (({ State.reset with thrHot := true } : State).thrLvl.toNat < 8) ∧ ¬ (State.reset.thrHot = true ∨ State.reset.thrCur = true) ∧
    State.reset.thrTemp.toNat < 100 ∧ ({ State.reset with thrLvl := 8 } : State).thrLvl.toNat = 8 ∧ State.reset.portUp.getLsbD 17 ≠ true ∧
    State.reset.cxlUp ≠ true ∧ State.reset.firstStart = false ∧ ({ State.reset with devLock := true } : State).devLock = true ∧ State.reset.devEccm ≠ 1 := by
  decide
/-- 15 R328 to R330: starts that pass, that fail before and at the memory clear, and a warm start that skips its first step. -/
theorem witness_starts : (7 = 0 ∨ 6 < 7) ∧ ¬ (5 = 0 ∨ 6 < 5) ∧ State.reset.inReset = false := by decide

/-- A start record for core 4, with a first record at 0x1000; and the machine with it at 0x2000. -/
def startRecord : Store 8 := [(0x2058, 0x10)]
def hS : State := { State.reset with hbm := startRecord }
theorem witness_partitions : hS.psPend = false ∧ hS.live.getLsbD 63 = false ∧ 0x2000 + 128 ≤ hbmSize hS ∧ poisonIn hS 0 0x2000 128 = none ∧
    startBad (bytesAt hS 0 0x2000 128) = false ∧ startCores (bytesAt hS 0 0x2000 128) = [4] ∧ (hS.core 4).slmap.getLsbD 7 = false ∧
    startBad (bytesAt { hS with hbm := [(0x2078, 1)] } 0 0x2000 128) = true ∧ ({ hS with live := 1 } : State).live.getLsbD 0 = true := by decide +kernel

/-- The machine with partition 3 bound to requests of partition 7 of device 9, and RDMA region 0 over its kind 0. -/
def oS : State :=
  { tS with hbm := tTables ++ [(0x20000 + 64 * 9 + 7, 0x83)], pbEn := true, pbBase := 0x20000, nrctl := [(0, 0xC003000000000011)], nrbase := [(0, 0x0001000000040000)] }
theorem witness_outside : boundPart oS 9 7 = some 3 ∧ vaDev (40#80 <<< 64 : VAddr) = 5 ∧ boundPart oS 9 8 = none ∧ (storeGet oS.nrctl 0).getLsbD 63 = true ∧
    (storeGet oS.nrctl 0).extractLsb' 0 32 = 0x11#32 ∧ (storeGet oS.nrctl 0).getLsbD 62 = true ∧ (storeGet oS.nrctl 0).extractLsb' 59 3 = 0#3 ∧
    (translate oS 384 3 false .s .store 0 0x40000).toBool = true ∧ (translate oS 384 3 false .s .load 0 0x40000000).toBool = false := by decide +kernel
/-- 15 R320: the edges of the host complex's map. -/
theorem witness_host : 0x1000000000 + 0xFFFFFFFC + 4 ≤ 0x1000000000 + 2 ^ 36 ∧ hbmSize tS = 576 * 2 ^ 30 ∧ poolSize tS = 0 ∧
    (0x10000 - 8) % 8 = 0 ∧ (leBytes 8 7).length = 8 ∧ ((tS.cluster (homeOf 0 0x40000)).teller = []) := by decide +kernel

/-- The machine whose partition may pin four units. -/
def uS : State := { tS with parts := [(3, { tS.part 3 with pinq := 4 })], devPinf := 3 }
/-- 03 R56: the last unit of a die that may be pinned, and a range that goes beyond; R68: a released entry. -/
theorem witness_memory : uS.devPinf.toNat * 32 = 96 ∧ 92 + 4 ≤ 96 ∧ ¬ (93 + 4 ≤ 96) ∧ (uS.part 3).pinq.toNat = 4 ∧ tabGet uS.pinned 95 = none ∧
    tabGet [(95, 3)] 95 = some 3 ∧ uS.group? 256 = some tG ∧ tG.mode ≠ .u ∧ (withG hG).group? 256 = some hG ∧
    (({ uS with cellar := [⟨3, 0, 0, 1, 0, true⟩] } : State).cellar.filter fun e => e.part == 3 && e.released) ≠ [] := by decide +kernel

/-- The machine with registers 3 and 4 set, and the lists of its partition at 0x30000 (bindings) and 0x38000 (cards). -/
def eS (h n : Word) : State :=
  { withReg (withReg tS 3 [h]) 4 [n] with
      events := [(0, 5), (1, 1), (33, 2)], live := 8,
      hbm := tTables ++ [(0x30020, 1), (0x38020, 0), (0x38021, 0x0D)],
      parts := [(3, { tS.part 3 with lbEn := true, lbBase := 0x30000, jcEn := true, jcLog := 4, jcBase := 0x38000, evN := 64, evDpn := 32 })] }
/-- 10 R224, R227: an event of class COUNT of this device, one of LAUNCH, one of another device, one of a class above 3, and one whose class differs. -/
theorem witness_events : Issues (eS 0x00280000 2) tG (.evsig 2 3 4) ∧ (evtClass (eS 0 0) 3 0).2 = some 0 ∧ (evtClass (eS 0 0) 3 1).2 = some 1 ∧
    (evtClass (eS 0 0) 3 31).2 = some 0 ∧ (evtClass (eS 0 0) 3 32).2 = none ∧ ((0x00280009#32).extractLsb' 0 3).toNat = 1 ∧
    ((0x00280000#32).extractLsb' 19 13).toNat = 5 ∧ ((0x00280105#32).extractLsb' 0 3).toNat = 5 ∧
    (boundRecord (eS 0 0) 3 1).1.map (fun l => leField l 0 2) = some 1 ∧ (readCard (eS 0 0) 3 1).map cardValid = some true ∧ (readCard (eS 0 0) 3 16) = none ∧
    boundPart oS 9 7 = some 3 ∧ evtNamed (oS.part 3) 31 = true ∧ evtNamed (oS.part 3) 32 = false :=
  ⟨issues_of (by decide +kernel), by decide +kernel⟩

/-- A mailbox record for partition 3, and the machine with it at core 8. -/
def xR : ReadyRec := ⟨0x4444333322221111, 0, none⟩
def xS : State := { tS with cores := [(8, { Core.reset with slmap := 0x83, mailbox := [(3, xR)] })] }
/-- 10 R229, R231: a mailbox with a record for the partition and an empty one; a waiting group. -/
theorem witness_mailboxes : Issues xS tG (.mbrd 3) ∧ (boxOf xS 256).1 = [(3, xR)] ∧ (boxOf xS 256).2 = [] ∧ (boxOf tS 256).1 = [] ∧
    Issues (withG { tG with wait := .mailbox }) { tG with wait := .mailbox } (.mbrd 3) ∧ Issues (eS 1 0) tG (.jpost 2 2 3) ∧ unitOpen tS 3 8 = true :=
  ⟨issues_of (by decide +kernel), by decide +kernel, by decide +kernel, by decide +kernel, issues_of (by decide +kernel), issues_of (by decide +kernel), by decide +kernel⟩
/-- 10 R226, R229: a ready record with an open unit, one at an operating point that must change, and a point under way. -/
theorem witness_posting : pickUnit tS 3 0 = some 8 ∧ heldPoint (tS.part 3) xR = false ∧ (tS.part 3).pointReq = none := by decide +kernel

/-- A descriptor: a sum of FP32 of two participants. -/
def tagD : BitVec 256 := 0xFFFFFFFF00000000000000000000000000020700
/-- Tags in each state, a contribution at its router and an answer on its way. -/
def tagOf (st : TagSt) (pres : Dword) : Tag := ⟨st, tagD, 4, pres, none, 0, 10, .s, [], false⟩
def contr (t seq cidx : Nat) : Contr := ⟨3, t, cidx, BitVec.ofNat 16 seq, 7, ⟨1, 0, 8, 2, some 1⟩, List.replicate 4096 1⟩
def gS : State :=
  { tS with
    parts := [(3, { tS.part 3 with mtagEn := true, mtagBase := 0x30000, tags :=
      [(0, tagOf .idle 0), (1, tagOf .fill 1), (2, tagOf .freeing 0), (3, tagOf .fwd 3), (4, tagOf .pois 0)] })],
    net := [contr 1 4 1, contr 9 4 0], answers := [⟨⟨1, 0, 8, 2, some 1⟩, 1, 0, 4, 0, 0, true⟩] }
/-- R188 to R197: a valid and a malformed descriptor, free tags, one of router 37, and an allocation that can be written. -/
theorem witness_tags : tagBad tagD = false ∧ tagBad 0 = true ∧ freeTag (gS.part 3) 3 16 none 16 0 = some 5 ∧ routerOf 2 0x123 = 37 ∧
    (tableWrite gS 3 0x30140 [1]).isSome = true ∧ tG.lowest = some 0 ∧ scratchGap tT 8 0 4096 = false ∧ (tabGet (gS.part 3).tags 1).isSome = true ∧
    (gS.net.all fun c => c.tag != 2) = true := by decide +kernel
theorem witness_tags_issue : Issues { gS with groups := [(256, cG)] } cG (.taga 2 3 112) ∧ Issues { gS with groups := [(256, cG)] } cG (.taga 2 3 4) ∧
    Issues gS tG (.meet 2 3 4) ∧ Issues gS tG (.tagf 2 3) :=
  ⟨issues_of (by decide +kernel), issues_of (by decide +kernel), issues_of (by decide +kernel), issues_of (by decide +kernel)⟩
/-- R191 to R196: contributions that are accepted, late, early, out of range and for no tag; a round about to end. -/
theorem witness_contributions : (gS.net[0]?).map (fun c => (c.tag, c.cidx)) = some (1, 1) ∧ gS.answered.contains 7 = false ∧
    (tabGet (gS.part 3).tags 9) = none ∧ (1 ≤ ((4#16) - 3#16).toNat ∧ ((4#16) - 3#16).toNat ≤ 32767) ∧ 32767 < ((4#16) - 5#16).toNat ∧
    (tagOf .fill 1).pres.getLsbD 1 = false ∧ blocksUsed gS (routerOf 3 1) < vatSize gS ∧ (tagOf .fill 1).pres ||| (1#64 <<< 1) = fullMask 2 ∧
    tagU tagD 16 4 = 0xFFFFFFFF ∧ refOfTeam gS 0 = some (.live 256) ∧ (tagOf .fill 1).started + 10 * 1000 ≤ ({ gS with time := 10000 } : State).time := by
  decide +kernel

/-- A tile table entry: one peer, two chunks. -/
def ttE : BitVec 512 := 0x9 <<< 320 ||| 0xFFFFFFFF <<< 256 ||| 0x5 <<< 131 ||| 2 <<< 32 ||| 1 <<< 24 ||| 7 <<< 8
/-- The machine with that entry as entry 0, a firing of it, a landing area of 16 slots with slot 0 used, and a spilled chunk. -/
def fS (f : Firing) : State :=
  { withReg tS 3 [0] with
    parts := [(3, { tS.part 3 with
      ttEn := true, ttLog := 4, ttBase := 0x30000, firings := [f], landEn := true, landLog := 4, landBase := 0x40000, landUsed := [0], splEn := true, splLog := 4,
      splBase := 0x50000, spilled := [(0, 5)], splNext := 1 })], live := 8 }
def arrival (op : BitVec 8) (ovf : Bool) : Arrival := ⟨3, 9, 1, 0, 0, op, 7, false, ovf, [], 0, 5#80 <<< 67, List.replicate 4096 1⟩
/-- R200 to R206: entries that TTRDY takes; firings about to send, with a retry, with a pair in flight and halted; arrivals for slots, for the spill ring
and refused. Whether a peer is reached is a free value, and both cases are stated. -/
theorem witness_firings : Issues (fS ⟨0, ttE, .s, 0, false, 0, false⟩) tG (.ttrdy 2 3) ∧ ttBad ttE = false ∧ ttU ttE 4 2 * ttU ttE 3 1 = 2 ∧
    ((fS ⟨0, ttE, .s, 1, true, 5, false⟩).part 3).firings.find? (fun y => y.entry == 0) = some ⟨0, ttE, .s, 1, true, 5, false⟩ ∧
    (unitRead (fS ⟨0, ttE, .s, 0, false, 0, false⟩) 3 false .s (mkVa 5 0 0x30000) 64).toBool = true ∧
    (unitRead (fS ⟨0, ttE, .s, 0, false, 0, false⟩) 3 false .s (vaAdd (BitVec.ofNat 80 (ttU ttE 8 10)) 512) 512).toBool = true ∧
    tS.live.getLsbD 4 = false ∧ tS.live.getLsbD 3 = true ∧ (arrival 4 false).op = 4 ∧ (arrival 1 true).ovf = true :=
  ⟨issues_of (by decide +kernel), by decide +kernel⟩
/-- The machine with that firing in which the first GiB of kind 1 is mapped to the pinned window, unit 0 pinned to the partition, and the pool present. -/
def lS : State :=
  { fS ⟨0, ttE, .s, 0, false, 0, false⟩ with
    hbm := [(0x8000, 1), (0x8002, 1), (0x9000, 1), (0x9002, 2), (0xB000, 1), (0xB002, 1), (0x10000, 0x3F), (0x20000, 0x3F), (0x20004, 1), (0x20020, 0x3F),
      (0x20024, 1)],
    pinned := [(0, 3)], poolSz := 1 }
/-- R205, R206: a lowest free slot that can be filled, a spilled chunk that can be fetched again, and a landing area that cannot be written. -/
theorem witness_landing : (1 < 2 ^ (4#4).toNat ∧ 1 ∉ [0]) ∧ okIs (translate lS 384 3 false .s .store 1 0x40000) ⟨1, 0x100040000, false⟩ = true ∧
    (∃ d u, regionOf 0x100040000 = .pinned d u) ∧ (unitRead lS 3 false .s (mkVa 5 3 0x50000) 4160).toBool = true ∧
    (fillSlot lS 3 1 [1, 2] [3]).isSome = true ∧ (fillSlot { lS with pinned := [] } 3 1 [1, 2] [3]).isSome = false :=
  ⟨by decide, by decide +kernel, ⟨0, 0, by decide +kernel⟩, by decide +kernel⟩

/-- The sequencer's group, and its machine: MTSTR 128, one tile of 2 rows of 8 INT8 values. -/
def qS2 (queue : List Command) : State :=
  { qS with clusters := [(4, { Cluster.reset with tctl := [(1, ⟨6, 1, 7⟩), (2, ⟨6, 1, 7⟩), (3, ⟨4, 1, 7⟩)], queue := queue })] }
def qB : Group := { qG with ab := [(0, 40#80 <<< 64)], s := [(1, 0x40000), (2, 0x40002), (3, 0x40000000)] }
def qS3 (queue : List Command) : State := { qS2 queue with groups := [(8196, qB)] }
/-- R170 to R177: operands whose formats and shapes agree, disagree in format, in shape; transfers that can be placed, are misaligned, and fail; a full
queue; a command at the engine. -/
theorem witness_matrix : Issues (qS3 []) qB (.mma 0 1 2 0) ∧ Issues (qS3 []) qB (.mma 0 1 3 0) ∧ Issues (qS3 []) qB (.mma 0 1 4 0) ∧
    Issues (qS3 (List.replicate 16 (.zero 0))) qB (.accZero 1) ∧ Issues (qS3 []) qB (.tileTld 1 97 0) ∧ Issues (qS3 []) qB (.accDrain 1 97 0) ∧ qB.em ≠ 0 ∧
    (placePieces (qS3 []) 8196 qB .load (rowPieces 0x280000000000040000#80 128 2 8)).toBool = true ∧
    (placePieces (qS3 []) 8196 qB .load (rowPieces (vaAdd (storeGet qB.ab 0) 0x40000) 128 2 8)).toBool = true ∧
    (vaAdd (storeGet qB.ab 0) 0x40002).toNat % 4 ≠ 0 ∧ Cluster.reset.mtstr.toInt % 4 = 0 ∧
    (placePieces (qS3 []) 8196 qB .store (rowPieces (vaAdd (storeGet qB.ab 0) 0x40000000) 128 2 8)).toBool = false ∧
    ((qS3 [.zero 0, .move 1 2]).cluster 4).queue = [.zero 0, .move 1 2] ∧ (4 < 128 ∧ (qS3 []).poison = []) :=
  ⟨issues_of (by decide +kernel), issues_of (by decide +kernel), issues_of (by decide +kernel), issues_of (by decide +kernel), issues_of (by decide +kernel),
    issues_of (by decide +kernel), by decide +kernel⟩
/-- R175: TCTL and MDCFG values at the boundary of what they accept. -/
theorem witness_tctl : ¬ ((6 : Nat) = 1 ∨ 7 ≤ 6 ∨ 128 < (Tctl.mk 6 127 127).rowBytes) ∧ 128 < (Tctl.mk 2 127 127).rowBytes ∧ (7#4 : BitVec 4) ≠ 0 := by decide

/-- A job of two steps: source A of ring 3, its staging pair tiles 2 and 3, source B tile 5, an FP32 result; two permits. -/
def jC : BitVec 512 := recOf ([1, 1, 1, 0, 2, 0] ++ List.replicate 41 0 ++ [0x83, 5, 0, 2, 128, 2])
def jF : BitVec 512 := recOf [4, 4, 1, 0]
/-- Ring 3 of two slots of 16 KiB. -/
def jR : Ring := ⟨true, 1, 255, 0, 0, 0, 0, 0, true, false⟩
def jT : Team := { tT with groups := [8196], rings := [(3, jR)], ssize := 8 }
def jOf : Job :=
  { card := jC, fmtb := jF, ab0 := 0, ab1 := 0, ab2 := 0, mode := .s, part := 3, teamUid := 0, tctl := [], ch0 := [(3, 0)], start := 0, next := 0, written := 0,
    recsDone := 0, claim := none, staged := (0, 0, 0), permits := 2, running := true, eccAt := none, ending := none, inStep := false, canceled := false }
def jS (queue : List Command) : State :=
  { qS with
    teams := [(256, jT)], groups := [(8196, { qB with ab := [(3, 40#80 <<< 64)] })], clusters := [(4, { Cluster.reset with queue := queue })],
    cores := [(8, { Core.reset with slmap := 0x83, xq := [(0, { CopyQueue.reset with en := true, base := 0x50000, part := 3 })] })] }
/-- R180 to R186: a card that passes every check, with its queue's room; one that fails; jobs whose walker may write, whose slot may be staged, whose step may
complete, and one that is the last. -/
theorem witness_jobs : cardCode (jS []) 8196 qB jC jF 0 = 0 ∧ cardCode (jS []) 8196 qB jC jF 2 = 2 ∧ cardCode (jS []) 8196 qB 0 jF 0 = 1 ∧
    ringSrcs jC = [0] ∧ cardQueue 4 jC = (8, 0) ∧ cardEmit jC = true ∧ cardT jC = 2 ∧ (claimSlot (jS [.job jOf]) 8 0).map (·.2) = some 0 ∧
    (fillClaim (jS [.job jOf]) (8, 0, 0) .s 1 7).isSome = true ∧ (fillClaim (jS [.job jOf]) (8, 0, 1024) .s 1 7).isNone = true ∧
    (readBlock (jS []) 8196 qB (vaAdd (storeGet qB.ab 0) 0x40000)).toBool = true ∧ (readBlock (jS []) 8196 qB (vaAdd (storeGet qB.ab 0) 0x40000000)).toBool = false ∧
    mayStage (jS [.job jOf]) { jT with rings := [(3, { jR with st := 2 })] } jOf 0 = true ∧ fmtScl jF = false ∧ slotsFreed { jOf with ending := some 6 } = true ∧
    stepPoisoned (jS [.job jOf]) (jobArgs 4 jOf) = false := by decide +kernel
/-- Table 11: a card for each code, from 1 to 9. -/
theorem witness_card_codes :
    ([recSet jC 53 1 1, recSet jC 4 2 0, recSet jC 44 1 15, recSet jC 50 1 1, recSet jC 47 1 0x84, recSet jC 51 1 129, recSet jC 52 1 3].map fun C =>
      cardCode (jS []) 8196 qB C jF 0) = [1, 2, 3, 4, 5, 6, 7] ∧
    cardCode (jS []) 8196 qB jC (recSet jF 0 1 5) 0 = 8 ∧ cardCode (jS []) 8196 qB (recSet jC 54 4 2) jF 0 = 9 := by decide +kernel
/-- A format block with scales: those of A from 0x40000, that of B at 0x40100 of kind 0. -/
def jF2 : BitVec 512 := recSet (recSet (recSet (recSet (recOf [4, 4, 4, 8, 128, 128]) 8 10 0x280000000000040000) 18 10 0x280000000000040100) 28 4 4) 32 2 1
/-- R180, R184: scales that can be read, are misaligned, fail and are uncorrectable; a step that has started; an ending that waits for its slots; a step that
meets an uncorrectable tile. -/
theorem witness_job_scales :
    let j := { jOf with fmtb := jF2, staged := (1, 0, 0) }
    scaleAddrs j 0 1 = [0x280000000000040000, 0x280000000000040100] ∧ ({ jS [] with cxlUp := true } : State).cxlUp = true ∧ jobStarted j = true ∧
    (unitRead (jS []) 3 false .s 0x280000000000040000 4).toBool = true ∧ (unitRead (jS []) 3 false .s 0x280000000040000000 4).toBool = false ∧
    0x280000000000040002 % 4 ≠ 0 ∧ (match unitRead { jS [] with poison := [(0, 0x40000 / 32)] } 3 false .s 0x280000000000040000 4 with
      | .ok (_, bad) => bad.isSome
      | .error _ => false) = true ∧
    stepPoisoned { jS [] with poison := [(1, (0x20000000 + 4 * 0x100000 + 2 * 16384) / 8)] } (jobArgs 4 j) = true ∧
    slotsFreed jOf = true ∧ slotsFreed { jOf with written := 1 } = false ∧ (jS []).team? 256 = some jT ∧ jT.core / 2 = 4 ∧
    mayStage (jS []) { jT with rings := [(3, { jR with st := 2 })] } { jOf with ending := some 6, written := 1 } 0 = true := by decide +kernel
theorem witness_jobs_issue : ∀ i ∈ [Instr.mjob 2 97 112, .mjobWait 2, .mjobCancel 2], Issues (jS []) { qB with ab := [(3, 40#80 <<< 64)] } i :=
  issues_all (by decide +kernel)

/-- A record that copies 256 bytes from 0x40000 to 0x48000 of kind 0. -/
def cR : BitVec 512 := recOf (List.replicate 8 0 ++ leBytes 10 0x280000000000040000 ++ leBytes 10 0x280000000000048000 ++ leBytes 4 256)
/-- A copy in flight, and its core; a queue with a taken slot; a log with an entry that waits and one of a halted copy. -/
def cC : Copy :=
  { id := 7, record := cR, source := 0, home := 0, slotOff := 0, slotNum := 0, row := 0, mode := .s, part := 3, evPart := 3, teamUid := none, owner := some 1,
    walker := false, stamp := 0, err := none, held := false }
def cK : Core := { Core.reset with
  slmap := 0x83, copies := [cC], xq := [(1, { CopyQueue.reset with en := true, base := 0x50000, part := 3, team := 0 })], flogEn := true, flogBase := 0x58000,
  flogPart := 3, widx := 1, logWait := [⟨logBytes cR 0x280000000000040000 6 0 0 0 0, 3, some cC⟩], halted := [⟨0, cC⟩] }
def cS (k : Core) : State :=
  { withG { cG with s := [(0, 0), (1, 0x40000), (2, 0x8000000000002800), (3, 0x0000028000000000)] } with
    cores := [(8, k)], hbm := tTables ++ [(0x5007F, 0x80)] }
/-- R73 to R93: records that pass and that are malformed, room and no room, a copy whose accesses pass, one that halts, and a slot that is ready. -/
theorem witness_copies : recBad cR false = false ∧ recBad (recSet cR 0 1 5) false = true ∧ recKind cR = 0 ∧ recLen cR = 256 ∧ inFlight cK = 2 ∧
    (cK.copies.find? (fun x => x.id == 7)) = some cC ∧ isLocal (cS cK) (recSrc cR) = true ∧ okIs (translate (cS cK) 384 3 true .s .load 0 0x40000) ⟨0, 0x40000, false⟩ = true ∧
    (copyRun (cS cK) 8 cC).2.2 = none ∧ ((copyRun (cS cK) 8 { cC with record := recSet cR 8 10 0x280000000040000000 }).2.2).isSome = true ∧
    (unitRead (cS cK) 3 false .s (mkVa 5 0 (0x50000 + 64 + 63)) 1).toBool = true ∧ refOfUid (cS cK) 1 = some (.live 256) ∧ vaOff (recSrc cR) % 65536 + 256 ≤ 65536 := by
  decide +kernel
theorem witness_copies_issue : ∀ i ∈ [Instr.xcp 2 0, .xcpd 2 112, .yieldc 1 0 3],
    Issues (cS cK) { cG with s := [(0, 0), (1, 0x40000), (2, 0x8000000000002800), (3, 0x0000028000000000)] } i := issues_all (by decide +kernel)
/-- R86 to R88: an entry that can be written, a full log, one that cannot be written, and an entry with which XFRES finds its copy. -/
theorem witness_logs : ¬ (cK.flogEn = false ∨ (cK.widx + 65536 - cK.xfridx.toNat) % 65536 = 2 ^ cK.flogLogn.toNat) ∧
    (tableWrite (cS cK) 3 (0x58000 + 128 + 128) [1]).isSome = true ∧ (tableWrite (cS cK) 3 0x40000000 [1]).isSome = false ∧
    ((0 + 65536 - cK.xfridx.toNat) % 65536 < (cK.widx + 65536 - cK.xfridx.toNat) % 65536) ∧ cK.halted.find? (fun x => x.entry == 0) = some ⟨0, cC⟩ ∧
    (tableRead (cS cK) 3 (0x58000 + 128) 128).isSome = true ∧ (4 ≤ 4 ∧ (12 : Nat) ≤ 12) ∧ isSeq 256 = false := by decide +kernel

/-- A launch record at 0x30000: one part of one vector group of 16 lanes at 0x20000, team 1 of core 8, 4 KiB of scratchpad; one malformed at 0x30800. -/
def nH : Store 8 := tTables ++ [(0x30000, 1), (0x30002, 8), (0x30003, 1), (0x30005, 0x10), (0x30020, 1), (0x30021, 4), (0x30022, 1), (0x30023, 4), (0x3002A, 2),
  (0x30800, 9)]
def nS : State := { tS with hbm := nH }
theorem witness_launch : (tableRead nS 3 0x30000 320).map recordBad = some false ∧ (tableRead nS 3 0x30800 320).map recordBad = some true ∧
    (tableRead nS 3 0x40000000 320) = none ∧ (launchCheck nS 3 (bytesAt nS 0 0x30000 320)).toBool = true ∧
    (launchCheck nS 4 (bytesAt nS 0 0x30000 320)).toBool = false ∧ byteAt (bytesAt nS 0 0x30000 320) 3 = 1 := by decide +kernel
/-- R289: a group that can stop, one with a copy in flight, and a team of one group. -/
theorem witness_stop : Issues tS tG .stop ∧ stopReady tS 256 tG = true ∧ tS.team? 256 = some tT ∧ tT.groups.filter (· != 256) = [] ∧
    stopReady (cS cK) 256 cG = false ∧ tS.vacate = none := ⟨issues_of (by decide +kernel), by decide +kernel⟩

/-- Operator fields, a stream that decodes, and its machine: classes at 0x30000, descriptors at 0x34000, cards at 0x38000, counter 2 named by a SIG. -/
def oF : OpFields := ⟨0, 0, 0, 0, 0, 0, 0, 0, 1, 2⟩
def oSt : Stream := ⟨0, 5, 0, 0, false, [⟨0x280000000000030000, 8, 0⟩], 0, none, [], none, [], false, 0⟩
def dS (st : Stream) : State :=
  { tS with
    curPart := 3, curStream := 0, events := [(2, 9)], hbm := tTables ++ [(0x30210, 1), (0x30220, 1), (0x30224, 4), (0x30226, 4), (0x34008, 2), (0x3400A, 1), (0x3400C, 4),
      (0x34010, 4), (0x38001, 5)],
    parts := [(3, { tS.part 3 with
      opEn := true, opBase := 0x30000, tdEn := true, tdLog := 4, tdBase := 0x34000, jcEn := true, jcLog := 4, jcBase := 0x38000, evN := 64, evDpn := 32,
      streams := [st] })] }
theorem witness_operators : findStream (dS oSt) 3 0 = some oSt ∧ oSt.ended = false ∧ oF.mbz = 0 ∧ oF.flags.extractLsb' 2 6 = 0#6 ∧ ({ oF with mbz := 1 } : OpFields).mbz ≠ 0 ∧
    1 < (storeGet (dS oSt).events 2).toNat ∧ (readDesc (dS oSt) 3 0).toBool = true ∧ (readDesc (dS oSt) 3 16).toBool = false ∧
    (readShape (dS oSt) 3 1 { oF with cls := 1 }).toBool = true ∧ (readShape (dS oSt) 3 1 oF).toBool = false ∧ 5 ≤ (List.replicate 5 (⟨0, 1, 0⟩ : StreamLevel)).length ∧
    (findStream (dS { oSt with ops := [⟨0, none, 0, 1, false, [], false, false, false⟩] }) 3 0).isSome = true ∧ 32 ≤ 32 := by decide +kernel

/-- A queue that runs in partition 3, its ring of 1,024 words at 0x40000 of kind 2, event ring 1 of 16 records at 0x50000. -/
def qQ : Queue := { Queue.reset with en := true, owner := 3, kind := 2, base := 0x40000, rights := 7, levels := [ringLevel], evr := 1, wptr := 64, period := 10 }
def qP (typ flags : BitVec 8) (l : List Word) : Packet := ⟨flags, BitVec.ofNat 16 l.length, typ, l⟩
def yS (q : Queue) : State := { tS with curQueue := 9, queues := [(9, q)], rings := [(1, { EventRing.reset with en := true, base := 0x50000 })], live := 8 }
def goodP (p : Packet) : Bool := (headerCode qQ p).isNone && decide (p.count.toNat ≤ p.payload.length) && !payloadBad p && (curLoop qQ).isNone
/-- R242 to R249: a packet of each type that passes every check; headers and payloads that do not; queues that wait, skip and stand in a buffer. -/
theorem witness_packets : goodP (qP 0 0 []) = true ∧ goodP (qP 1 0 []) = true ∧ goodP (qP 2 0 [0x40000, 0, 0x1, 64]) = true ∧
    goodP (qP 3 0x0A [0x40000, 0, 0x28, 1, 0, 0xFF, 0, 0]) = true ∧ goodP (qP 4 0 [0x40000, 0, 0x28, 1, 0, 0xFF, 0, 1]) = true ∧ goodP (qP 5 0 [2, 4]) = true ∧
    goodP (qP 6 1 []) = true ∧ goodP (qP 7 0 [0x40000, 0, 0, 5]) = true ∧ goodP (qP 8 1 [8, 1]) = true ∧ goodP (qP 9 1 [0x40000, 0, 0, 4]) = true ∧
    goodP (qP 10 0 [7]) = true ∧ headerCode qQ (qP 11 0 []) = some 1 ∧ (headerCode qQ (qP 5 0 [1])) = some 2 ∧ payloadBad (qP 5 0 [0, 4]) = true ∧
    headerCode { qQ with rptr := 1023 } (qP 5 0 [1, 4]) = some 3 := by decide +kernel
theorem witness_queue : (yS qQ).queue 9 = qQ ∧ (qQ.en = true ∧ qQ.stop = false) ∧ okIs (translate (yS qQ) 384 3 false .s .store 2 0x40000) ⟨2, 0x40000, false⟩ = true ∧
    0x40000 % 65536 + 8 ≤ 65536 ∧ addrCode (yS qQ) (pktVa (qP 7 0 [0x40000, 0, 0x28, 5])) 4 = none ∧ (unitRead (yS qQ) 3 false .s 0x280000000000040000 8).toBool = true ∧
    curSkip { qQ with levels := [{ ringLevel with skip := 2 }] } = 2 ∧ (curLoop { qQ with levels := [{ ringLevel with loop := some (3, 7, 2) }] }) = some (3, 7, 2) ∧
    levelOf { qQ with levels := [⟨0, 4, 0, none, 0⟩, ringLevel] } = 1 ∧ ringFull (yS qQ) 1 = false ∧ ringFull (yS qQ) 2 = true := by decide +kernel
/-- R236 to R240, R303: QCTL values, periods due and not, and the body of a wake before its seal. -/
theorem witness_control : (0x8000000000000000#64).getLsbD 63 = true ∧ (0xA000000000000000#64).getLsbD 61 = true ∧ (0x9000000000000000#64).getLsbD 60 = true ∧
    Queue.reset.en = false ∧ (yS qQ).edf = true ∧ qQ.period ≠ 0 ∧ qQ.periodStart + 10 * 1000 ≤ ({ yS qQ with time := 10000 } : State).time ∧
    ¬ (10000 ≤ (yS qQ).time) ∧ qQ.throt = false := by decide +kernel

/-- Groups that a hard stop takes at once, in its window, and while a stop is held; halts that are due. -/
theorem witness_stops : tG.idle = false ∧ stopHeld tG = false ∧ stopHeld { tG with wait := .atomic [] } = true ∧ ({ tG with parked := true } : Group).idle = true ∧
    (withG { tG with dbg := { tG.dbg with haltReq := true } }).group? 256 = some { tG with dbg := { tG.dbg with haltReq := true } } ∧
    ({ tG with dbg := { tG.dbg with halted := true, pendV := true, pendCause := 0x15 } } : Group).dbg.pendV = true := by decide +kernel
/-- An H-mode group on core 10 that saves the team of core 8, and its machine. -/
def hS2 : State :=
  { tS with
    groups := [(256, { tG with parked := true }), (320, { hG with uid := 2, team := 320 })], teams := [(256, tT), (320, { tT with core := 10, groups := [320], uid := 1 })], cur := 320,
    hbm := tTables ++ [(0x60000, 64), (0x60008, 1), (0x6000D, 3)], images := [⟨0x60000, true, false, none, 3, tT, [(0, tG)], [], [], none, [], []⟩] }
/-- R296, R297: a save of a team that is ready, an image that is read, a core with room for it, and one without. -/
theorem witness_context : teamOn hS2 8 0 = some 256 ∧ teamOn hS2 8 1 = none ∧ saveReady tS tT = false ∧ saveReady (hardStop hS2 false 256) tT = true ∧ readHeader hS2 3 0x60000 = some (1, 3, 64) ∧ readImage hS2 3 0x60000 = some (1, 3) ∧
    readImage hS2 3 0x70000 = some (0, 0) ∧ readImage hS2 3 0x40000000 = none ∧ (hS2.images.find? fun x => x.area == 0x60000 && x.part == 3 && x.live).isSome = true ∧
    coreHeld hS2 8 3 = true ∧ coreHeld hS2 9 3 = false ∧ coreVacated hS2 8 3 = false ∧ (restoreRoom hS2 (hS2.images.getD 0 ⟨0, true, false, none, 3, tT, [], [], [], none, [], []⟩) 8).isSome = true ∧
    (consumeImage hS2 3 0x60000).isSome = true ∧ hS2.group? 320 = some { hG with uid := 2, team := 320 } := by decide +kernel
/-- R294 to R301: a slot whose holder is another partition's, a team whose expiry is due, a drain at half its deadline, and a vacate. -/
theorem witness_slots : slotHolder tS 8 = some 3 ∧ slotHolder tS 9 = none ∧ slotElse tS [8] 3 = false ∧ slotElse tS [8] 4 = true ∧
    tS.teams.filter (fun e => e.1 == 256) = [(256, tT)] ∧ (Drain.mk 0 1000 false).start + (1000 - 0) / 2 ≤ ({ tS with time := 500 } : State).time ∧
    uG.mode = .u ∧ ({ uG with job := true } : Group).drained = false ∧ (0x8308000000000000#64).extractLsb' 62 2 = 2#2 ∧
    ((0x8308000000000000#64).extractLsb' 56 6).toNat = 3 ∧ ((0x8308000000000000#64).extractLsb' 48 8).toNat = 8 := by decide +kernel

/-- The machine with a window of 64 KiB at 0x10000 of kind 4 and an object to publish at 0x40000: NOP, then BRA to itself. -/
def wS : State :=
  { withG { tG with s := [(0, 0x40000), (1, 8), (2, 0x40000000)] } with
    featen := 0x7FF, live := 8, hbm := tTables ++ [(0x40000, 1), (0x40007, 2)],
    parts := [(3, { tS.part 3 with pubEn := true, pubBase := 0x10000 })] }
theorem witness_publ : Issues wS { tG with s := [(0, 0x40000), (1, 8), (2, 0x40000000)] } (.publ 99 96 97) ∧ (wS.part 3).pubEn = true ∧ wS.featen.getLsbD 10 = true ∧
    (0 < 8 ∧ 8 % 4 = 0 ∧ 0x40000 % 4 = 0) ∧ firstIll (wordsOf (bytesAt wS 0 0x40000 8)) 0 Pre.none = none ∧ firstStray 8 (wordsOf (bytesAt wS 0 0x40000 8)) 0 = none ∧
    firstIll [1, 0] 0 Pre.none = some 1 ∧ firstStray 4 [0x02000001] 0 = some 0 ∧ (unitRead wS 3 false .s 0x280000000000040000 8).toBool = true ∧
    (unitRead wS 3 false .s 0x280000000040000000 8).toBool = false ∧ okIs (combined wS 3 .s .fetch 4 0x10000) ⟨4, 0x10000, false⟩ = true ∧
    (windowPlaces { wS with hbm := [] } 3 .s 0x10000 256) = none ∧ 2 ^ 16 < 0xFF00 + 512 := ⟨issues_of (by decide +kernel), by decide +kernel⟩
/-- R319: a message from a bound peer, and a multicast that awaits two answers. -/
theorem witness_multicast : boundPart oS 9 7 = some 3 ∧ boundPart oS 9 6 = none ∧ [4, 9].erase 4 = [9] ∧ [9].erase 9 = ([] : List Nat) ∧ (3#2 : BitVec 2) ≠ 1 := by decide +kernel
/-- R214, R41: the group that issues alone in its pipe's clock, and the word that it fetches; after State.withFetchWord the next step runs the word. -/
theorem witness_step : (let s := State.reset.withFetchWord 32 0x4C142801
    s.agenda = [.pipe 0 0] ∧ s.inReset = false ∧ pipeGroups s 0 0 = [(0, fetchGroup 0x4C142801)] ∧ isReady s 0 (fetchGroup 0x4C142801) = true ∧
    okIs (translate s 0 0 false .s .fetch 4 0x20000) ⟨4, 0x20000, false⟩ = true ∧ placeValue s ⟨4, 0x20000, false⟩ 4 = 0x4C142801 ∧ s.icache = []) ∧
    (fetchGroup 0x4C142801).mode ≠ .u ∧ Memory.wf State.reset = true ∧ decodeWord 0x4C142801 = some (.iaddi 5 5 1) := by decide +kernel

theorem leNat_leBytes (n v : Nat) : leNat (leBytes n v) = v % 256 ^ n := by
  induction n generalizing v with
  | zero => simp [leBytes, leNat, Nat.mod_one]
  | succ n ih =>
    simp only [leBytes, leNat, ih, BitVec.toNat_ofNat]
    show v % 256 + 256 * (v / 256 % 256 ^ n) = _
    rw [Nat.pow_succ, Nat.mul_comm (256 ^ n) 256, Nat.mod_mul]

/-- A wake for the queue of yS with a seal. -/
def coin (v : Dword) : List Byte :=
  leBytes 8 (qbaseOf qQ).toNat ++ [1, 3, 9, 0] ++ leBytes 6 0 ++ leBytes 6 0 ++ leBytes 8 v.toNat ++ leBytes 8 1024 ++ List.replicate 24 0
/-- R239: a wake with a true coin, whatever MINTKEY is. -/
theorem witness_wake : ∃ v, (coin v).length = 64 ∧ (∀ b ∈ (coin v).drop 40, b = 0#8) ∧ byteAt (coin v) 8 < 8 ∧ byteAt (coin v) 10 = 9 ∧ byteAt (coin v) 11 = 0 ∧
    leField (coin v) 0 8 = (qbaseOf qQ).toNat ∧ byteAt (coin v) 9 = qQ.owner.toNat ∧ leField (coin v) 12 6 = qQ.nonce.toNat ∧ leField (coin v) 18 6 = 0 ∧
    leField (coin v) 24 8 = (sealOf (yS qQ) ((coin v).take 24)).toNat := by
  refine ⟨sealOf (yS qQ) ((coin 0).take 24), ?_⟩
  generalize h : sealOf (yS qQ) ((coin 0).take 24) = v
  refine ⟨rfl, ?_, Nat.lt_of_sub_ne_zero (by show 8 - 1 ≠ 0; decide), rfl, rfl, ?_, rfl, rfl, rfl, ?_⟩
  · intro b hb
    exact List.eq_of_mem_replicate (show b ∈ List.replicate 24 0#8 from hb)
  · show leNat (leBytes 8 (qbaseOf qQ).toNat) = _
    decide +kernel
  · have e : (coin v).take 24 = (coin 0).take 24 := rfl
    have e2 : leField (coin v) 24 8 = leNat (leBytes 8 v.toNat) := rfl
    rw [e, h, e2, leNat_leBytes]
    exact Nat.mod_eq_of_lt v.isLt

/-! Single steps. Expected values are the specification's worked values where a docstring says so, else worked by hand from the rule named. -/

/-- Two registers of the group set; scalars of it set. -/
def two (x y : List Word) : State := withReg (withReg tS 3 x) 4 y
def withS (l : Store 64) : State := withG { tG with s := l }
/-- A long-latency result after it has landed. -/
def late (i : Instr) (s : State) : State := landAll (after i s) s.cur
/-- The scalar n of the group. -/
def scal (s : State) (n : Nat) : Dword := storeGet (me s).s n

/-- R137: wrap and saturation at 32 bits, the high half, and a product of halves. -/
theorem test_integer : lane (after (.iadd 2 3 4 0) (two [0xFFFFFFFF] [2])) 2 0 = 1 ∧ lane (after (.iadd 2 3 4 4) (two [0x7FFFFFFF] [1])) 2 0 = 0x7FFFFFFF ∧
    lane (after (.imul 2 3 4 4) (two [65536] [65536])) 2 0 = 0x7FFFFFFF ∧ lane (after (.imulh 2 3 4 1) (two [0xFFFFFFFF] [2])) 2 0 = 1 ∧
    lane (after (.imulh 2 3 4 0) (two [0xFFFFFFFF] [2])) 2 0 = 0xFFFFFFFF := by decide +kernel
/-- R137: a 64-bit sum carries into the odd register; R26: an inactive lane is not written. -/
theorem test_integer64 : lane (after (.iadd 2 4 6 2) (withReg (withReg tS 4 [0xFFFFFFFF]) 6 [1])) 3 0 = 1 ∧
    lane (after (.iadd 2 3 4 0) { two [1, 1] [1, 1] with groups := [(256, { tG with em := 1 })] }) 2 1 = 0 := by decide +kernel
/-- R138: the field examples of BFX, and a field that runs past bit 31. -/
theorem test_bfx : lane (after (.bfx 2 3 4 1) (two [0xF0] [0x404])) 2 0 = 0xFFFFFFFF ∧ lane (after (.bfx 2 3 4 0) (two [0xC0000000] [0x81E])) 2 0 = 3 := by
  decide +kernel
/-- R138: shift amounts count modulo the width. -/
theorem test_shift : lane (after (.shl 2 3 4 0) (two [1] [33])) 2 0 = 2 ∧ lane (after (.sra 2 3 4 1) (two [0x80000000] [4])) 2 0 = 0xF8000000 := by decide +kernel
/-- R140: a zero divisor gives all ones, and the dividend as the remainder; the quotient is rounded toward zero. -/
theorem test_division : lane (late (.idiv 2 3 4 0) (two [7] [0])) 2 0 = 0xFFFFFFFF ∧ lane (late (.irem 2 3 4 0) (two [7] [0])) 2 0 = 7 ∧
    lane (late (.idiv 2 3 4 1) (two [0xFFFFFFF9] [2])) 2 0 = 0xFFFFFFFD := by decide +kernel
/-- R139, R142: signed and unsigned order; only active lanes of the mask are written. -/
theorem test_compare : storeGet (me (after (.icmp 1 3 4 0 2) (two [0xFFFFFFFF, 1] [0, 0]))).k 1 = 0x1 ∧
    storeGet (me (after (.icmp 1 3 4 1 2) (two [0xFFFFFFFF, 1] [0, 2]))).k 1 = 0x2 := by decide +kernel
/-- R141: an immediate that sign-extends, and a 64-bit scalar form. -/
theorem test_immediate : lane (after (.iaddi 2 3 0x7FF) (two [0] [])) 2 0 = 0xFFFFFFFF ∧ scal (after (.iaddi 97 97 0x7FF) (withS [])) 1 = 0xFFFFFFFFFFFFFFFF ∧
    lane (after (.movi 2 0x400) tS) 2 3 = 0xFFFFFC00 := by decide +kernel
/-- R144: bits of b beyond the address wrap; b is sign-extended before the shift. -/
theorem test_aadd : scal (after (.aadd 98 96 97 2 2) (withS [(0, 0x10), (1, 0xFFFFFFFF)])) 2 = 0xC := by decide +kernel
/-- R33: LIT gives lit its value and R141's immediate its high bits, once. -/
theorem test_prefix : (me (after (.lit 7) tS)).preLit = some 7 ∧
    lane (after (.iadd 2 115 3 0) (withReg (withG { tG with preLit := some 7, preStart := some 0x1FFFC }) 3 [1])) 2 0 = 8 ∧
    (me (after (.iadd 2 115 3 0) (withG { tG with preLit := some 7, preStart := some 0x1FFFC }))).preLit = none := by decide +kernel
/-- R146: 1 + 1, and infinity less infinity gives the canonical NaN and NV. -/
theorem test_fadd : lane (after (.fadd 2 3 4 0) (two [0x3F800000] [0x3F800000])) 2 0 = 0x40000000 ∧
    lane (after (.fsub 2 3 4 0) (two [0x7F800000] [0x7F800000])) 2 0 = 0x7FC00000 ∧
    (me (after (.fsub 2 3 4 0) (two [0x7F800000] [0x7F800000]))).fpstat = 0x10 := by decide +kernel
/-- R147: (1 + 2^-23)² - (1 + 2^-22) is 2^-46, with one rounding. -/
theorem test_ffma : lane (after (.ffma 2 3 4 0) (withReg (two [0x3F800001] [0x3F800001]) 2 [0xBF800002])) 2 0 = 0x28800000 := by decide +kernel
/-- R149: comparison of zeros, and of a NaN. -/
theorem test_fcmp : storeGet (me (after (.fcmp 1 3 4 0) (two [0x80000000, 0x7FC00000] [0, 0]))).k 1 &&& 3 = 1 := by decide +kernel
/-- The specification's word 0x7E181988: FCVT.e2 of 3.3 into byte 2 of 0x11223344 gives 0x11453344, inexact. -/
theorem test_fcvt : lane (after (.fcvt 6 3 1 4 0 2 0) (withReg (two [0x40533333] []) 6 [0x11223344])) 6 0 = 0x11453344 ∧
    (me (after (.fcvt 6 3 1 4 0 2 0) (withReg (two [0x40533333] []) 6 [0x11223344]))).fpstat = 1 := by decide +kernel
/-- R116: the draws of the generator value 0x80000001. -/
theorem test_draw : srDraw 0x80000001 0 = 0x8000 ∧ srDraw 0x80000001 1 = 0 := by decide
/-- R160: the tree sum of 16,777,216 and fifteen ones, and its sequential sum. -/
theorem test_reduce : lane (after (.rdce 2 3 8) { withReg (withG { tG with width := 16, em := 0xFFFF }) 3 (0x4B800000 :: List.replicate 15 0x3F800000) with
      groups := [(256, { tG with width := 16, em := 0xFFFF })] }) 2 0 = 0x4B800007 ∧
    lane (after (.scan 2 3 8) { withReg (withG { tG with width := 16, em := 0xFFFF }) 3 (0x4B800000 :: List.replicate 15 0x3F800000) with
      groups := [(256, { tG with width := 16, em := 0xFFFF })] }) 2 15 = 0x4B800000 := by decide +kernel
/-- R158: a lane beyond the width keeps its own value. -/
theorem test_shfl : lane (after (.shfl 2 3 4 2) (two [10, 11, 12, 13] [1, 1, 1, 1])) 2 0 = 11 ∧ lane (after (.shfl 2 3 4 2) (two [10, 11, 12, 13] [1, 1, 1, 1])) 2 3 = 13 := by
  decide +kernel
/-- R161, R163: ANDN of masks, the lowest set bit, and a count of lower lanes. -/
theorem test_masks : storeGet (me (after (.kop 1 2 3 3) (withG { tG with k := [(2, 0xE), (3, 0x6)] }))).k 1 = 0x8 ∧
    lane (after (.kcnt 2 2 1) (withG { tG with k := [(2, 0xC)] })) 2 0 = 2 ∧ lane (after (.kcnt 2 2 4) (withG { tG with k := [(2, 0xD)] })) 2 3 = 2 := by decide +kernel
/-- R133: a branch that is taken, one that is not, CALL's link in s15, and a misaligned jump that traps ALN and wedges a group without handlers. -/
theorem test_branch : (me (after (.brany 1 0 3) (withG { tG with k := [(1, 8)] }))).pc = 0x2000C ∧ (me (after (.brany 1 0 3) tS)).pc = 0x20004 ∧
    scal (after (.call 0 0x7FFFF) tS) 15 = 0x20004 ∧ (me (after (.jmpr 112 96) (withS [(0, 2)]))).wedged = true := by decide +kernel
/-- R284, R287: SYSC with EVAL 0x01C00000 of the specification's example enters the S handler. -/
theorem test_sysc :
    let s : State := { withG uG with parts := [(3, { tS.part 3 with stvec := 0x30001 })] }
    let g := me (after (.sysc 112 0) s)
    g.mode = .s ∧ g.pc = 0x30000 ∧ g.st.eval = 0x01C00000 ∧ g.st.cause = 0x09 ∧ g.st.epc = 0x20004 ∧ g.st.held = true := by decide +kernel
/-- R289: RTE restores mode, PC and EM from the S set. -/
theorem test_rte :
    let g := me (after .rte (withG { tG with st := { tG.st with held := true, epc := 0x40002, eem := 3, edone := 1 } }))
    g.mode = .u ∧ g.pc = 0x40000 ∧ g.em = 3 ∧ g.dm = 1 ∧ g.st.held = false := by decide +kernel
/-- R280: a write of WB that fits, and FPSTAT, which is cleared by ones. -/
theorem test_csr : (me (after (.csrw 112 4 96) (withS [(0, 32)]))).wb = 32 ∧
    (me (after (.csrw 112 9 96) (withG { tG with fpstat := 0x1F, s := [(0, 3)] }))).fpstat = 0x1C ∧
    scal (after (.csrr 97 6) (withG { tG with rbase := 2 })) 1 = 0x84 := by decide +kernel
/-- R71: a store of a halfword and its sign-extending load. -/
theorem test_memory :
    let s := after (.st 4 3 0 2 0) (withReg mS 4 [0x8001])
    memByte s 0 0x40001 = 0x80 ∧ memByte s 0 0x40002 = 0 ∧ lane (late (.ld 2 3 0 3 0 0) { s with groups := [(256, mG)] }) 2 0 = 0xFFFF8001 := by decide +kernel
/-- R271: FETCH-ADD gives the old value and stores the sum; a failed compare stores nothing. -/
theorem test_atomic : memByte (after (.atadd 2 3 4 0 0) (withReg mS 4 [5])) 0 0x40000 = 5 ∧
    memByte (after (.atcas 2 3 4 0 0) (withReg (withReg mS 4 [5]) 2 [1])) 0 0x40000 = 0 ∧
    memByte (after (.atcas 2 3 4 0 0) (withReg (withReg mS 4 [5]) 2 [0])) 0 0x40000 = 5 := by decide +kernel
/-- R96, R102: a store to the scratchpad of core 8, and its load. -/
theorem test_scratch : memByte (after (.sts 4 3 0 4 0) (two [0x40] [0xAABBCCDD])) 1 (8 * 0x100000 + 0x41) = 0xCC := by decide +kernel
/-- R104 to R109: SPOP takes the FULL slot at CH, whose state becomes TAKEN; SREL.FREE frees it. -/
theorem test_ring :
    let s := after (.spop 2 3) rS
    let t := { withReg s 4 [0] with groups := [(256, tG)] }
    lane s 2 0 = 0x100 ∧ slotSt (ringOf ((s.team? 256).getD tT) 3) 0 = 3 ∧ (ringOf ((s.team? 256).getD tT) 3).ch = 1 ∧
    slotSt (ringOf (((after (.srelFree 2 3 4) t).team? 256).getD tT) 3) 0 = 0 := by decide +kernel
/-- R263: KREL adds one to the generation and reads it. -/
theorem test_keys : lane (after (.krel 2 112 7) kS) 2 0 = 42 ∧ ((after (.krel 2 112 7) kS).key 7).gen = 42 ∧ lane (after (.kacq 2 112 7) kS) 2 0 = 41 := by decide +kernel
/-- R266: FENCE.PUBB inverts the pair once although four lanes name it. -/
theorem test_publish : (after (.fencePubb 3 31 0) pS).pairs = [⟨3, 0, 30, 0, true⟩] := by decide +kernel
/-- R276: the last member passes and reads the new phase. -/
theorem test_barrier : lane (after (.bar 2 0 2) bS) 2 0 = 1 ∧ (me (after (.bar 2 0 2) bS)).pc = 0x20004 := by decide +kernel
/-- R232: an event lowered by two, and its value. -/
theorem test_event : storeGet (after (.evsig 2 3 4) (eS 0x00280000 2)).events 0 = 3 ∧ lane (after (.evsigRd 2 3) (eS 0x00280000 0)) 2 0 = 5 := by decide +kernel
/-- R231: MBRD takes a record into four scalars. -/
theorem test_mailbox : scal (after (.mbrd 1) xS) 4 = 0x4444333322221111 ∧ (me (after (.mbrd 1) xS)).job = true ∧ ((after (.mbrd 1) xS).core 8).mailbox = [] := by decide +kernel
/-- R74, R83: a copy moves its bytes. -/
theorem test_copy : memByte (after (.copyComplete 8 7) { cS { cK with logWait := [] } with hbm := tTables ++ [(0x40005, 9)] }) 0 0x48005 = 9 := by decide +kernel
/-- R171, R172: one INT8 step of two rows, 2 × 3 eight times. -/
theorem test_matrix :
    let fill := fun (t v : Nat) => (List.range 16).map fun i => (0x20000000 + 4 * 0x100000 + t * 16384 + i / 8 * 128 + i % 8, BitVec.ofNat 8 v)
    let s := { qS2 [.step 0 1 2 true false ⟨6, 1, 7⟩ ⟨6, 1, 7⟩ Tctl.reset] with win := fill 1 2 ++ fill 2 3 }
    leNat (bytesAt (after (.matrixCommandExecute 4) s) 1 (0x30000000 + 4 * 0x100000 + 512 + 4) 4) = 48 := by decide +kernel
/-- R188: the router of tag 0x123 of partition 2. -/
theorem test_router : routerOf 2 0x123 = 37 := by decide
/-- R219: the operator NOP moves its stream; a must-be-zero bit ends it with 0x41. -/
theorem test_operator : (findStream (after (.operatorNop oF) (dS oSt)) 3 0).map (·.seq) = some 1 ∧
    (findStream (after (.operatorNop { oF with mbz := 1 }) (dS oSt)) 3 0).map (·.error) = some 0x41 := by decide +kernel
/-- R217 to R219: a GEMM of 5 × 4 with K of 4, in tiles of 4 × 4 × 3, makes four jobs, k fastest. -/
theorem test_gemm : (match readShape (dS oSt) 3 1 { oF with cls := 1 } with
    | .ok h => opJobs { h with rows := 5, tk := 3 }
    | .error _ => []) = [(0, 0, 0), (0, 0, 1), (1, 0, 0), (1, 0, 1)] := by decide +kernel
/-- R242: NOP moves the queue by its one word; an unknown type stops it with code 1. -/
theorem test_queue : ((after (.packetNop (qP 0 0 [])) (yS qQ)).queue 9).rptr = 1 ∧ ((after (.packetReserved (qP 11 0 [])) (yS qQ)).queue 9).code = 1 := by decide +kernel
/-- R212, R213: a launch starts its group at the record's entry. -/
theorem test_launch : ((after (.tlaunch 0x30000) nS).team? 257).map (·.groups) = some [257] ∧ ((after (.tlaunch 0x30000) nS).group? 257).map (·.pc) = some 0x20000 := by
  decide +kernel
/-- R289: the last group's STOP ends the team. -/
theorem test_stop : (after .stop tS).groups = [] ∧ (after .stop tS).teams = [] := by decide +kernel
/-- R316: the object of two words is published and the window moves by two units of 256 bytes; s3 takes its address. -/
theorem test_publ : scal (after (.publ 99 96 97) wS) 3 = 0x10040 ∧ ((after (.publ 99 96 97) wS).part 3).pubNext = 1 := by decide +kernel
/-- SHAKE256 of the empty string (FIPS 202), by which 11 Table 6 and 14 Table 9 seal. -/
theorem test_shake : shake256 [] 4 = [0x46, 0xB9, 0xDD, 0x2B] := by decide +kernel
/-- R41: after reset with a word placed, the next step runs it. -/
theorem test_step : (match step (State.reset.withFetchWord 32 0x4C142801) with
    | .next t => cellGet t (regCell 0 (fetchGroup 0x4C142801) 5 15)
    | _ => 0) = 1 := by decide +kernel

/-! Further hypotheses of the statements that a state meets. -/

/-- R36, R37: a group whose oldest window has closed before it issues, and one whose windows stay open over a NOP. -/
theorem witness_windows :
    let o : Outstanding := ⟨2, 0, [5], [(5, 0, 7), (5, 1, 8)], [(3, 9)], [(5, 1)], none⟩
    let g := { tG with out := [⟨1, 3, [5], [(5, 0, 1)], [], [], none⟩] ++ o :: [] }
    (withG g).group? 256 = some g ∧ o.left = 0 ∧ (∀ w ∈ [(⟨1, 3, [5], [(5, 0, 1)], [], [], none⟩ : Outstanding)] ++ [], w.left ≠ 0) ∧
    o.svals.Pairwise (fun e f => e.1 ≠ f.1) ∧ (o.vals ≠ [] ∨ o.svals ≠ []) ∧
    (∀ w ∈ ({ tG with out := [⟨1, 3, [5], [(5, 0, 1)], [], [], none⟩] } : Group).out, w.left ≠ 0) ∧
    checkIssue (withG { tG with out := [⟨1, 3, [5], [(5, 0, 1)], [], [], none⟩] }) 256 { tG with out := [⟨1, 3, [5], [(5, 0, 1)], [], [], none⟩] } .nop = none := by
  decide +kernel
/-- Table 13: values within each bound, 0.5, 1.5, 3, 2^20 and 2^21, and the fixed-point value of 2^0.5 within its range. -/
theorem witness_bounds : decodeF fp32 0x3F000000 = .fin false 8388608 (-24) ∧ (∀ k : Int, (decodeF fp32 0x3F000000).rat ≠ k) ∧
    (exp2Val false 8388608 (-24)).mag ≤ (2 : Rat) ^ (128 : Nat) - (2 : Rat) ^ (104 : Nat) ∧
    (1 / 2 ≤ (decodeF fp32 0x3FC00000).rat ∧ (decodeF fp32 0x3FC00000).rat < 2) ∧ 2 ≤ (decodeF fp32 0x40400000).rat ∧
    (log2Val 12582912 (-23)).mag ≤ 4 ∧ (decodeF fp32 0x49800000).mag ≤ (2 : Rat) ^ (20 : Nat) ∧ (2 : Rat) ^ (20 : Nat) < (decodeF fp32 0x4A000000).mag ∧
    (decodeF fp32 0x3F000000).mag < 9 := by
  refine ⟨by decide +kernel, fun k h => ?_, by decide +kernel⟩
  have h1 : (decodeF fp32 0x3F000000).rat.den = 2 := by decide +kernel
  have h2 : (k : Rat).den = 1 := rfl
  rw [h, h2] at h1
  exact absurd h1 (by decide)
/-- R42, R55: a role that an instruction is barred from, a refused base alone and after a register beyond the view, a PREF beyond it, a check behind a closed
window, an ECC that waits, and a register whose word is uncorrectable. -/
theorem witness_checks_more : checkIssue tS 256 cG (.fadd 2 3 4 0) = some (.role, (wordOf (.fadd 2 3 4 0)).setWidth 64) ∧
    winFail tG Pre.none (.winb 112 40) = none ∧ baseFail tS 256 tG (.winb 112 40) = some 40 ∧
    winFail tG Pre.none (.csrw 112 4 96) = none ∧ (Instr.csrw 112 4 96).legal 3 Pre.none = true ∧ (baseFail (withS [(0, 40)]) 256 { tG with s := [(0, 40)] } (.csrw 112 4 96)).isSome = true ∧
    checkIssue tS 256 { tG with wb := 64 } (.prefL1 64 0 0) = none ∧
    (let s := withG { tG with wb := 64, out := [⟨1, 0, [5], [], [], [], none⟩] }
     (closeWindows s 256).group? 256 = some { tG with wb := 64 } ∧ checkIssue (closeWindows s 256) 256 { tG with wb := 64 } (.iadd 2 64 3 0) = some (.win, 128)) ∧
    (let g := { tG with eccNow := [⟨1, 0x40000⟩] }
     (withG g).group? 256 = some g ∧ g.out = [] ∧ g.eccNow = ⟨1, 0x40000⟩ :: []) ∧
    (let s := { tS with poison := [cellUnit (regCell 256 tG 3 1)] }
     checkIssue s 256 tG (.mov 2 3 0) = none ∧ 1 ∈ tG.pending ∧ cellBad s (regCell 256 tG 3 1) = true) := by decide +kernel
/-- R272: a group of another slot that sleeps on the line that the group that issues stores to, which a FENCE.PUBB of it names too, and on another line. -/
theorem witness_sleepers :
    let s : State := { pS with groups := [(256, mG), (257, { tG with wait := .line [(0, 4096)] false none none }), (258, { tG with wait := .line [(2, 9)] false (some 7) none })] }
    Issues s mG (.st 4 3 0 4 0) ∧ Reaches { mS with groups := s.groups } mG .store mG.pending (addrOf mS mG 0 3 0) 4 mPh ∧ Issues s mG (.fencePubb 3 31 0) ∧
    mG.active ≠ [] ∧ (mG.active.all fun l => (pubbPair s 256 mG (addrOf s mG 0 3 0 l)).toBool) = true ∧
    (∃ l ∈ mG.pending, ∃ i < 4, (normKind (mPh l).kind, ((mPh l).off + i) / 64) ∈ [(0, 4096)]) ∧
    (¬ ∃ i < 4, (normKind 0, (0x50000 + i) / 64) ∈ [(0, 4096)]) := by
  exact ⟨issues_of (by decide +kernel), reaches_of (by decide +kernel), issues_of (by decide +kernel), by decide +kernel⟩
/-- R106: a release to the ring of a running EMIT job, by a vector group of its team. -/
theorem witness_emit :
    let s : State := { jS [.job jOf] with
      groups := [(256, tG), (8196, { qB with ab := [(3, 40#80 <<< 64)] })], cur := 256, teams := [(256, { jT with groups := [256, 8196] })] }
    Issues s tG (.srel 2 3 4) ∧ emitRing s (.live 256) 3 = true ∧ (ringOf jT 3).en = true ∧ tG.lowest = some 0 :=
  ⟨issues_of (by decide +kernel), by decide +kernel⟩
/-- 15 R328: whatever signature the key verifies, with the hash of the key in the fuse the start is good; a start with another hash is not. -/
theorem witness_boot :
    let key : List Byte := List.replicate 64 7
    (∀ img sg, slhVerify key (Config.signedMessage key 3 img) sg = true → ∃ b : BootInput, b.failAt = 0 ∧ b.fusedVersion ≤ b.version ∧
      leNat (shake256 b.key 32) = b.fusedHash.toNat ∧ slhVerify b.key (Config.signedMessage b.key b.version b.image) b.signature = true) ∧
    leNat (shake256 key 32) ≠ 0 := by
  intro key
  have hk : leNat (shake256 key 32) = (BitVec.ofNat 256 (leNat (shake256 key 32))).toNat := by decide +kernel
  exact ⟨fun img sg h => ⟨⟨0, true, 0, img, key, 3, sg, BitVec.ofNat 256 (leNat (shake256 key 32)), 2⟩, rfl, (by decide : 2 ≤ 3), hk, h⟩,
    by decide +kernel⟩
/-- FIPS 205: the digits of base_2b, and the three checksum digits of a message of zeros, 64 × 15 = 0x3C0. -/
theorem test_slh_digits : slhDigits [0x12, 0xB4] 4 4 = [1, 2, 11, 4] ∧ slhDigits [0xFF, 0xFE, 0x00] 14 1 = [0x3FFF] ∧
    (slhWotsDigits (List.replicate 32 0)).drop 64 = [3, 12, 0] := by decide +kernel
/-- 15 R320, R327: the pool whose link is down, device memory at 540 GiB in ECC mode 1, and a DEVMODE write of 4 bytes. -/
theorem witness_edges : (let s := { oS with poolSz := 1, cxlUp := false }
      (0x20000000000 : Nat) = 0x20000000000 + 0 ∧ 0 + 4 ≤ poolSize s ∧ s.cxlUp = false) ∧
    (let s := { State.reset with eccMode := 1 }
     hbmSize s = 540 * 2 ^ 30 ∧ 540 * 2 ^ 30 + 4 ≤ 576 * 2 ^ 30) ∧ (leBytes 4 7).length = 4 := by decide +kernel
/-- R232, R326: a signal from a partition that has no binding, named by one partition and by none, and one of a bound partition that names nothing. -/
theorem witness_signals : boundPart oS 9 8 = none ∧ oS.live.getLsbD 3 = true ∧ evtNamed (oS.part 3) 31 = true ∧
    (∀ j < 3, oS.live.getLsbD j = true → evtNamed (oS.part j) 31 = false ∧ evtPool (oS.part j) 31 = false) ∧
    (∀ q < 64, oS.live.getLsbD q = true → evtNamed (oS.part q) 70 = false ∧ evtPool (oS.part q) 70 = false) ∧ boundPart oS 9 7 = some 3 ∧
    evtNamed (oS.part 3) 70 = false := by decide +kernel
/-- R226: a ready record of an operator with a hint, and one that was held for it beside an earlier job of another point. -/
theorem witness_hints :
    let o : OpRec := ⟨4, none, 2, 1, false, [], false, false, false⟩
    let st : Stream := { (⟨0, 5, 0, 0, false, [], 5, none, [], none, [], false, 0⟩ : Stream) with ops := [o] }
    let p : Partition := { tS.part 3 with streams := [st] }
    let r : ReadyRec := ⟨0, 0, some (0, 4, 0, 0, 0)⟩
    opOfReady p r = some o ∧ o.started = false ∧ o.hint ≠ 0 ∧ o.hint ≠ p.point ∧ heldPoint p r = true ∧ heldPoint { p with point := 2 } r = false := by
  decide +kernel
/-- R194, R189: operands without an uncorrectable byte and with one, and a round that a lapse of time leaves in FILL. -/
theorem witness_operands : (refClean gS (.live 256) 0 32).2 = none ∧ scratchGap tT tT.core 0 32 = false ∧
    ((refClean { gS with poison := [(1, 0x100000)] } (.live 256) 0 32).2).isSome = true ∧
    (let s := elapse gS 9000 25 false
     s.live.getLsbD 3 = true ∧ (tabGet (s.part 3).tags 1).map (·.st) = some .fill) := by decide +kernel
/-- R201 to R205: firings that are idle, due later, with a pair in flight and after their last pair; an arrival of a bound partition, with a slot free and none. -/
theorem witness_firings_more :
    (let f : Firing := ⟨0, ttE, .s, 2, false, 5, false⟩
     f.halted = false ∧ f.flying = false ∧ ttU ttE 4 2 * ttU ttE 3 1 ≤ f.next ∧ 1 < ttU ttE 4 2 * ttU ttE 3 1 ∧ (fS f).time < f.due ∧ f.due ≤ 5) ∧
    (let s := { fS ⟨0, ttE, .s, 1, true, 0, false⟩ with hbm := oS.hbm, pbEn := true, pbBase := 0x20000 }
     boundPart s 9 7 = some 3 ∧ boundPart s 9 1 = none ∧ (1 < 2 ^ (s.part 3).landLog.toNat ∧ 1 ∉ (s.part 3).landUsed ∧ ¬ (0 ∉ (s.part 3).landUsed))) := by decide +kernel
/-- R265: a piece of a shadowed page, both of whose pages are known. -/
theorem witness_pieces :
    let p : Piece := ⟨0, 0, 8, 0x280000000000040000, some (0, 0x40000), some (0, 30, 0), false, some (0, 0x40040000), 3, 0⟩
    p.phys = some (0, 0x40000) ∧ findPair pS p.part 0 30 0 = some ⟨3, 0, 30, 0, false⟩ ∧ p.other = some (0, 0x40040000) ∧
    pieceAt pS p true = some (0, 0x40040000) ∧ pieceAt pS p false = some (0, 0x40000) := by decide +kernel
/-- R182 to R185: a walker that claims and fills, that has claimed, that has no permit; a job that is cancelled before its first step and in one. -/
theorem witness_walkers : ringSrcs jC = [0] ∧ jOf.recsDone = 0 ∧ jOf.claim = none ∧ 0 < jOf.permits ∧ jOf.written < cardT jC ∧
    (claimSlot (jS [.job jOf]) 8 0).isSome = true ∧ (claimSlot { jS [.job jOf] with hbm := [] } 8 0).isNone = true ∧
    teamOfUid (jS []) 0 = some (256, jT) ∧ (jS []).team? 256 = some jT ∧
    (let j := { jOf with ending := some 6, inStep := true, next := 0, staged := (1, 0, 0) }
     j.ending = some 6 ∧ j.inStep = true ∧ slotsFreed { j with next := 1, inStep := false } = true) ∧
    (slotsFreed { jOf with ending := some 6, inStep := jobStarted jOf } = true ∧ jobStarted jOf = false ∧ jobStarted { jOf with staged := (1, 0, 0) } = true) := by
  decide +kernel
/-- R83, R84: a queue whose slot is ready and has the turn, one that waits its turn, records with room while no queue is ready; headers that can and cannot be read. -/
theorem witness_turns :
    (let s := cS { cK with xq := [(1, { CopyQueue.reset with en := true, base := 0x50000, part := 3, logn := 4 })] }
     queueHead s 8 1 = some 0 ∧ queueTurn s 8 1 = true ∧ turnAhead s 8 2 = [] ∧ turnAhead s 8 0 = [2] ∧ hasRoom s 8 = true ∧ cK.served < 9) ∧
    ((∀ q < 8, queueHead (cS Core.reset) 8 q = none) ∧ (∀ q < 9, sourceReady (cS Core.reset) 8 q = false) ∧ inFlight Core.reset + 4 ≤ 256) ∧
    CopyQueue.reset.synced = false ∧ CopyQueue.reset.halted = [] ∧ (unitRead (cS cK) 3 false .s (mkVa 5 0 0x50008) 8).toBool = true ∧
    (unitRead (cS cK) 3 false .s (mkVa 5 0 0x40000008) 8).toBool = false ∧ (cK.copies.any fun c => c.source == 3) = false ∧ Core.reset.resumed = [] := by decide +kernel
/-- R217: streams whose SIGs wait for what is not complete. -/
theorem witness_settled : (∀ x ∈ ((dS oSt).part 3).streams, (x.id = 0 → x = oSt) ∧ sigDue x = none) ∧ (∀ q ∈ oSt.ops, q.seq < oSt.seq) ∧
    (let st : Stream := { oSt with seq := 1, ops := [⟨0, none, 0, 1, false, [], false, false, false⟩] }
     ¬ ((∀ q ∈ st.ops, q.complete = true) ∧ st.waits = []) ∧ (∀ x ∈ ((dS st).part 3).streams, (x.id = 0 → x = st) ∧ sigDue x = none)) := by decide +kernel
/-- R245, R246, R248: a loop whose body ends past 2^64, a queue that closes behind an FFENCE, a WAIT that is due, a NOPWRAP under a skip, an EVZ of an event that is
named and of one that is not. -/
theorem witness_packets_more :
    (let z : Queue := { qQ with rptr := 2, levels := [{ ringLevel with loop := some (2 ^ 64 - 6, 2, 3) }] }
     curLoop z = some (2 ^ 64 - 6, 2, 3) ∧ curPos z = 2 ∧ (2 + 2 ^ 64 - curPos { z with rptr := BitVec.ofNat 64 (2 ^ 64 - 6) }) % 2 ^ 64 = 8) ∧
    ({ qQ with en := false, closing := true, wait := .drain } : Queue).closing = true ∧
    (let q : Queue := { qQ with wait := .cond (some 0), packet := some (qP 3 4 [0x40000, 0, 0x28, 1, 0, 0xFF, 0, 0]) }
     q.wait = .cond (some 0) ∧ 0 ≤ (yS q).time ∧ boundary (yS q) 9 = none) ∧
    curSkip { qQ with levels := [{ ringLevel with skip := 2 }] } ≠ 0 ∧ goodP (qP 1 0 []) = true ∧
    handleDev 0x00280000 = (yS qQ).devNum.toNat ∧ handleCls 0x00280000 < 4 ∧ evtNamed ((yS qQ).part 3) 70 = false ∧ evtNamed ((yS qQ).part 3) 2 = true ∧
    BitVec.extractLsb' 0 3 (qP 3 4 []).flags = 4#3 := by decide +kernel
/-- R303, R304: the turn of a queue that is idle, that has a packet, that closes, that waits, whose packet is kept; a thread that may overrun; threads with and
without a rival. -/
theorem witness_queue_turns :
    (let s := { yS { qQ with budget := 1 } with agenda := [.queue 9], lpddr := [] }
     s.inReset = false ∧ (s.group? s.cur).map (fun x => x.preStart.isSome) = some false ∧ boundary s 9 = none ∧ threadReady s 9 = true ∧ mayPick s 9 = true ∧
     (fetchPacket s 9).isSome = true) ∧
    (let y : Queue := { qQ with budget := 1, used := 256 }
     (yS y).edf = true ∧ y.en = true ∧ y.stop = false ∧ y.period ≠ 0 ∧ y.throt = false ∧ y.budget.toNat * 256 ≤ y.used ∧ mayPick (yS y) 9 = false) ∧
    (let s := { yS { qQ with budget := 1 } with queues := [(9, { qQ with budget := 1 }), (10, { qQ with period := 0 }), (40, qQ)] }
     mayPick s 10 = false ∧ mayPick s 9 = true ∧ threadReady s 9 = true) ∧
    (let s := yS { qQ with wait := .report, packet := some (qP 10 0 [7]), budget := 1 }
     boundary s 9 = none ∧ threadReady s 9 = true ∧ mayPick s 9 = true) ∧
    boundary (yS { qQ with closing := true, en := false }) 9 ≠ none ∧ (yS { qQ with en := false }).queue 9 ≠ qQ := by decide +kernel
/-- R291 to R297: stops that race an instruction, a matrix team whose engine stops, an image that can be read whole and one that cannot. -/
theorem witness_saves : tG.wait = .none ∧ tG.stopping = false ∧ ({ tG with stopping := true, raced := true } : Group).raced = true ∧
    (stopEngine (jS []) { jT with groups := [8196] }).groups = (jS []).groups ∧ (reserveHere tS tT none).map (fun r => (r.uid, r.core, r.slots)) = [(0, 8, [0])] ∧
    readHeader hS2 3 0x60000 = some (1, 3, 64) ∧ (piecesOf (mkVa 5 0 0x60000) (min 64 (2 ^ 22))).all (fun e => (readPiece hS2 3 false .h e.1 1).toBool) = true ∧
    readHeader { hS2 with hbm := hS2.hbm ++ [(0x3FFFFFC0, 0), (0x3FFFFFC1, 1), (0x3FFFFFC8, 1), (0x3FFFFFCD, 3)] } 3 0x3FFFFFC0 = some (1, 3, 256) ∧
    readImage { hS2 with hbm := hS2.hbm ++ [(0x3FFFFFC0, 0), (0x3FFFFFC1, 1), (0x3FFFFFC8, 1), (0x3FFFFFCD, 3)] } 3 0x3FFFFFC0 = none := by decide +kernel
/-- R301, R302: a team of a vacate between jobs, one in a job past its deadline, teams whose groups have stopped for their save, and the room of a hard stop. -/
theorem witness_vacates :
    (let w : Vacate := ⟨3, 8, 8, 10, 0, 1000, 0x70000, some 0x60000⟩
     let d : Drain := ⟨0, 1000, true⟩
     let s := { tS with vacate := some w, teams := [(256, { tT with drain := some d })], cores := [(8, { Core.reset with slmap := 0x83 }), (10, { Core.reset with slmap := 0x83 })] }
     teamOn s 8 0 = some 256 ∧ ({ tT with drain := some d } : Team).saving = none ∧ tT.groups.all (fun id => !((s.group? id).map (·.job)).getD false) = true ∧
     w.deadline ≤ ({ s with time := 1000 } : State).time ∧ coreFree s 10 3 = true ∧ (findRoom s 10 tT [(0, tG)] none).isSome = true ∧
     coreFree s 8 3 = false ∧ (hardRoom s w tT).map (·.core) = [10] ∧ (hardRoom s { w with rcore := 300 } tT).map (·.core) = [8] ∧
     saveReady { s with groups := [(256, { tG with stopped := true })] } { tT with saving := some true } = true) ∧
    (drainOf { tT with drain := some ⟨0, 1000, true⟩ }).map (·.halfDone) = some true := by decide +kernel
/-- R319: a tile table entry of two peers and an object that is sealed are there to be read, whatever seals it; answers that leave a peer waiting and none. -/
theorem witness_casts : (let s := { wS with parts := [(3, { wS.part 3 with ttEn := true, ttLog := 4, ttBase := 0x30000, pubNext := 1, castState := 0 })] }
     (tableRead s 3 (0x30000 + 64 * 1) 64).isSome = true ∧ (unitRead s 3 false .s (mkVa 5 4 0x10000) 64).toBool = true ∧ 0 < (s.part 3).pubNext.toNat * 256 ∧
     (s.part 3).castState ≠ 1) ∧ [4, 9].erase 4 ≠ ([] : List Nat) := by decide +kernel
/-- R214, R295, R314: two groups that are ready in a clock, in S and in U mode, one that is not, a halt, a stop and a DRAIN that are due; a word with bits that
its generation ignores; the turns of a sequencer, a stream and a unit. -/
theorem witness_clocks :
    (let g1 : Group := { tG with uid := 2, readySince := 3 }
     let s := { tS with cores := [(8, { Core.reset with clk0 := 9 })], groups := [(256, { uG with readySince := 0 }), (258, g1), (260, { tG with uid := 4, wait := .mailbox, yieldUntil := 99 })] }
     let l := pipeGroups s 8 0
     l.length = 3 ∧ isReady s 256 { uG with readySince := 0 } = true ∧ isReady s 258 g1 = true ∧
     (pickFirst 9 (l.filter fun e => isReady s e.1 e.2)).map (·.1) = some 258 ∧ (l.all fun e => !haltDue e.2 && !e.2.stopping && (drainDue s e).isNone) = true ∧
     (readyTimes s 9 l).groups.length = 3) ∧
    haltDue { tG with dbg := { tG.dbg with haltReq := true } } = true ∧ stopHeld { tG with stopping := true } = false ∧
    (drainDue { tS with teams := [(256, { tT with drain := some ⟨0, 1000, true⟩ })] } (256, { uG with job := true })).isSome = true ∧
    (legacyWord 2 (wordOf (.st 4 3 0 4 0) ||| 8) ≠ wordOf (.st 4 3 0 4 0) ||| 8 ∧ (decodeWord (legacyWord 2 (wordOf (.st 4 3 0 4 0) ||| 8))).isSome = true) ∧
    findStream (dS oSt) 3 0 = some oSt ∧ ((unitRead (dS oSt) 3 false .s 0x280000000000030000 16).toBool = true ∧ (dS oSt).isLive 3 = true) := by decide +kernel

/-- R278, R277: a BAR that waits with PASS set while its LIT count no longer holds; a saved team whose last bytes arrive, and one that awaits more. -/
theorem witness_barriers_more :
    (let g := { tG with pass := 4, wait := .barrier 2, preLit := some 5 }
     let s := { bS with groups := [(256, g)] }
     s.team? 256 = some { tT with tbar := [(2, 1)] } ∧ (memberArr s 2 256).length = 1 ∧ g.pass.getLsbD 2 = true ∧ (me (after (.bar 2 0 2) s)).pass = 0 ∧
     (me (after (.bar 2 0 2) s)).pc = 0x20004) ∧
    (let im : Image := ⟨0x60000, true, false, none, 3, { tT with tbar := [(2, 1)], pb := [(2, 64)] }, [(0, { tG with arr := 4 })], [], [], none, [], []⟩
     storeGet (imageBytesDone im 2 64).team.ph 2 = 1 ∧ ((imageBytesDone im 2 64).groups.map fun e => (e.2.arr, e.2.pass)) = [(0, 4)] ∧
     storeGet (imageBytesDone im 2 32).team.pb 2 = 32 ∧ (imageBytesDone im 2 32).groups = im.groups) := by decide +kernel
/-- R271: an atomic of a group to a register window goes to its teller, which refuses it. -/
theorem test_atomic_window : (let g := { mG with ab := [(0, 41#80 <<< 64 ||| 0x10000000#80)] }
    (me (after (.atadd 2 3 4 0 0) { mS with groups := [(256, g)] })).atcause) = 8 := by decide +kernel
/-- R303: of two threads without a period the one after that which the processor served last is picked; none is while a timed one is ready. -/
theorem witness_thread_round : (let z : Queue := { qQ with period := 0, owner := 3 }
      let s := { yS z with queues := [(9, z), (12, z)], qserved := [] }
      mayPick s 9 = true ∧ mayPick s 12 = false ∧ mayPick { s with qserved := [(0, 9)] } 9 = false ∧ mayPick { s with qserved := [(0, 9)] } 12 = true ∧
      mayPick { s with edf := false } 12 = false ∧ mayPick { s with queues := [(9, z), (12, { z with period := 10, budget := 1 })] } 9 = false) := by decide +kernel
/-- R248, R304, R246: a HALT of a disabled queue is kept and stops the queue at its first boundary; a spent budget passes no period's end unnoted; a NOP's payload is
not read; a WAIT whose time has come. -/
theorem witness_queues_more :
    (let s := after (.queueHalt 9 0x1000000000000000) (yS Queue.reset)
     (s.queue 9).haltReq = true ∧ (s.queue 9).stop = false ∧ ((boundary (s.modQueue 9 fun x => { x with en := true, levels := [ringLevel] }) 9).map
       fun t => ((t.queue 9).stop, (t.queue 9).haltReq)) = some (true, false)) ∧
    (let y : Queue := { qQ with budget := 1, used := 256 }
     let s := after (.qpPeriodStart 9) { yS y with time := 10000 }
     periodDue { yS y with time := 10000 } y = true ∧ (s.queue 9).ovrf = true ∧ (s.queue 9).throt = false ∧ (s.queue 9).used = 0) ∧
    (let s := { yS qQ with lpddr := [(0x40040, 2)], poison := [(2, 0x40040 / 32 + 1)] }
     headerCode qQ ⟨0, 2, 0, []⟩ = none ∧ (fetchPacket s 9).isSome = true) ∧
    (let y : Queue := { qQ with wait := .cond (some 5), packet := some (qP 3 0x0A [0x40000, 0, 0x28, 1, 0, 0xFF, 0, 0]) }
     let s := elapse (yS y) 9 25 false
     waitExpired { yS y with time := 9 } 9 = true ∧ (s.queue 9).stop = true ∧ (s.queue 9).code = 0x0A) := by decide +kernel
/-- What a check that fails gives. -/
def failOf {α β : Type} : Except α β → Option α
  | .error e => some e
  | .ok _ => none
/-- 03 R54: a fetch of a word in a poisoned sector, and one through a poisoned table entry, report the error. -/
theorem witness_fetch_poison : (let s := State.reset.withFetchWord 32 0x4C142801
    ((fetchWord s 0 (fetchGroup 0x4C142801)).toOption.map (·.2)) = some 0x4C142801 ∧
    failOf (fetchWord { s with poison := [(0, 0x20000 / 32)] } 0 (fetchGroup 0x4C142801)) = some (.ecc, 0x20000) ∧
    failOf (translate { s with poison := [(0, 0x8000 / 32)] } 0 0 false .s .fetch 4 0x20000) = some .ecc) := by decide +kernel
/-- R331: a read of the pool whose link is down is counted on the hub die and recorded; while the link is up it leaves nothing. -/
theorem witness_link : (let s := { oS with poolSz := 1, cxlUp := false }
    linkDown s (mkVa s.devNum.toNat 3 0) = true ∧ storeGet (linkError s 3 64).eccUe 4 = storeGet s.eccUe 4 + 1 ∧ (linkError s 3 64).sbWidx = s.sbWidx + 1 ∧
    (linkError { s with cxlUp := true } 3 64).sbWidx = s.sbWidx) := by decide +kernel
/-- R296, R301: a number that a save with KEEP withholds; a stop for a save that comes due while the team is parked. -/
theorem witness_numbers : numReserved { tS with reserves := reserveHere tS tT (some 5) } 8 5 none = true ∧
    numReserved { tS with reserves := reserveHere tS tT (some 5) } 8 5 (some tT.uid) = false ∧
    (let s := { tS with groups := [(256, { tG with stopping := true, parking := true })] }
     ((stopDue s 256).group? 256).map (fun x => (x.parked, x.stopped, x.due)) = some (true, true, false)) := by decide +kernel

/-- R193: the spec's example, 2^24 with 1 twice, in both assignments; a broadcast gives the contribution of CIDX 0, whatever the order of arrival. -/
theorem test_round : combineElem 0 1 (combineElem 0 1 0x4B800000 0x3F800000) 0x3F800000 = 0x4B800000 ∧
    combineElem 0 1 (combineElem 0 1 0x3F800000 0x3F800000) 0x4B800000 = 0x4B800001 ∧
    (let x : Tag := { tagOf .fwd 7 with desc := BitVec.ofNat 256 (4 + 3 * 65536), chunks := [(2, [2]), (0, [0]), (1, [1])] }
     roundResult x = [0] ∧ ∀ i < tagU x.desc 2 1, x.chunks.find? (fun e => e.1 == i) = some (i, [BitVec.ofNat 8 i])) ∧ opFmtOk 0 1 = true := by decide +kernel
/-- R189, R193, R197: a free of a tag that is FREEING, and a round with an event whose result can be stored. -/
theorem witness_rounds :
    (let s := withReg gS 3 [2]
     Issues s tG (.tagf 2 3) ∧ (a32 s tG 3 0).toNat = 2 ∧ tG.wait = .none ∧ ((tabGet (s.part 3).tags 2).map (·.st)) = some .freeing) ∧
    (let x : Tag := { tagOf .fwd 3 with desc := BitVec.ofNat 256 (4 + 2 * 65536 + 0x280000000000040000 * 2 ^ 32 + 2 * 2 ^ 128), chunks := [(0, [1, 2]), (1, [3])] }
     let s := { gS with parts := [(3, { gS.part 3 with tags := [(3, x)] })] }
     tagU x.desc 16 4 = 2 ∧ (writeResult s 3 3 x).isSome = true ∧ isLocal s (BitVec.ofNat 80 (tagU x.desc 4 10)) = true ∧
     okIs (translate s 384 3 false x.mode .store 0 0x40000) ⟨0, 0x40000, false⟩ = true) :=
  ⟨⟨issues_of (by decide +kernel), by decide +kernel⟩, by decide +kernel⟩
/-- R42, R91: an XCPD that waits for room in the midst of its issue, and an atomic that waits for its answers; the checks that come too late for them. -/
theorem witness_begun :
    let g := { cG with wait := .room [(0, 0)], dbg := { cG.dbg with lavCheck := true } }
    midIssue g = true ∧ (withG g).group? 256 = some g ∧ g.out = [] ∧ midIssue { mG with wait := .atomic [(0, true, 7)] } = true := by decide +kernel
/-- R203, R54: a tile table entry whose sector is uncorrectable, read by a group whose registers are sound. -/
theorem witness_lost_entry : (let s := { fS ⟨0, ttE, .s, 0, false, 0, false⟩ with poison := [(0, 0x30000 / 32)] }
    Issues s tG (.ttrdy 2 3) ∧ (match unitRead s 3 false .s (mkVa 5 0 0x30000) 64 with
      | .ok (_, bad) => bad.isSome
      | .error _ => false) = true) :=
  ⟨⟨⟨by decide +kernel, rfl, rfl, by decide +kernel, fun _ _ _ => rfl⟩, by decide +kernel⟩, by decide +kernel⟩
/-- R3, R57, R173, R176: pieces whose places are the partition's and one whose pinned unit is not; operands of a floating and of a sparse step. -/
theorem witness_places :
    let at_ : Nat × Nat := (0, 0x40000)
    let p : Piece := ⟨0, 0, 8, 0x280000000000040000, some at_, none, false, none, 3, 0⟩
    let out : Piece := { p with phys := some (1, 0x100040000) }
    physOk (qS3 []) 3 false 0 0x40000 = true ∧ p.row < 128 ∧ p.at_ + p.len ≤ 128 ∧ regionOf 0x100040000 = .pinned 0 0 ∧
    physOk lS out.part false 1 0x100040000 = true ∧ physOk { lS with pinned := [(0, 4)] } out.part false 1 0x100040000 = false ∧
    ((4#4 : BitVec 4) ∈ [2, 3, 4, 5]) ∧ (mulV (decodeF e4m3 0x38) (decodeF e5m2 0x3C)).1.finite = true ∧ (1 / 4 ≤ 6 % 4) := by decide +kernel
/-- R293, R296: a group asked to park and to stop, one asked for neither, and one that a stop finds idle. -/
theorem witness_asked : ({ tG with parking := true } : Group).idle = false ∧ stopHeld { tG with wait := .room [] } = true ∧
    tG.parking = false ∧ tG.stopping = false ∧ ({ tG with stopped := true } : Group).idle = true := by decide +kernel
/-- Whether a row of a copy passes every check. -/
def rowGoes (s : State) (r : BitVec 512) : Bool := (copyRow s { cC with record := r } 8 (some (.live 256)) 1).2.2.isNone
/-- R74 to R76, R79, R89: rows of a 2-D copy, a fill, a gather, a conversion, a scratchpad source and destination; a source that fails, is uncorrectable,
and a destination that fails. -/
theorem witness_rows :
    let d2 := recSet (recSet (recSet (recSet (recSet cR 0 1 1) 28 4 8) 32 2 2) 36 4 64) 44 4 64
    let fill := recSet cR 0 1 3
    let gather := recSet (recSet (recSet cR 0 1 4) 28 4 8) 34 2 1
    (([d2, recSet fill 28 4 8, gather, recSet (recSet (recSet d2 4 1 1) 5 1 2) 28 4 2, recSet (recSet d2 1 1 1) 8 10 128, recSet (recSet d2 1 1 2) 18 10 128].map
      fun r => (recBad r false, rowGoes (cS cK) r)) = List.replicate 6 (false, true)) ∧
    rowGoes (cS cK) (recSet d2 8 10 0x280000000040000000) = false ∧ rowGoes (cS cK) (recSet d2 18 10 0x280000000040000000) = false ∧
    (refClean (cS cK) (.live 256) 0 4).2 = none ∧ refGap (cS cK) (.live 256) 0 4 = false ∧ copyRef (cS cK) { cC with teamUid := some 0 } = some (.live 256) := by decide +kernel
/-- R78, R79: a home in the scratchpad, in the slot of a queue and one that cannot be written; a ring whose slot a completion fills, one that EMIT holds. -/
theorem witness_homes :
    let c := { cC with teamUid := some 0 }
    let s := cS cK
    (c.held = false ∧ scratchGap tT tT.core ((0 + 56) % 2 ^ 32) 8 = false ∧ s.team? 256 = some tT) ∧
    ((unitWrite s 3 false .s (mkVa s.devNum.toNat 0 (0x50040 + 56)) (leBytes 8 7)).2 = none) ∧
    ((unitWrite s 3 false .s (mkVa s.devNum.toNat 0 (0x40000000 + 56)) (leBytes 8 7)).2.isSome = true) ∧
    (let r := recSet (recSet (recSet cR 2 1 4) 1 1 2) 18 10 0
     let u := { s with teams := [(256, { tT with rings := [(3, { jR with base := 0 })] })] }
     recCkind (recSet r 3 1 3) = 4 ∧ copyRef u c = some (.live 256) ∧ slotSt { jR with base := 0 } 0 ≤ 1 ∧ emitRing u (.live 256) 3 = false) ∧
    (cK.queue 1).ridx = 0 ∧ (cK.queue 1).done = [] ∧ cK.resumed = [] := by decide +kernel
/-- 10 R209 to R211, Table 4: launches that answer NOCORE, BUSY, ROLE and NOROOM, and one of a sequencer's group that is accepted. -/
theorem witness_launch_codes :
    let l := bytesAt nS 0 0x30000 320
    let put := fun (l : List Byte) (i : Nat) (b : Byte) => l.set i b
    let code := fun (s : State) (l : List Byte) => failOf (launchCheck s 3 l)
    let m := put (put (put l 32 3) 33 0) 34 1
    [code nS (put l 2 9), code { nS with teams := [(257, { tT with num := 1 })] } l, code nS (put (put l 32 2) 34 1), code nS (put (put l 4 0) 6 9),
     code nS (put (put l 5 0) 6 8), code nS m, code { nS with groups := [(256, tG), (8196, qG)] } m, code nS l] =
      [some 2, some 4, some 5, some 1, some 3, none, some 5, none] ∧ hasMatrix m = true := by decide +kernel
/-- R220, R221, R227: an operator with two jobs, one of which depends on the other, and one with its last job; an event that a job waits for. -/
theorem witness_dependences :
    let j : TileJob := ⟨0, 0, 0, 0, 0, [], 32, 33, 0, 0, 0, 2⟩
    let w : TileJob := { j with c := 1, deps := [.job 0 0 0 0], depEvt := 34, doneEvt := 35, phase := 0 }
    let st : Stream := { oSt with seq := 1, ops := [⟨0, some 2, 0, 2, false, [], false, true, false⟩] }
    let s (jobs : List TileJob) (st : Stream) : State := { dS st with
      events := [(2, 9), (4, 1), (33, 1), (34, 1), (35, 1)], parts := [(3, { (dS st).part 3 with jobs := jobs, streams := [st] })] }
    let t := decrement (s [j, w] st) 3 33 1
    let last := decrement (s [j] { st with ops := [⟨0, some 2, 0, 1, false, [], false, true, false⟩] }) 3 33 1
    let u := s [{ w with deps := [.event 4] }] st
    ([j, w].map (·.depEvt) ++ [j, w].map (·.doneEvt)).Nodup ∧ (∀ y ∈ [j, w], (storeGet (s [j, w] st).events y.depEvt).toNat = y.deps.length) ∧
    (∀ y ∈ [j, w], evtNamed ((s [j, w] st).part 3) y.depEvt = false ∧ evtNamed ((s [j, w] st).part 3) y.doneEvt = false) ∧
    findStream (s [j, w] st) 3 0 = some st ∧ (t.part 3).jobs = [{ w with deps := [], phase := 1 }] ∧ (t.part 3).ready.length = 1 ∧
    (storeGet last.events 2 = 8 ∧ (last.part 3).jobs = []) ∧
    (evtNamed (u.part 3) 4 = true ∧ storeGet u.events 4 = 1 ∧ (u.part 3).lbEn = false ∧ ((decrement u 3 4 1).part 3).ready.length = 1) ∧
    (storeGet u.events 34).toNat = 1 ∧ (u.part 3).poolUsed = [] := by decide +kernel
/-- R299, R300: a vacate whose last team has gone, with VEVT naming an event, and one that has a team still. -/
theorem witness_vacate_end :
    let w : Vacate := ⟨3, 8, 8, 300, 0, 1000, 0x70000, none⟩
    let s : State := { tS with vacate := some w, vevt := 0x00280010, events := [(2, 9)], teams := [], groups := [], time := 5000 }
    let t := vacateCheck s
    (s.teams = [] ∧ t.vacate = none ∧ t.vState = 2 ∧ t.vElapsed = 5 ∧ storeGet t.events 2 = 8 ∧ (t.core 8).slmap = 0) ∧
    (vacateCheck { s with teams := [(256, tT)] }).vacate = some w ∧ (vacateCheck { s with vevt := 0xFFFFFFFF }).events = s.events := by
  decide +kernel

end Sys2Proof.Tests
end

section
/-! SUPPORT. The laws of a core's own state and of what writes of memory leave alone: one rule for each operation, as the copy engine's registers and
logs need them (04 R84 to R88). -/
namespace Sys2Proof.Laws
open Sys2Proof Sys2Proof.Machine

/-! The core that is changed, and the others. -/

@[simp] theorem core_modCore_same (s : State) (c : Nat) (f : Core → Core) : (s.modCore c f).core c = f (s.core c) := by
  simp [State.core, State.modCore]

theorem core_modCore_other (s : State) {c j : Nat} (f : Core → Core) (h : j ≠ c) : (s.modCore c f).core j = s.core j := by
  simp [State.core, State.modCore, tabGet_tabSet_other _ _ _ _ h]

@[simp] theorem core_modCluster (s : State) (c j : Nat) (f : Cluster → Cluster) : (s.modCluster c f).core j = s.core j := rfl
@[simp] theorem cluster_modCore (s : State) (c j : Nat) (f : Core → Core) : (s.modCore c f).cluster j = s.cluster j := rfl

theorem cluster_modCluster (s : State) (c j : Nat) (f : Cluster → Cluster) :
    (s.modCluster c f).cluster j = if j = c then f (s.cluster c) else s.cluster j := by
  split
  · next h => subst h; simp [State.cluster, State.modCluster]
  · next h => simp [State.cluster, State.modCluster, tabGet_tabSet_other _ _ _ _ h]

/-- A change of a core changes nothing else. -/
theorem oneCore_modCore (s : State) (c : Nat) (f : Core → Core) : OneCore s (s.modCore c f) c (f (s.core c)) :=
  ⟨rfl, core_modCore_same s c f, fun _ h => core_modCore_other s f h⟩

theorem modCore_modCore (s : State) (c : Nat) (f h : Core → Core) : (s.modCore c f).modCore c h = s.modCore c (h ∘ f) := by
  simp [State.modCore, State.core, tabSet_tabSet]

/-! The copy queue that is changed. -/

@[simp] theorem queue_set_same (k : Core) (q : Nat) (x : CopyQueue) : ({ k with xq := tabSet k.xq q x } : Core).queue q = x := by
  simp [Core.queue]

theorem modXq_modXq (s : State) (c q : Nat) (f h : CopyQueue → CopyQueue) : modXq (modXq s c q f) c q h = modXq s c q (h ∘ f) := by
  unfold modXq
  rw [modCore_modCore]
  congr 1
  funext k
  simp [tabSet_tabSet]

@[simp] theorem queue_modXq_same (s : State) (c q : Nat) (f : CopyQueue → CopyQueue) :
    ((modXq s c q f).core c).queue q = f ((s.core c).queue q) := by
  simp [modXq]

/-! What a write of memory may change. -/

/-- Nothing differs but memory, its poison, the sleep of WAITLs, the record of errors and what was sent. -/
def OnlyMemory (s t : State) : Prop :=
  t = { s with hbm := t.hbm, win := t.win, lpddr := t.lpddr, cxl := t.cxl, vregs := t.vregs, accs := t.accs, poison := t.poison,
               groups := t.groups, eccUe := t.eccUe, strongbox := t.strongbox, sbWidx := t.sbWidx, sbDrop := t.sbDrop, sent := t.sent }

theorem OnlyMemory.refl (s : State) : OnlyMemory s s := rfl

theorem OnlyMemory.trans {s t u : State} (h : OnlyMemory s t) (k : OnlyMemory t u) : OnlyMemory s u := by
  unfold OnlyMemory at h k
  exact Eq.trans k (by rw [h])

theorem OnlyMemory.cores {s t : State} (h : OnlyMemory s t) : t.cores = s.cores := by
  unfold OnlyMemory at h
  rw [h]
theorem OnlyMemory.nextCopy {s t : State} (h : OnlyMemory s t) : t.nextCopy = s.nextCopy := by
  unfold OnlyMemory at h
  rw [h]
theorem OnlyMemory.qepoch {s t : State} (h : OnlyMemory s t) : t.qepoch = s.qepoch := by
  unfold OnlyMemory at h
  rw [h]

theorem OnlyMemory.core {s t : State} (h : OnlyMemory s t) (c : Nat) : t.core c = s.core c := by
  unfold State.core
  rw [h.cores]

theorem memSetByte_onlyMemory (s : State) (kind off : Nat) (b : Byte) : OnlyMemory s (memSetByte s kind off b) := by
  unfold memSetByte
  split
  case h_3 => split <;> rfl
  all_goals rfl

theorem storeBytes_onlyMemory (l : List Byte) : ∀ (s : State) (kind off : Nat), OnlyMemory s (storeBytes s kind off l) := by
  induction l with
  | nil => intro s _ _; exact .refl s
  | cons b r ih => intro s kind off; exact (memSetByte_onlyMemory s kind off b).trans (ih ..)

theorem linkError_onlyMemory (s : State) (kind off : Nat) : OnlyMemory s (linkError s kind off) := by
  unfold OnlyMemory
  rw [linkError_frame]

theorem writeMem_onlyMemory (s : State) (kind off : Nat) (l : List Byte) : OnlyMemory s (writeMem s kind off l) := by
  unfold writeMem
  split
  · exact linkError_onlyMemory s kind off
  · refine (storeBytes_onlyMemory l s kind off).trans ?_
    dsimp only
    split <;> rfl

theorem writePiece_onlyMemory {s t : State} {part : Nat} {engine : Bool} {mode : Mode} {va : VAddr} {l : List Byte}
    (h : writePiece s part engine mode va l = .ok t) : OnlyMemory s t := by
  unfold writePiece at h
  split at h
  · split at h
    · cases h
    · cases h; exact writeMem_onlyMemory ..
  · split at h
    · cases h
    · split at h
      · cases h
      · cases h; rfl

/-- A write of a unit, made whole or in part, changes nothing but memory. -/
theorem unitWrite_onlyMemory (s : State) (part : Nat) (engine : Bool) (mode : Mode) (va : VAddr) (l : List Byte) :
    OnlyMemory s (unitWrite s part engine mode va l).1 := by
  unfold unitWrite
  refine List.foldlRecOn (motive := fun (acc : State × Option (Cause × VAddr)) => OnlyMemory s acc.1) _ _ (.refl s) fun acc hacc e _ => ?_
  split
  · exact hacc
  · split
    · next h => exact hacc.trans (writePiece_onlyMemory h)
    · exact hacc

theorem tableWrite_onlyMemory {s t : State} {part off : Nat} {l : List Byte} (h : tableWrite s part off l = some t) : OnlyMemory s t := by
  have hw := unitWrite_onlyMemory s part false .s (mkVa s.devNum.toNat 0 off) l
  unfold tableWrite at h
  split at h
  · next he => cases h; rwa [he] at hw
  · cases h

/-! What a unit reads, and which slot of a queue comes next, where only a core's other fields have changed. -/

theorem unitRead_modCore (s : State) (c : Nat) (f : Core → Core) (part : Nat) (engine : Bool) (mode : Mode) (va : VAddr) (n : Nat) :
    unitRead (s.modCore c f) part engine mode va n = unitRead s part engine mode va n := rfl

theorem xqRead_modCore (s : State) (c : Nat) (f : Core → Core) (part off n : Nat) :
    xqRead (s.modCore c f) part off n = xqRead s part off n := by
  unfold xqRead
  rw [modCore_devNum, unitRead_modCore]

theorem slotReady_modCore (s : State) (c : Nat) (f : Core → Core) (hf : (f (s.core c)).xq = (s.core c).xq) (q w : Nat) :
    slotReady (s.modCore c f) c q w = slotReady s c q w := by
  have hq : ((s.modCore c f).core c).queue q = (s.core c).queue q := by simp [Core.queue, hf]
  unfold slotReady
  simp only [hq, xqRead_modCore]

theorem queueHead_modCore (s : State) (c : Nat) (f : Core → Core) (hf : (f (s.core c)).xq = (s.core c).xq) (q : Nat) :
    queueHead (s.modCore c f) c q = queueHead s c q := by
  have hq : ((s.modCore c f).core c).queue q = (s.core c).queue q := by simp [Core.queue, hf]
  unfold queueHead
  simp only [hq, slotReady_modCore s c f hf]

/-- Where no queue has a slot to take, no source stands before the groups in the engine's round (04 R83). -/
theorem turnAhead_zero_of_no_heads {s : State} {c : Nat} (h : ∀ q < 8, queueHead s c q = none) : turnAhead s c 0 = [] := by
  unfold turnAhead
  rw [List.filter_eq_nil_iff]
  intro src hsrc
  have hne : src ≠ 0 := bne_iff_ne.1 (List.all_eq_true.1 List.all_takeWhile src hsrc)
  have hlt : src < 9 := by
    have hm := (List.takeWhile_subset _) hsrc
    obtain ⟨k, -, rfl⟩ := List.mem_map.1 hm
    exact Nat.mod_lt _ (by decide)
  simp [sourceReady, hne, h (src - 1) (by omega)]

theorem hasRoom_of_no_heads {s : State} {c : Nat} (h : ∀ q < 8, queueHead s c q = none) (hn : inFlight (s.core c) < 256) :
    hasRoom s c = true := by
  simp [hasRoom, turnAhead_zero_of_no_heads h, hn]

theorem oneCore_startCopy (s : State) (core : Nat) (c : Copy) :
    OneCore { s with nextCopy := s.nextCopy + 1 } (startCopy s core c) core { s.core core with
      copies := (s.core core).copies ++ [{ c with id := s.nextCopy, row := firstRow c.record, stamp := s.qepoch }], served := c.source - 1 } := by
  obtain ⟨-, hcore, hother⟩ := oneCore_modCore s core fun x =>
    { x with copies := x.copies ++ [{ c with id := s.nextCopy, row := firstRow c.record, stamp := s.qepoch }], served := c.source - 1 }
  exact ⟨rfl, hcore, hother⟩

theorem startResumed_of_none {s : State} {c : Nat} (h : (s.core c).resumed = []) : startResumed s c = s := by
  unfold startResumed
  rw [h]

theorem startResumed_of_room {s : State} {c : Nat} {k : Copy} {rest : List Copy} (h : (s.core c).resumed = k :: rest)
    (hr : hasRoom s c = true) : startResumed s c = startCopy (s.modCore c fun x => { x with resumed := rest }) c k := by
  unfold startResumed
  rw [h]
  simp only [hr, if_true]

/-- The one copy that XFRES has handed in starts where there is room (04 R88). -/
theorem oneCore_startResumed {s : State} {core : Nat} {f : Core → Core} {c : Copy} (h : (f (s.core core)).resumed = [c])
    (hr : hasRoom (s.modCore core f) core = true) :
    OneCore { s with nextCopy := s.nextCopy + 1 } (startResumed (s.modCore core f) core) core { f (s.core core) with
      resumed := [], served := c.source - 1,
      copies := (f (s.core core)).copies ++ [{ c with id := s.nextCopy, row := firstRow c.record, stamp := s.qepoch }] } := by
  rw [startResumed_of_room (by rw [core_modCore_same]; exact h) hr, modCore_modCore]
  obtain ⟨-, hcore, hother⟩ := oneCore_startCopy (s.modCore core ((fun x => { x with resumed := [] }) ∘ f)) core c
  rw [core_modCore_same] at hcore
  exact ⟨rfl, hcore, fun j hj => (hother j hj).trans (core_modCore_other s _ hj)⟩

/-! An access to a CSR of S mode. -/

theorem csrReach_of_not_u {m : Mode} {n : Nat} (hm : m ≠ .u) (hn : n ≤ 0x3FF) : csrReach m n = true := by
  cases m with
  | u => exact absurd rfl hm
  | s => simpa [csrReach] using hn
  | h => simp only [csrReach, decide_eq_true_eq]; omega

/-- A CSR of S mode that a vector core has acts for the group that accesses it (13 R280). -/
theorem csrUnit_vector {s : State} {g : Group} {n : Nat} (f : State → GroupId → Group → State) (hg : s.group? s.cur = some g)
    (hseq : isSeq s.cur = false) (hm : g.mode ≠ .u) (hn : n ≤ 0x3FF) (ha : csrAssigned false n = true) :
    csrUnit n f s = .next (f s s.cur g) := by
  simp [csrUnit, hg, hseq, ha, csrReach_of_not_u hm hn]

end Sys2Proof.Laws
end

section
/-! The fault log (04 R87), XQCFG (04 R84), XFLOG (04 R87), SRSEED (06 R115) and XFRES (04 R88): what each does in each of its cases. -/
namespace Sys2Proof.Proofs.CopyRegisters
open Sys2Proof Sys2Proof.Machine Sys2Proof.Laws

/-! The fault log. -/

theorem logFull_iff (k : Core) :
    logFull k = true ↔ k.flogEn = false ∨ (k.widx + 65536 - k.xfridx.toNat) % 65536 = 2 ^ k.flogLogn.toNat := by
  simp [logFull]

/-- The two writes that log an entry: its bytes in the place of WIDX, and WIDX plus 1 in the header (04 R87). -/
def logWrite (s : State) (k : Core) (e : LogEntry) : Option State :=
  (tableWrite s k.flogPart (k.flogBase.toNat + 128 + 128 * (k.widx % 2 ^ k.flogLogn.toNat)) (leBytes 128 e.bytes.toNat)).bind
    fun s1 => tableWrite s1 k.flogPart k.flogBase.toNat (leBytes 8 (k.widx + 1))

theorem logWrite_onlyMemory {s t : State} {k : Core} {e : LogEntry} (h : logWrite s k e = some t) : OnlyMemory s t := by
  obtain ⟨s1, h1, h2⟩ := Option.bind_eq_some_iff.1 h
  exact (tableWrite_onlyMemory h1).trans (tableWrite_onlyMemory h2)

/-- The core once the entry is logged: a copy of a group that halted is kept under its index, for XFRES (04 R87, R88). -/
def logged (k : Core) (e : LogEntry) (rest : List LogEntry) : Core :=
  { k with
    logWait := rest, widx := k.widx + 1,
    halted := if e.copy.any (fun c => c.source ≤ 1) then k.halted.filter (fun x => x.entry != k.widx % 65536) ++
      (e.copy.map (Halted.mk (k.widx % 65536))).toList else k.halted }

theorem faultLog_idle {s : State} {core : Nat} (h : (s.core core).logWait = []) : exec (.faultLogEntryWrite core) s = .next s := by
  show execFaultLogEntryWrite core s = _
  unfold execFaultLogEntryWrite
  simp only [h]

section
variable {s : State} {core : Nat} {e : LogEntry} {rest : List LogEntry} (hw : (s.core core).logWait = e :: rest)
include hw

/-- The turn of the fault log while an entry waits. -/
theorem exec_faultLog : exec (.faultLogEntryWrite core) s = .next (if logFull (s.core core) then s
    else (logWrite s (s.core core) e).elim (s.modCore core fun c => { c with flogEn := false, lbad := true })
      fun s1 => startResumed (s1.modCore core fun c => logged c e rest) core) := by
  show execFaultLogEntryWrite core s = _
  unfold execFaultLogEntryWrite
  extract_lets c
  split
  · next h => exact absurd (hw.symm.trans h) (List.cons_ne_nil _ _)
  · next e' rest' h =>
    obtain ⟨rfl, rfl⟩ := List.cons.inj (hw.symm.trans h)
    split
    · rfl
    · split
      · next hl => rw [show logWrite s (s.core core) e = none from hl, Option.elim_none]
      · next s1 hl =>
        rw [show logWrite s (s.core core) e = some s1 from hl, Option.elim_some]
        extract_lets s2
        have hs2 : s2 = s1.modCore core fun c => logged c e rest := by
          refine congrArg (s1.modCore core) (funext fun c => ?_)
          cases hcopy : e.copy <;> simp [logged, hcopy]
        rw [hs2]

theorem faultLog_full (hf : logFull (s.core core) = true) : exec (.faultLogEntryWrite core) s = .next s := by
  rw [exec_faultLog hw, if_pos hf]

theorem faultLog_unwritable (hf : ¬ logFull (s.core core) = true) (hl : logWrite s (s.core core) e = none) :
    exec (.faultLogEntryWrite core) s = .next (s.modCore core fun c => { c with flogEn := false, lbad := true }) := by
  rw [exec_faultLog hw, if_neg hf, hl, Option.elim_none]

theorem faultLog_written (hf : ¬ logFull (s.core core) = true) (hr : (s.core core).resumed = []) {s1 : State}
    (hl : logWrite s (s.core core) e = some s1) :
    exec (.faultLogEntryWrite core) s = .next (s1.modCore core fun c => logged c e rest) := by
  have hc := (logWrite_onlyMemory hl).core core
  rw [exec_faultLog hw, if_neg hf, hl, Option.elim_some,
    startResumed_of_none (show ((s1.modCore core fun c => logged c e rest).core core).resumed = [] by simp [logged, hc, hr])]

end

/-! The rows of the four CSRs act for the group that writes them, on its core (13 R280). -/

theorem exec_xqcfgWrite {s : State} {g : Group} (v : Dword) (hg : s.group? s.cur = some g) (hseq : isSeq s.cur = false) (hm : g.mode ≠ .u) :
    exec (.xqcfgWrite v) s = .next (xqcfgWriteTo v s s.cur g) := csrUnit_vector _ hg hseq hm (by decide) rfl

theorem exec_xflogWrite {s : State} {g : Group} (v : Dword) (hg : s.group? s.cur = some g) (hseq : isSeq s.cur = false) (hm : g.mode ≠ .u) :
    exec (.xflogWrite v) s = .next (xflogWriteTo v s s.cur g) := csrUnit_vector _ hg hseq hm (by decide) rfl

theorem exec_srseedWrite {s : State} {g : Group} (v : Dword) (hg : s.group? s.cur = some g) (hseq : isSeq s.cur = false) (hm : g.mode ≠ .u) :
    exec (.srseedWrite v) s = .next (srseedWriteTo v s s.cur g) := csrUnit_vector _ hg hseq hm (by decide) rfl

theorem exec_xfres {s : State} {g : Group} (v : Dword) (hg : s.group? s.cur = some g) (hseq : isSeq s.cur = false) (hm : g.mode ≠ .u) :
    exec (.xfres v) s = .next (xfresWriteTo v s s.cur g) := csrUnit_vector _ hg hseq hm (by decide) rfl

/-! XQCFG and XFLOG. -/

/-- LOGN of XQCFG and of XFLOG is within its range (04 Table 7, Table 8). -/
def SizeOk (v : Dword) : Prop := 4 ≤ (v.extractLsb' 59 4).toNat ∧ (v.extractLsb' 59 4).toNat ≤ 12

theorem sizeBad_iff (v : Dword) : ((v.extractLsb' 59 4).toNat < 4 ∨ 12 < (v.extractLsb' 59 4).toNat) ↔ ¬ SizeOk v := by
  unfold SizeOk
  omega

/-- A queue of the core as XQCFG sets it, before any read of its header (04 R84, Table 7). -/
def configured (s : State) (core : Nat) (g : Group) (v : Dword) (x : CopyQueue) : CopyQueue :=
  { x with
    en := v.getLsbD 63, logn := v.extractLsb' 59 4, team := v.extractLsb' 54 5, base := v.extractLsb' 6 42 ++ 0#6, part := g.part,
    faulted := x.faulted && !v.getLsbD 63,
    bound := (((teamOn s core (v.extractLsb' 54 5).toNat).bind s.team?).map (·.uid)).orElse fun _ =>
      if x.team = v.extractLsb' 54 5 then x.bound else none }

/-- Whether nothing of queue q is in flight or halted. -/
def queueIdle (k : Core) (q : Nat) : Bool := !(k.copies.any fun c => c.source == 2 + q) && (k.queue q).halted.isEmpty

theorem queueIdle_iff (k : Core) (q : Nat) :
    queueIdle k q = true ↔ (k.queue q).halted = [] ∧ ∀ c ∈ k.copies, c.source ≠ 2 + q := by
  simp [queueIdle, and_comm]

theorem syncRidx_of_no_done {s : State} {core q : Nat} (h : ((s.core core).queue q).done = []) : syncRidx s core q = s := by
  unfold syncRidx
  rw [h]
  rfl

theorem xqcfgWriteTo_size {s : State} {v : Dword} (h : ¬ SizeOk v) (id : GroupId) (g : Group) : xqcfgWriteTo v s id g = s := by
  unfold xqcfgWriteTo
  exact if_pos ((sizeBad_iff v).2 h)

/-- What the header of a queue that starts afresh leads to (04 R84, log 19). -/
def startFrom (s1 : State) (c q part : Nat) : Except (Cause × VAddr) (List Byte) → State
  | .ok l => modXq s1 c q fun x => { x with ridx := leNat l, next := leNat l, done := [], synced := true }
  | .error (e, va) => queueFault (modXq s1 c q fun x => { x with synced := false }) c q part e va 2 0

section
variable {s : State} {v : Dword} {c q : Nat} {old : CopyQueue} {s1 : State} (hs : SizeOk v) (id : GroupId) (g : Group)
  (hc : c = coreOf id) (hq : q = (s.core c).xqsel.toNat) (hold : old = (s.core c).queue q) (hs1 : s1 = modXq s c q (configured s c g v))
include hs hc hq hold hs1

/-- A queue that is disabled, or that has no finished slot to count and goes on where it stands, has its fields set and no more. -/
theorem xqcfgWriteTo_kept
    (h : v.getLsbD 63 = false ∨ (old.done = [] ∧ ((old.en = true ∧ old.synced = true) ∨ ¬ queueIdle (s.core c) q = true))) :
    xqcfgWriteTo v s id g = s1 := by
  subst hc hq hold hs1
  unfold xqcfgWriteTo
  dsimp only
  rw [if_neg fun h => (sizeBad_iff v).1 h hs]
  rcases h with hen | ⟨hd, h⟩
  · rw [if_pos (by rw [hen]; rfl)]
    rfl
  · rw [if_neg (c := ((!CopyQueue.en _ || !CopyQueue.synced _) && _) = true), syncRidx_of_no_done]
    · split <;> rfl
    · rw [queue_modXq_same]
      exact hd
    · rcases h with ⟨he, hy⟩ | hi
      · rw [he, hy]
        exact Bool.false_ne_true
      · simp only [queueIdle, Bool.not_eq_true] at hi
        rw [hi, Bool.and_false]
        exact Bool.false_ne_true

theorem xqcfgWriteTo_start (hen : v.getLsbD 63 = true) (ho : old.en = false ∨ old.synced = false) (hi : queueIdle (s.core c) q = true)
    {header : Except (Cause × VAddr) (List Byte)} (hread : xqRead s1 g.part ((configured s c g v old).base.toNat + 8) 8 = header) :
    xqcfgWriteTo v s id g = startFrom s1 c q g.part header := by
  subst hc hq hold hs1
  unfold xqcfgWriteTo
  dsimp only
  rw [if_neg fun h => (sizeBad_iff v).1 h hs, if_neg (by rw [hen]; exact Bool.false_ne_true), if_pos, queue_modXq_same]
  · generalize hx : xqRead _ _ _ _ = x
    obtain rfl : x = header := hx.symm.trans hread
    rcases x with ⟨e, va⟩ | l <;> rfl
  · simp only [queueIdle] at hi
    rw [hi, Bool.and_true]
    simpa using ho

end

theorem xqRead_ok {s : State} {part off n : Nat} {l : List Byte}
    (h : unitRead s part false .s (mkVa s.devNum.toNat 0 off) n = .ok (l, none)) : xqRead s part off n = .ok l := by
  unfold xqRead
  rw [h]

theorem xqRead_error {s : State} {part off n : Nat} {x : Cause × VAddr}
    (h : unitRead s part false .s (mkVa s.devNum.toNat 0 off) n = .error x) : xqRead s part off n = .error x := by
  unfold xqRead
  rw [h]

theorem oneCore_modXq (s : State) (c q : Nat) (f : CopyQueue → CopyQueue) :
    OneCore s (modXq s c q f) c { s.core c with xq := tabSet (s.core c).xq q (f ((s.core c).queue q)) } :=
  oneCore_modCore s c _

theorem oneCore_startFrom_ok (s : State) (c q part : Nat) (f : CopyQueue → CopyQueue) (l : List Byte) :
    OneCore s (startFrom (modXq s c q f) c q part (.ok l)) c { s.core c with
      xq := tabSet (s.core c).xq q { f ((s.core c).queue q) with ridx := leNat l, next := leNat l, done := [], synced := true } } := by
  rw [startFrom, modXq_modXq]
  exact oneCore_modXq s c q _

theorem oneCore_startFrom_error (s : State) (c q part : Nat) (f : CopyQueue → CopyQueue) (e : Cause) (va : VAddr) :
    OneCore s (startFrom (modXq s c q f) c q part (.error (e, va))) c { s.core c with
      xq := tabSet (s.core c).xq q { f ((s.core c).queue q) with synced := false, faulted := true },
      logWait := (s.core c).logWait ++ [⟨logBytes 0 va e.code (2 + q) 0 2 0, part, none⟩] } := by
  rw [startFrom, queueFault, logEntry, modXq_modXq, modXq_modXq, modXq, modCore_modCore]
  exact oneCore_modCore s c _

theorem xflogWriteTo_size {s : State} {v : Dword} (h : ¬ SizeOk v) (id : GroupId) (g : Group) : xflogWriteTo v s id g = s :=
  if_pos ((sizeBad_iff v).2 h)

theorem oneCore_xflogWriteTo {s : State} {v : Dword} (h : SizeOk v) (id : GroupId) (g : Group) :
    OneCore s (xflogWriteTo v s id g) (coreOf id) { s.core (coreOf id) with
      flogEn := v.getLsbD 63, flogLogn := v.extractLsb' 59 4, flogBase := v.extractLsb' 7 41 ++ 0#7, flogPart := g.part,
      lbad := (s.core (coreOf id)).lbad && !v.getLsbD 63 } := by
  unfold xflogWriteTo
  dsimp only
  rw [if_neg fun hb => (sizeBad_iff v).1 hb h]
  exact oneCore_modCore s _ _

/-! SRSEED. -/

/-- The generators of the core, and on an even one of its cluster, take the seed, and nothing else differs (06 R115, Table 4). -/
theorem srseedWriteTo_seeds (v : Dword) (s : State) (id : GroupId) (g : Group) :
    let seed : Word := if v.extractLsb' 0 32 = 0#32 then 1 else v.extractLsb' 0 32
    let c := coreOf id
    let t := srseedWriteTo v s id g
    t = { s with cores := t.cores, clusters := t.clusters } ∧ t.core c = { s.core c with gen0 := seed, gen1 := seed, genx := seed } ∧
    (∀ j, j ≠ c → t.core j = s.core j) ∧
    ∀ j, t.cluster j = if c % 2 = 0 ∧ j = c / 2 then { s.cluster j with gend := seed } else s.cluster j := by
  intro seed c t
  obtain ⟨-, hcore, hother⟩ := oneCore_modCore s c fun x => { x with gen0 := seed, gen1 := seed, genx := seed }
  by_cases hc : c % 2 = 0
  · have ht : t = (s.modCore c fun x => { x with gen0 := seed, gen1 := seed, genx := seed }).modCluster (c / 2) fun x => { x with gend := seed } :=
      if_pos hc
    rw [ht]
    refine ⟨rfl, hcore, hother, fun j => ?_⟩
    rw [cluster_modCluster, cluster_modCore, cluster_modCore]
    by_cases hj : j = c / 2 <;> simp [hc, hj]
  · have ht : t = s.modCore c fun x => { x with gen0 := seed, gen1 := seed, genx := seed } := if_neg hc
    rw [ht]
    exact ⟨rfl, hcore, hother, fun j => by simp [hc]⟩

/-! XFRES. -/

/-- The entry of index i lies between RIDX and WIDX of the log (04 R88). -/
def InLog (k : Core) (i : Nat) : Prop := (i + 65536 - k.xfridx.toNat) % 65536 < (k.widx + 65536 - k.xfridx.toNat) % 65536

/-- Where the entry of index i lies (04 R87). -/
def entryPlace (k : Core) (i : Nat) : Nat := k.flogBase.toNat + 128 + 128 * (i % 2 ^ k.flogLogn.toNat)

/-- The copy that an entry hands in again, from what the device kept of it and the entry as it stands (04 R88). -/
def resumedCopy (s : State) (x : Copy) (l : List Byte) : Copy :=
  let r := recOf (l.take 64)
  { x with record := r, source := byteAt l 75, home := leField l 80 4, owner := (resumeOwner s x r).1, teamUid := (resumeOwner s x r).2 }

/-- A copy whose OWNER stands as the engine wrote it keeps its group and its team (04 R88). -/
theorem resumedCopy_same {s : State} {x : Copy} {l : List Byte} (h : recU (resumedCopy s x l).record 56 4 = recU x.record 56 4) :
    (resumedCopy s x l).owner = x.owner ∧ (resumedCopy s x l).teamUid = x.teamUid := by
  have ho : resumeOwner s x (recOf (l.take 64)) = (x.owner, x.teamUid) := if_pos h
  exact ⟨congrArg Prod.fst ho, congrArg Prod.snd ho⟩

/-- An edited OWNER names a group of the copy's partition, or no group (04 R88, log 35). -/
theorem resumeOwner_edited {s : State} {x : Copy} {r : BitVec 512} (h : recU r 56 4 ≠ recU x.record 56 4) {u : Nat}
    (hu : (resumeOwner s x r).1 = some u) : ∃ id z, s.group? id = some z ∧ z.uid = u ∧ z.part = x.part := by
  unfold resumeOwner at hu
  dsimp only at hu
  rw [if_neg h] at hu
  split at hu
  · next z hz =>
    split at hu
    · next hp => exact ⟨_, z, hz, Option.some.inj hu, hp.2⟩
    · cases hu
  · cases hu

theorem xfresWriteTo_unknown {s : State} {v : Dword} (id : GroupId) (g : Group)
    (h : (s.core (coreOf id)).halted.find? (fun x => x.entry == v.toNat % 65536) = none ∨ ¬ InLog (s.core (coreOf id)) (v.toNat % 65536)) :
    xfresWriteTo v s id g = s := by
  unfold InLog at h
  unfold xfresWriteTo
  -- The functions of memory and the modulus stand for any in a lemma of their own: else the kernel runs them where it compares the cases.
  generalize tableRead = read, tableWrite = write, resumeOwner = owner, recBad = bad, 65536 = modulus at *
  as_aux_lemma =>
    dsimp only
    split
    · rfl
    · next x hx =>
      rw [if_neg fun hlog => h.elim (fun hn => nomatch hn.symm.trans hx) fun hout => hout (of_decide_eq_true hlog)]

section
variable {s : State} {v : Dword} {id : GroupId} {c i : Nat} {x : Halted} {l : List Byte} (g : Group)
  (hc : c = coreOf id) (hi : i = v.toNat % 65536) (hx : (s.core c).halted.find? (fun x => x.entry == i) = some x) (hin : InLog (s.core c) i)
  (hl : tableRead s (s.core c).flogPart (entryPlace (s.core c) i) 128 = some l)
include hc hi hx hin hl

/-- XFRES on an entry that is in the log and can be read (04 R88). -/
theorem xfresWriteTo_eq : xfresWriteTo v s id g =
    if 1 < byteAt l 75 ∨ byteAt l 76 ≠ 0 then s
    else (tableWrite s (s.core c).flogPart (entryPlace (s.core c) i + 76) [1#8]).elim s fun s1 =>
      let k := resumedCopy s x.copy l
      let s2 := s1.modCore c fun y => { y with halted := y.halted.filter (fun z => z.entry != i) }
      if recBad k.record false then (if k.source = 1 then (badRecord s2 c k).1 else s2)
      else startResumed (s2.modCore c fun y => { y with resumed := y.resumed ++ [k] }) c := by
  subst hc hi
  unfold InLog at hin
  unfold entryPlace at hl ⊢
  unfold xfresWriteTo resumedCopy
  -- The functions of memory and the modulus stand for any in a lemma of their own: else the kernel runs them where it compares the cases.
  generalize tableRead = read, tableWrite = write, resumeOwner = owner, recBad = bad, 65536 = modulus at *
  as_aux_lemma =>
    dsimp only
    rw [hx]
    dsimp only
    rw [if_pos (decide_eq_true hin), hl]
    dsimp only
    split
    · rfl
    · rw [show leBytes 1 1 = [1#8] from rfl]
      generalize write _ _ _ _ = written
      cases written with
      | none => rfl
      | some s1 => rfl

theorem xfresWriteTo_refused (h : (1 < byteAt l 75 ∨ byteAt l 76 ≠ 0) ∨
      tableWrite s (s.core c).flogPart (entryPlace (s.core c) i + 76) [1#8] = none) : xfresWriteTo v s id g = s := by
  rw [xfresWriteTo_eq g hc hi hx hin hl]
  split
  · rfl
  · next hgood => rw [h.resolve_left hgood, Option.elim_none]

theorem xfresWriteTo_resumes {s1 : State} (hsrc : byteAt l 75 ≤ 1) (hst : byteAt l 76 = 0)
    (hw : tableWrite s (s.core c).flogPart (entryPlace (s.core c) i + 76) [1#8] = some s1)
    (hbad : recBad (recOf (l.take 64)) false = false) :
    xfresWriteTo v s id g = startResumed (s1.modCore c fun y =>
      { y with halted := y.halted.filter (fun z => z.entry != i), resumed := y.resumed ++ [resumedCopy s x.copy l] }) c := by
  rw [xfresWriteTo_eq g hc hi hx hin hl, if_neg (by omega), hw, Option.elim_some]
  dsimp only
  rw [show (resumedCopy s x.copy l).record = recOf (l.take 64) from rfl, if_neg (by rw [hbad]; exact Bool.false_ne_true), modCore_modCore]
  rfl

end

/-- The copy that XFRES hands in is in flight, under the next number and with the stamp of its acceptance; its log entry is no longer kept. -/
theorem oneCore_xfresWriteTo {s s1 : State} {v : Dword} {id : GroupId} {c i : Nat} {x : Halted} {l : List Byte} (g : Group)
    (hc : c = coreOf id) (hi : i = v.toNat % 65536) (hx : (s.core c).halted.find? (fun x => x.entry == i) = some x)
    (hin : InLog (s.core c) i) (hl : tableRead s (s.core c).flogPart (entryPlace (s.core c) i) 128 = some l)
    (hsrc : byteAt l 75 ≤ 1) (hst : byteAt l 76 = 0)
    (hw : tableWrite s (s.core c).flogPart (entryPlace (s.core c) i + 76) [1#8] = some s1)
    (hbad : recBad (recOf (l.take 64)) false = false) (hr : (s.core c).resumed = []) (hq : ∀ q < 8, queueHead s1 c q = none)
    (hn : inFlight (s.core c) < 256) :
    let y := resumedCopy s x.copy l
    OneCore { s1 with nextCopy := s.nextCopy + 1 } (xfresWriteTo v s id g) c { s.core c with
      halted := (s.core c).halted.filter (fun z => z.entry != i), served := 0,
      copies := (s.core c).copies ++ [{ y with id := s.nextCopy + 0, row := firstRow y.record, stamp := s.qepoch }] } := by
  intro y
  have hmem := tableWrite_onlyMemory hw
  obtain ⟨hframe, hcore, hother⟩ := oneCore_startResumed (s := s1) (core := c) (c := y)
    (f := fun k => { k with halted := k.halted.filter (fun z => z.entry != i), resumed := k.resumed ++ [y] })
    (by simp [hmem.core, hr])
    (hasRoom_of_no_heads (fun q hq8 => by rw [queueHead_modCore _ _ _ rfl, hq q hq8]) (by rw [core_modCore_same, hmem.core]; exact hn))
  rw [xfresWriteTo_resumes g hc hi hx hin hl hsrc hst hw hbad]
  refine ⟨?_, hcore.trans ?_, hother⟩
  · rw [← hmem.nextCopy]
    exact hframe
  · simp only [hmem.core, hmem.nextCopy, hmem.qepoch, hr, Nat.add_zero, show y.source - 1 = 0 from Nat.sub_eq_zero_of_le hsrc]

/-! The statement. -/

/-- Settles O47, from the cases of the fault log's turn and of each CSR above. -/
theorem copyLogsAndQueueRegistersAct : Obligations.CopyLogsAndQueueRegistersAct := by
  intro s g v core me mine k started
  refine ⟨faultLog_idle, ?_, fun hg hseq hm => ?_⟩
  · intro e rest hw full w
    refine ⟨fun hf => faultLog_full hw ((logFull_iff k).2 hf), fun hf hn => ?_, fun hf hr s1 hs1 => ?_⟩
    · exact ⟨_, faultLog_unwritable hw (mt (logFull_iff k).1 hf) hn, oneCore_modCore s core _⟩
    · refine ⟨_, faultLog_written hw (mt (logFull_iff k).1 hf) hr hs1, ?_⟩
      rw [show k = s1.core core from ((logWrite_onlyMemory hs1).core core).symm]
      exact oneCore_modCore s1 core _
  · intro logn sizes seed qn old new idle
    have hidle : queueIdle mine qn = true ↔ idle := queueIdle_iff mine qn
    rw [exec_xqcfgWrite v hg hseq hm, exec_xflogWrite v hg hseq hm, exec_srseedWrite v hg hseq hm, exec_xfres v hg hseq hm]
    refine ⟨fun hs => ?_, ?_⟩
    · rw [xqcfgWriteTo_size hs, xflogWriteTo_size hs]
      exact ⟨rfl, rfl⟩
    intro header
    refine ⟨fun hs hkept => ?_, fun hs hen ho hi => ?_, fun hs => ⟨_, rfl, oneCore_xflogWriteTo hs s.cur g⟩,
      ⟨_, rfl, srseedWriteTo_seeds v s s.cur g⟩, ?_⟩
    · rw [xqcfgWriteTo_kept hs s.cur g rfl rfl rfl rfl (hkept.imp_right (And.imp_right (Or.imp_right (mt hidle.1))))]
      exact ⟨_, rfl, oneCore_modXq s me qn _⟩
    · refine ⟨fun l hl => ?_, fun e va he => ?_⟩
      · rw [xqcfgWriteTo_start hs s.cur g rfl rfl rfl rfl hen ho (hidle.2 hi) (xqRead_ok hl)]
        exact ⟨_, rfl, oneCore_startFrom_ok s me qn g.part _ l⟩
      · rw [xqcfgWriteTo_start hs s.cur g rfl rfl rfl rfl hen ho (hidle.2 hi) (xqRead_error he)]
        exact ⟨_, rfl, oneCore_startFrom_error s me qn g.part _ e va⟩
    · intro i place inLog
      refine ⟨fun h => ?_, fun x l s1 hx hin hl => ⟨fun h => ?_, fun h => ?_, fun hsrc hst hw hbad hr hq hn => ?_⟩⟩
      · rw [xfresWriteTo_unknown s.cur g h]
      · rw [xfresWriteTo_refused g rfl rfl hx hin hl (.inl h)]
      · rw [xfresWriteTo_refused g rfl rfl hx hin hl (.inr h)]
      · refine ⟨_, resumedCopy s x.copy l, rfl, rfl, resumedCopy_same, fun h u hu => resumeOwner_edited h hu,
          oneCore_xfresWriteTo g rfl rfl hx hin hl hsrc hst hw hbad hr hq hn⟩

end Sys2Proof.Proofs.CopyRegisters
end

section
/-! SUPPORT. The laws of issue that the vector instructions share: an instruction whose fields are legal or not, an FP instruction with its flags,
and a group instruction. -/
namespace Sys2Proof.Laws
open Sys2Proof Sys2Proof.Machine

/-! Legality. -/

/-- The first check before issue is that of the encoding (02 R42). -/
theorem checkIssue_illegal {s : State} {id : GroupId} {g : Group} {i : Instr} (h : i.legal g.gen g.pre = false) :
    checkIssue s id g i = some (.ill, (wordOf i).setWidth 64) := by
  simp [checkIssue, h]

/-- What issues is legal by its encoding. -/
theorem legal_of_issues {s : State} {g : Group} {i : Instr} (h : Issues s g i) : i.legal g.gen g.pre = true := by
  cases hl : i.legal g.gen g.pre with
  | true => rfl
  | false => cases (checkIssue_illegal hl).symm.trans h.2

theorem fieldsOk_of_legal {gen : Nat} {p : Pre} {i : Instr} (h : i.legal gen p = true) : i.fieldsOk = true := by
  simp only [Instr.legal, Bool.and_eq_true] at h
  exact h.1.1.1

theorem fieldsOk_of_issues {s : State} {g : Group} {i : Instr} (h : Issues s g i) : i.fieldsOk = true :=
  fieldsOk_of_legal (legal_of_issues h)

/-- A current group whose instruction fails a check takes its trap. -/
theorem issue_checked {s : State} {g : Group} {i : Instr} {c : Cause} {v : Dword} (hc : Current s g) (hm : midIssue g = false)
    (h : checkIssue s s.cur g i = some (c, v)) (body : State → GroupId → Group → State) :
    issue i s body = .next (raiseAll s s.cur g c v) := by
  obtain ⟨hg, ho, he, -⟩ := hc
  simp [issue, hg, closeWindows, landWhere, ho, he, hm, h]

/-- An instruction that its entry's field values forbid traps ILL (02 R41). -/
theorem trapsIll_of_fields {s : State} {g : Group} {i : Instr} {body : State → GroupId → Group → State}
    (hx : exec i s = issue i s body) (hf : i.fieldsOk = false) : TrapsIll s g i := by
  intro hc hm
  rw [hx]
  exact issue_checked hc hm (checkIssue_illegal (by simp [Instr.legal, hf])) body

/-! Words. -/

/-- The fields of a word of format A (02 Table 1). -/
theorem formatA_fields (m d a b : BitVec 7) (f : BitVec 4) :
    let w := m ++ d ++ a ++ b ++ f
    w.extractLsb' 25 7 = m ∧ w.extractLsb' 4 7 = b ∧ ∀ i n, i + n ≤ 4 → w.extractLsb' i n = f.extractLsb' i n := by
  intro w
  have upper : ∀ i n, 4 ≤ i → w.extractLsb' i n = (m ++ d ++ a ++ b).extractLsb' (i - 4) n :=
    fun i n hi => BitVec.extractLsb'_append_eq_of_le hi
  refine ⟨?_, ?_, fun i n h => BitVec.extractLsb'_append_eq_of_add_le h⟩
  · rw [upper 25 7 (by decide), BitVec.extractLsb'_append_eq_of_le (by decide), BitVec.extractLsb'_append_eq_of_le (by decide)]
    exact BitVec.extractLsb'_append_eq_left
  · rw [upper 4 7 (by decide), BitVec.extractLsb'_append_eq_of_add_le (by decide)]
    exact BitVec.extractLsb'_eq_self

/-- The major and the mask field of a word of format B (02 Table 4). -/
theorem formatB_fields (m : BitVec 7) (k : BitVec 4) (h : BitVec 2) (p : BitVec 19) :
    let w := m ++ k ++ h ++ p
    w.extractLsb' 25 7 = m ∧ w.extractLsb' 21 4 = k := by
  intro w
  have upper : ∀ i n, 21 ≤ i → w.extractLsb' i n = (m ++ k).extractLsb' (i - 21) n := fun i n hi =>
    (BitVec.extractLsb'_append_eq_of_le (by omega)).trans
      ((BitVec.extractLsb'_append_eq_of_le (by omega)).trans (by rw [Nat.sub_sub]))
  refine ⟨?_, ?_⟩
  · rw [upper 25 7 (by decide)]
    exact BitVec.extractLsb'_append_eq_left
  · rw [upper 21 4 (by decide), BitVec.extractLsb'_append_eq_of_add_le (by decide)]
    exact BitVec.extractLsb'_eq_self

/-- A word that no row fits traps ILL (02 R41), if an older generation ignores no bits of its major (14 Table 8). -/
theorem illWord_of_decode {w : Word} {m : BitVec 7} (hd : decodeWord w = none) (hw : w.extractLsb' 25 7 = m)
    (hm : m ≠ 0x59#7 ∧ m ≠ 0x5B#7 ∧ m ≠ 0x5F#7) : IllWord w := by
  refine ⟨hd, fun s id => ?_⟩
  have hl : ∀ gen, legacyWord gen w = w := fun gen => by simp [legacyWord, hw, hm]
  simp only [decodeAct, hl, hd]

/-! Instructions that change the record of their group alone. -/

/-- An instruction whose body completes with the record g'. -/
theorem givesGroup_of_body {s : State} {g g' : Group} {i : Instr} {body : State → GroupId → Group → State}
    (hx : exec i s = issue i s body)
    (hb : Issues s g i → body s s.cur g = { s.setGroup s.cur g' with fresh := s.fresh + 8 }) : GivesGroup s g i g' := by
  intro hi
  exact ⟨_, by rw [hx, issue_ok hi, hb hi], ownGroup_retire s g' _⟩

/-! Instructions of the vector pipes with flags (06 R118). -/

section
variable {s : State} {g : Group}

/-- The draw of SR leaves the group that issues current. -/
theorem current_drawn (hc : Current s g) (sr : Bool) : Current (drawn s g sr) g := by
  unfold drawn
  split
  · exact hc
  · exact hc

theorem drawn_cur (s : State) (g : Group) (sr : Bool) : (drawn s g sr).cur = s.cur := by
  unfold drawn
  split <;> rfl

/-- The flags of a group are no part of what makes it current. -/
theorem current_setFlags (hc : Current s g) (fl : Flagset) :
    Current (s.setGroup s.cur { g with fpstat := fl }) { g with fpstat := fl } := by
  obtain ⟨-, ho, he, hw, hs⟩ := hc
  exact ⟨group?_setGroup_same _ _ _, ho, he, hw, hs⟩

theorem onlyOwn_of_setGroup {t : State} {x : Group} (h : OnlyOwn (s.setGroup s.cur x) t) : OnlyOwn s t :=
  ⟨h.1, fun id hid => (h.2 id hid).trans (group?_setGroup_other s s.cur id x hid)⟩

/-- A result is the same whether the flags of the group are recorded before it or with it. -/
theorem laneResult_of_setFlags {t : State} {o : Opnd} {f : Nat → BitVec 128} (fl : Flagset)
    (h : LaneResult (s.setGroup s.cur { g with fpstat := fl }) t { g with fpstat := fl }
      (Group.goesOn { g with fpstat := fl }) o f) : LaneResult s t g { g.goesOn with fpstat := fl } o f :=
  ⟨onlyOwn_of_setGroup h.1, h.2⟩

/-- The usual end of an FP instruction, its flags being recorded. -/
theorem fpWrite_result (hc : Current s g) (fl : Flagset) {o : Opnd} (ho : o.wid ≤ 4) (f : Nat → BitVec 128) :
    LaneResult s (fpWrite o (s.setGroup s.cur { g with fpstat := fl }) s.cur g f) g { g.goesOn with fpstat := fl } o f :=
  laneResult_of_setFlags fl (perLane_result (fun _ _ _ => f) (current_setFlags hc fl) ho)

/-- A mask writer with flags: it records them and its mask. -/
theorem maskWriter_flags_result (hc : Current s g) (fl : Flagset) (d : BitVec 7) (f : Nat → Bool) :
    ∃ k : Dword, (∀ l, l < 64 → k.getLsbD l = (decide (l ∈ g.active) && f l)) ∧
      OwnGroup s (maskWriter d (fun _ _ _ => f) (s.setGroup s.cur { g with fpstat := fl }) s.cur g)
        { g.goesOn with k := storeSet g.k d.toNat k, fpstat := fl } := by
  obtain ⟨hown, hcells, k, hk, hgr⟩ := maskWriter_result d (fun _ _ _ => f) (current_setFlags hc fl)
  exact ⟨k, hk, onlyOwn_of_setGroup hown, hcells, hgr⟩

variable {i : Instr} {sr : Bool} {F : State → GroupId → Group → Word → Nat → BitVec 128 × Flagset}
  {fin : State → GroupId → Group → (Nat → BitVec 128) → State}

/-- An FP instruction that is issued and meets an enabled flag traps FPX. -/
theorem fpIssue_traps (hx : exec i s = issue i s (fpIssue sr F fin)) (hi : Issues s g i) {fl : Flagset}
    (hfl : unionFlags (g.active.map fun l => (F s s.cur g (genOf (drawn s g sr) s.cur) l).2) = fl) (he : fl &&& fpEnables g ≠ 0) :
    exec i s = .next (raiseAll (drawn s g sr) s.cur g .fpx (fl.setWidth 64)) := by
  subst hfl
  rw [hx, issue_ok hi]
  exact congrArg _ (if_pos he)

/-- An FP instruction that is issued and meets no enabled flag records its flags and ends. -/
theorem fpIssue_ends (hx : exec i s = issue i s (fpIssue sr F fin)) (hi : Issues s g i) {fl : Flagset}
    (hfl : unionFlags (g.active.map fun l => (F s s.cur g (genOf (drawn s g sr) s.cur) l).2) = fl) (he : fl &&& fpEnables g = 0) :
    exec i s = .next (fin ((drawn s g sr).setGroup s.cur { g with fpstat := g.fpstat ||| fl }) s.cur g
      fun l => (F s s.cur g (genOf (drawn s g sr) s.cur) l).1) := by
  subst hfl
  have hg : (drawn s g sr).group? s.cur = some g := drawn_cur s g sr ▸ (current_drawn hi.1 sr).1
  rw [hx, issue_ok hi, ← modGroup_some _ _ (fun x => { x with fpstat := x.fpstat ||| _ }) _ hg]
  exact congrArg _ (if_neg (not_not_intro he))

/-- An FP instruction that writes a register gives its result and its flags. -/
theorem givesFp_of_fpIssue {d : BitVec 7} {r : Word → Nat → BitVec 128} {fl : Word → Nat → Flagset}
    (hx : exec i s = issue i s (fpIssue sr F (fpWrite (dstOpnd d 1)))) (hF : ∀ w l, F s s.cur g w l = (r w l, fl w l)) :
    GivesFp s g i d sr r fl := by
  intro hi s1 w u
  have hu : unionFlags (g.active.map fun l => (F s s.cur g w l).2) = u := by simp only [hF]; rfl
  refine ⟨fun he => ⟨_, fpIssue_ends hx hi hu he, ?_⟩, fun he => fpIssue_traps hx hi hu he⟩
  have hr := fpWrite_result (current_drawn hi.1 sr) (g.fpstat ||| u) (o := dstOpnd d 1) (by decide : 1 ≤ 4) (r w)
  rw [drawn_cur] at hr
  simpa only [hF] using hr

end

end Sys2Proof.Laws
end

section
/-! SUPPORT. The integer instructions whose result is an exact value reduced by a type code (07 R136 to R138, Table 4). -/
namespace Sys2Proof.Proofs.IntegerArithmetic
open Sys2Proof Sys2Proof.Machine Sys2Proof.Laws

/-! Numbers of n bits. -/

/-- Sign extension of the low n bits is their signed reading. -/
theorem sextInt_toNat (n : Nat) (v : BitVec 128) : sextInt (n + 1) v.toNat = (v.setWidth (n + 1)).toInt := by
  have h : 2 * (v.toNat % 2 ^ (n + 1)) < 2 ^ (n + 1) ↔ v.toNat % 2 ^ (n + 1) < 2 ^ n := by rw [Nat.pow_succ]; omega
  simp [sextInt, BitVec.toInt, h]

/-- A value reduced modulo 2^n, on its n bits. -/
theorem setWidth_wrapInt {n : Nat} (hn : n ≤ 128) (x : Int) : (wrapInt n x).setWidth n = BitVec.ofInt n x := by
  have hpos : (0 : Int) < ((2 ^ n : Nat) : Int) := Int.ofNat_lt.2 (Nat.two_pow_pos n)
  have hle : ((2 ^ n : Nat) : Int) ≤ ((2 ^ 128 : Nat) : Int) := Int.ofNat_le.2 (Nat.pow_le_pow_right (by decide) hn)
  have h0 : 0 ≤ x % ((2 ^ n : Nat) : Int) := Int.emod_nonneg _ (Int.ne_of_gt hpos)
  have hlt : x % ((2 ^ n : Nat) : Int) < ((2 ^ n : Nat) : Int) := Int.emod_lt_of_pos _ hpos
  have hw : wrapInt n x = BitVec.ofInt 128 (x % ((2 ^ n : Nat) : Int)) := by rw [wrapInt, Int.natCast_pow]; rfl
  apply BitVec.eq_of_toNat_eq
  rw [hw, BitVec.toNat_setWidth, BitVec.toNat_ofInt, BitVec.toNat_ofInt, Int.emod_eq_of_lt h0 (Int.lt_of_lt_of_le hlt hle)]
  exact Nat.mod_eq_of_lt (by omega)

theorem clampInt_eq {lo hi : Int} (h : lo ≤ hi) (x : Int) : clampInt lo hi x = max lo (min hi x) := by
  unfold clampInt
  split
  · omega
  · split <;> omega

/-! Type codes (07 Table 4). -/

theorem codeWid_code64 (f : BitVec 4) : codeWid (code64 f) = typedRegs f := by
  simp [codeWid, code64, typedRegs]

theorem codeWidth_eq (f : BitVec 4) : codeWidth f = 32 * typedRegs f := by
  unfold codeWidth typedRegs
  simp only [code64, Bool.or_eq_true, beq_iff_eq]
  split <;> rfl

theorem typedRegs_eq (f : BitVec 4) : typedRegs f = 1 ∨ typedRegs f = 2 := by
  unfold typedRegs
  split <;> simp

/-- The six type codes (07 Table 4). -/
theorem typeCode_cases {f : BitVec 4} (h : f.toNat < 6) : f = 0#4 ∨ f = 1#4 ∨ f = 2#4 ∨ f = 3#4 ∨ f = 4#4 ∨ f = 5#4 := by
  revert h; revert f; decide

/-- An operand is read as its type says. -/
theorem codeRead_eq {f : BitVec 4} (h : f.toNat < 6) (v : BitVec 128) : codeRead f v = typedRead f v := by
  obtain rfl | rfl | rfl | rfl | rfl | rfl := typeCode_cases h
  · exact sextInt_toNat 31 v
  · simp [codeRead, codeSigned, codeWidth, code64, readInt, typedRead]
  · exact sextInt_toNat 63 v
  · simp [codeRead, codeSigned, codeWidth, code64, readInt, typedRead]
  · exact sextInt_toNat 31 v
  · simp [codeRead, codeSigned, codeWidth, code64, readInt, typedRead]

/-- A value is reduced as its type says, on the registers that a result has. -/
theorem setWidth_codeReduce {f : BitVec 4} (h : f.toNat < 6) (x : Int) :
    (codeReduce f x).setWidth (32 * typedRegs f) = (typedValue f x).setWidth (32 * typedRegs f) := by
  obtain rfl | rfl | rfl | rfl | rfl | rfl := typeCode_cases h <;>
    simp [codeReduce, codeWidth, code64, typedRegs, typedValue, setWidth_wrapInt, clampInt_eq]

/-! The instructions. -/

section
variable {s : State} {g : Group} {d a b : BitVec 7} {f : BitVec 4} {i : Instr}

/-- An instruction of the arithmetic group gives the exact value of its operands, reduced by its type (07 R137). -/
theorem gives_arith (op : Int → Int → Int) (hx : exec i s = issue i s (arith d a b f op)) (hf : i.fieldsOk = true → f.toNat < 6) :
    Gives s g i d (typedRegs f) fun l =>
      typedValue f (op (typedRead f (srcA s g a (typedRegs f) l)) (typedRead f (srcB s g b (typedRegs f) l))) := by
  intro hi
  have h6 := hf (fieldsOk_of_issues hi)
  unfold arith binary at hx
  rw [codeWid_code64] at hx
  refine gives_perLane hx (typedRegs_eq f) (fun l => ?_) hi
  rw [← codeRead_eq h6, ← codeRead_eq h6]
  exact setWidth_codeReduce h6 _

/-- IMAD gives the exact product and addend, reduced by its type (07 R137). -/
theorem gives_imad : Gives s g (.imad d a b f) d (typedRegs f) fun l =>
    typedValue f (typedRead f (srcA s g a (typedRegs f) l) * typedRead f (srcB s g b (typedRegs f) l) +
      typedRead f (srcD s g d (typedRegs f) l)) := by
  intro hi
  have h6 : f.toNat < 6 := by simpa [Instr.fieldsOk, BitVec.ult] using fieldsOk_of_issues hi
  have hx : exec (.imad d a b f) s = execImad d a b f s := rfl
  unfold execImad at hx
  rw [codeWid_code64] at hx
  refine gives_perLane hx (typedRegs_eq f) (fun l => ?_) hi
  rw [← codeRead_eq h6, ← codeRead_eq h6, ← codeRead_eq h6]
  exact setWidth_codeReduce h6 _

end

/-- Settles O1, instruction by instruction: each result is that of `gives_arith`, and a type beyond the table fails `fieldsOk`. -/
theorem integerArithmeticGivesTypedValues : Obligations.IntegerArithmeticGivesTypedValues := by
  intro s g d a b f m t x y z u
  have h6 : f.ult 6#4 = true → f.toNat < 6 := by simp [BitVec.ult]
  have h4 : f.ult 4#4 = true → f.toNat < 6 := fun h => by simp [BitVec.ult] at h; omega
  have hu : u.toNat < 6 := by simp [u]; omega
  refine ⟨gives_arith (· + ·) rfl h6, gives_arith (· - ·) rfl h6, gives_arith (· * ·) rfl h6, ?_, gives_imad, ?_,
    ⟨rfl, rfl, rfl, rfl, rfl⟩, fun hf => ?_, fun hf => ?_⟩
  · rw [← codeWidth_eq]
    exact gives_arith (fun x y => x * y / 2 ^ codeWidth f) rfl h4
  · exact gives_arith (fun x y => if m = 0#1 then min x y else max x y) rfl fun _ => hu
  · have hn : f.ult 6#4 = false := by simp [BitVec.ult]; omega
    exact ⟨trapsIll_of_fields rfl hn, trapsIll_of_fields rfl hn, trapsIll_of_fields rfl hn,
      trapsIll_of_fields (show exec (.imad d a b f) s = execImad d a b f s from rfl) hn⟩
  · have hn : f.ult 4#4 = false := by simp [BitVec.ult]; omega
    exact trapsIll_of_fields rfl hn

end Sys2Proof.Proofs.IntegerArithmetic
end

section
/-! SUPPORT. Branches and jumps (07 R133, R134). -/
namespace Sys2Proof.Proofs.Branches
open Sys2Proof Sys2Proof.Machine Sys2Proof.Laws

/-! Targets and conditions. -/

/-- The target of a branch lies its displacement in words from it. -/
theorem branchTarget_eq (pc : Dword) (p : BitVec 19) : branchTarget pc p = pc + BitVec.ofInt 64 (4 * p.toInt) := by
  have h : p.signExtend 64 = BitVec.ofInt 64 p.toInt := rfl
  rw [branchTarget, BitVec.shiftLeft_eq_mul_twoPow, h, BitVec.mul_comm, BitVec.ofInt_mul]
  rfl

/-- A mask is empty exactly if no bit of it is set. -/
theorem mask_eq_zero_iff (m : Dword) : (m == 0) = true ↔ ¬ ∃ l, l < 64 ∧ m.getLsbD l = true := by
  rw [beq_iff_eq]
  constructor
  · rintro rfl ⟨l, -, h⟩
    simp at h
  · intro h
    refine BitVec.eq_of_getLsbD_eq fun l hl => ?_
    simpa using fun hm => h ⟨l, hl, hm⟩

theorem mask_ne_zero_iff (m : Dword) : (m != 0) = true ↔ ∃ l, l < 64 ∧ m.getLsbD l = true := by
  rw [bne, Bool.not_eq_true', ← Bool.not_eq_true, mask_eq_zero_iff, Classical.not_not]

/-- A multiple of 4 has no bit below bit 2. -/
theorem lowBits_eq_zero_iff (t : Dword) : t.extractLsb' 0 2 = 0#2 ↔ t.toNat % 4 = 0 := by
  rw [← BitVec.toNat_inj]
  simp [BitVec.extractLsb'_toNat]

/-- The scalars, and z beside them. -/
theorem scalarZ_iff (d : BitVec 7) : scalarZ d = true ↔ scalarOk d = true ∨ d = 112#7 := by
  revert d; decide

/-- A fetch at bit 48 or above traps PROT (03 Table 9). -/
theorem translate_beyond (s : State) (unit part : Nat) (engine : Bool) (mode : Mode) (grant : Grant) (kind : Nat) {off : Nat}
    (h : 2 ^ 48 ≤ off) : Machine.translate s unit part engine mode grant kind off = .error .prot := by
  have hc : (decide (4 < kind) || decide (2 ^ 48 ≤ off)) = true := Bool.or_eq_true_iff.2 (.inr (decide_eq_true h))
  rw [Machine.translate, if_pos hc]

/-! The group after a branch or a jump. -/

section
variable {s : State} {g : Group} (hc : Current s g)
include hc

theorem scalarOf_current {a : BitVec 7} (ha : scalarOk a = true) (port : Nat) : scalarOf s g a port = storeGet g.s (a.toNat - 96) := by
  simp [scalarOf, ha, readS, hc.2.1, Group.sreg]

theorem setS_current (n : Nat) (v : Dword) : g.setS n v = { g with s := storeSet g.s n v } := by
  simp [Group.setS, hc.2.1, markDirty]

/-- A taken branch of a group that has written a scalar. -/
theorem retireTo_setS (n : Nat) (v pc : Dword) : retireTo (s.modGroup s.cur fun x => x.setS n v) s.cur pc =
    { s.setGroup s.cur { g.goesTo pc with s := storeSet g.s n v } with fresh := s.fresh + 8 } := by
  have ho : (g.setS n v).out = [] := by rw [setS_current hc]; exact hc.2.1
  rw [modGroup_some _ _ _ _ hc.1, retireTo_eq _ _ _ _ (group?_setGroup_same _ _ _) ho, setGroup_setGroup, setS_current hc]
  rfl

/-- A branch goes to its target if it is taken, and to the next word if not. -/
theorem branch_current (taken : Bool) (p : BitVec 19) : branch s s.cur g taken p =
    { s.setGroup s.cur (if taken then g.goesTo (g.pc + BitVec.ofInt 64 (4 * p.toInt)) else g.goesOn) with fresh := s.fresh + 8 } := by
  cases taken
  · exact retire_eq s s.cur g hc.1 hc.2.1
  · rw [← branchTarget_eq]
    exact retireTo_eq s s.cur g _ hc.1 hc.2.1

/-- A jump to a multiple of 4 writes its link, if it has one, and goes there. -/
theorem jump_aligned {d a : BitVec 7} (ha : scalarOk a = true) (ht : (storeGet g.s (a.toNat - 96)).toNat % 4 = 0) :
    jump s s.cur g d a = { s.setGroup s.cur (if scalarOk d then
      { g.goesTo (storeGet g.s (a.toNat - 96)) with s := storeSet g.s (d.toNat - 96) (g.pc + 4) }
      else g.goesTo (storeGet g.s (a.toNat - 96))) with fresh := s.fresh + 8 } := by
  unfold jump
  rw [scalarOf_current hc ha]
  rw [if_neg (not_not_intro ((lowBits_eq_zero_iff _).2 ht))]
  split
  · exact retireTo_setS hc _ _ _
  · exact retireTo_eq s s.cur g _ hc.1 hc.2.1

/-- A jump to no multiple of 4 traps ALN with the target. -/
theorem jump_misaligned {d a : BitVec 7} (ha : scalarOk a = true) (ht : (storeGet g.s (a.toNat - 96)).toNat % 4 ≠ 0) :
    jump s s.cur g d a = raiseAll s s.cur g .aln (storeGet g.s (a.toNat - 96)) := by
  unfold jump
  rw [scalarOf_current hc ha]
  exact if_pos (mt (lowBits_eq_zero_iff _).1 ht)

end

/-! The instructions. -/

section
variable {s : State} {g : Group}

/-- A branch whose condition is c. -/
theorem gives_branch {i : Instr} {p : BitVec 19} {c : Prop} (taken : Group → Bool)
    (hx : exec i s = issue i s fun s id g => branch s id g (taken g) p) (hcond : taken g = true ↔ c) :
    (c → GivesGroup s g i (g.goesTo (g.pc + BitVec.ofInt 64 (4 * p.toInt)))) ∧ (¬ c → GivesGroup s g i g.goesOn) := by
  refine ⟨fun h => givesGroup_of_body hx fun hi => ?_, fun h => givesGroup_of_body hx fun hi => ?_⟩
  · rw [branch_current hi.1, if_pos (hcond.2 h)]
  · rw [branch_current hi.1, if_neg (mt hcond.1 h)]

theorem gives_call {h : BitVec 2} {p : BitVec 19} : GivesGroup s g (.call h p)
    { g.goesTo (g.pc + BitVec.ofInt 64 (4 * p.toInt)) with s := storeSet g.s 15 (g.pc + 4) } := by
  refine givesGroup_of_body (show exec (.call h p) s = execCall h p s from rfl) fun hi => ?_
  rw [← branchTarget_eq]
  exact retireTo_setS hi.1 15 (g.pc + 4) _

/-- JMPR names a scalar as its target and a scalar or z as its link (07 R134). -/
theorem fieldsOk_jmpr {d a : BitVec 7} (h : (Instr.jmpr d a).fieldsOk = true) : (scalarOk d = true ∨ d = 112#7) ∧ scalarOk a = true :=
  let ⟨hd, ha⟩ := Bool.and_eq_true_iff.1 h
  ⟨(scalarZ_iff d).1 hd, ha⟩

/-- JMPR to a multiple of 4: its link is the next word's address, unless it names z. -/
theorem gives_jmpr {d a : BitVec 7} (ht : (storeGet g.s (a.toNat - 96)).toNat % 4 = 0) : GivesGroup s g (.jmpr d a)
    (if d = 112#7 then g.goesTo (storeGet g.s (a.toNat - 96))
      else { g.goesTo (storeGet g.s (a.toNat - 96)) with s := storeSet g.s (d.toNat - 96) (g.pc + 4) }) := by
  refine givesGroup_of_body (show exec (.jmpr d a) s = execJmpr d a s from rfl) fun hi => ?_
  obtain ⟨hd, ha⟩ := fieldsOk_jmpr (fieldsOk_of_issues hi)
  rw [jump_aligned hi.1 ha ht]
  obtain hd | rfl := hd
  · have hz : d ≠ 112#7 := by rintro rfl; exact absurd hd (by decide)
    rw [if_pos hd, if_neg hz]
  · rw [if_neg (by decide), if_pos rfl]

theorem gives_ret {a : BitVec 7} (ht : (storeGet g.s (a.toNat - 96)).toNat % 4 = 0) :
    GivesGroup s g (.ret a) (g.goesTo (storeGet g.s (a.toNat - 96))) := by
  refine givesGroup_of_body (show exec (.ret a) s = execRet a s from rfl) fun hi => ?_
  rw [jump_aligned hi.1 (fieldsOk_of_issues hi) ht, if_neg (by decide)]

theorem jmpr_misaligned {d a : BitVec 7} (ht : (storeGet g.s (a.toNat - 96)).toNat % 4 ≠ 0) (hi : Issues s g (.jmpr d a)) :
    exec (.jmpr d a) s = .next (raiseAll s s.cur g .aln (storeGet g.s (a.toNat - 96))) := by
  rw [show exec (.jmpr d a) s = execJmpr d a s from rfl, execJmpr, issue_ok hi,
    jump_misaligned hi.1 (fieldsOk_jmpr (fieldsOk_of_issues hi)).2 ht]

theorem ret_misaligned {a : BitVec 7} (ht : (storeGet g.s (a.toNat - 96)).toNat % 4 ≠ 0) (hi : Issues s g (.ret a)) :
    exec (.ret a) s = .next (raiseAll s s.cur g .aln (storeGet g.s (a.toNat - 96))) := by
  rw [show exec (.ret a) s = execRet a s from rfl, execRet, issue_ok hi, jump_misaligned hi.1 (fieldsOk_of_issues hi) ht]

end

/-! The words. -/

/-- A BRA or a CALL with a mask in its field k is no instruction (07 R133). -/
theorem illWord_masked {k : BitVec 4} (hk : k ≠ 0#4) (h : BitVec 2) (p : BitVec 19) :
    IllWord (0x01#7 ++ k ++ h ++ p) ∧ IllWord (0x05#7 ++ k ++ h ++ p) := by
  obtain ⟨hbra, hbraK⟩ := formatB_fields 0x01#7 k h p
  obtain ⟨hcall, hcallK⟩ := formatB_fields 0x05#7 k h p
  exact ⟨illWord_of_decode (by simp [decodeWord, hbra, hbraK, hk]) hbra (by decide),
    illWord_of_decode (by simp [decodeWord, hcall, hcallK, hk]) hcall (by decide)⟩

/-- Settles O17, from what a branch, a call and a jump leave of their group. -/
theorem branchesAndJumpsGoToTheirTargets : Obligations.BranchesAndJumpsGoToTheirTargets := by
  intro s g k h p d a target some? goes t linked
  refine ⟨⟨rfl, rfl, rfl, rfl, rfl⟩, ⟨fun hk => illWord_masked hk h p, rfl, rfl, rfl⟩,
    fun off ho => translate_beyond _ _ _ _ _ _ _ ho, (gives_branch (c := True) (fun _ => true) rfl (by simp)).1 trivial,
    gives_branch (fun g => g.kreg k.toNat &&& g.em != 0) rfl ?_, gives_branch (fun g => g.em &&& ~~~(g.kreg k.toNat) == 0) rfl ?_,
    gives_branch (fun g => g.kreg k.toNat &&& g.em == 0) rfl ?_, gives_call, fun ht => ⟨gives_jmpr ht, gives_ret ht⟩,
    fun ht => ⟨jmpr_misaligned ht, ret_misaligned ht⟩⟩
  · rw [mask_ne_zero_iff]
    simp [some?, Group.kreg]
  · have hbit : ∀ l, l < 64 → (g.em &&& ~~~(g.kreg k.toNat)).getLsbD l =
        (!(storeGet g.k k.toNat).getLsbD l && g.em.getLsbD l) := fun l hl => by
      rw [BitVec.getLsbD_and, BitVec.getLsbD_not, decide_eq_true hl, Bool.true_and, Bool.and_comm, Group.kreg]
    rw [mask_eq_zero_iff]
    exact not_congr (exists_congr fun l => and_congr_right fun hl => by rw [hbit l hl])
  · rw [mask_eq_zero_iff]
    simp [some?, Group.kreg]

end Sys2Proof.Proofs.Branches
end

section
/-! SUPPORT. Minimum and maximum, comparison, sign and class of floating-point values (07 R148 to R150, R157). -/
namespace Sys2Proof.Proofs.FloatComparison
open Sys2Proof Sys2Proof.Machine Sys2Proof.Laws

/-! The order of values. -/

theorem two_zpow_pos (e : Int) : (0 : Rat) < 2 ^ e := Rat.zpow_pos (by decide)

/-- A significand moved to a lower exponent is the same number. -/
theorem natScaled_mul_zpow (m : Nat) {e e0 : Int} (h : e0 ≤ e) :
    ((m * 2 ^ (e - e0).toNat : Nat) : Rat) * 2 ^ e0 = m * 2 ^ e := by
  have he : e = ((e - e0).toNat : Int) + e0 := by omega
  have hp : (2 : Rat) ^ e = ((2 ^ (e - e0).toNat : Nat) : Rat) * 2 ^ e0 := by
    calc (2 : Rat) ^ e = 2 ^ (((e - e0).toNat : Int) + e0) := congrArg _ he
      _ = 2 ^ ((e - e0).toNat : Int) * 2 ^ e0 := Rat.zpow_add (by decide) _ _
      _ = ((2 ^ (e - e0).toNat : Nat) : Rat) * 2 ^ e0 := congrArg (· * _) (Rat.natCast_pow 2 _).symm
  rw [hp, ← Rat.mul_assoc]
  exact congrArg (· * _) (Rat.natCast_mul m _)

/-- A signed significand at a common exponent is the number that it stands for, in units of that exponent. -/
theorem scaled_mul_zpow (neg : Bool) (m : Nat) {e e0 : Int} (h : e0 ≤ e) :
    (scaled neg m e e0 : Rat) * 2 ^ e0 = (Fval.fin neg m e).rat := by
  cases neg
  · exact natScaled_mul_zpow m h
  · show ((-((m * 2 ^ (e - e0).toNat : Nat) : Int) : Int) : Rat) * 2 ^ e0 = -(m * 2 ^ e)
    rw [← natScaled_mul_zpow m h]
    exact (congrArg (· * _) (Rat.intCast_neg _)).trans (Rat.neg_mul _ _)

theorem scaled_lt_iff (n n' : Bool) (m m' : Nat) {e e' e0 : Int} (h : e0 ≤ e) (h' : e0 ≤ e') :
    scaled n m e e0 < scaled n' m' e' e0 ↔ (Fval.fin n m e).rat < (Fval.fin n' m' e').rat := by
  rw [← scaled_mul_zpow n m h, ← scaled_mul_zpow n' m' h']
  exact Rat.intCast_lt_intCast.symm.trans (Rat.mul_lt_mul_right (two_zpow_pos e0)).symm

/-- The order of the model is that of the numbers. -/
theorem ltV_eq_below {x y : Fval} (hx : isNanV x = false) (hy : isNanV y = false) : ltV x y = x.below y := by
  cases x with
  | nan sg => cases hx
  | inf n =>
    cases y with
    | nan sg => cases hy
    | inf n' => rfl
    | fin n' m' e' => rfl
  | fin n m e =>
    cases y with
    | nan sg => cases hy
    | inf n' => rfl
    | fin n' m' e' =>
      refine decide_eq_decide.2 (scaled_lt_iff n n' m m' ?_ ?_)
      · split <;> omega
      · split <;> omega

/-- A NaN is below nothing, and nothing is below it. -/
theorem below_of_nan {x y : Fval} (h : (isNanV x || isNanV y) = true) : x.below y = false := by
  cases x with
  | nan sg => rfl
  | inf n =>
    cases y with
    | nan sg => rfl
    | inf n' => cases h
    | fin n' m' e' => cases h
  | fin n m e =>
    cases y with
    | nan sg => rfl
    | inf n' => cases h
    | fin n' m' e' => cases h

theorem below_asymm {x y : Fval} (h : x.below y = true) : y.below x = false := by
  cases x with
  | nan sg => cases h
  | inf n =>
    cases y with
    | nan sg => cases h
    | inf n' => cases n <;> cases n' <;> simp_all [Fval.below]
    | fin n' m' e' => cases n <;> simp_all [Fval.below]
  | fin n m e =>
    cases y with
    | nan sg => cases h
    | inf n' => cases n' <;> simp_all [Fval.below]
    | fin n' m' e' => exact decide_eq_false (Rat.not_lt.2 (Rat.le_of_lt (of_decide_eq_true h)))

/-! FCMP (07 R149). -/

/-- Whether two values are in the relation of a condition code (07 R149, Table 12). -/
def compares (c : BitVec 3) (x y : Fval) : Bool :=
  let un := isNanV x || isNanV y
  if c = 0#3 then !un && !x.below y && !y.below x else if c = 1#3 then un || x.below y || y.below x
  else if c = 2#3 then x.below y else if c = 3#3 then !un && !y.below x
  else if c = 4#3 then y.below x else if c = 5#3 then !un && !x.below y
  else if c = 6#3 then un else !un

/-- The flags of a comparison: NV for a NaN under an order, and for a signalling NaN under the other conditions (07 R149). -/
def compareFlags (c : BitVec 3) (x y : Fval) : Flagset :=
  if (if 2 ≤ c.toNat ∧ c.toNat ≤ 5 then isNanV x || isNanV y else isSnanV x || isSnanV y) then fNV else 0

theorem condition_cases (c : BitVec 3) :
    c = 0#3 ∨ c = 1#3 ∨ c = 2#3 ∨ c = 3#3 ∨ c = 4#3 ∨ c = 5#3 ∨ c = 6#3 ∨ c = 7#3 := by
  revert c; decide

theorem cmpFloat_flags (c : BitVec 3) (x y : Fval) : (cmpFloat c x y).2 = compareFlags c x y := by
  obtain rfl | rfl | rfl | rfl | rfl | rfl | rfl | rfl := condition_cases c <;> rfl

/-- The condition of FCMP beside a NaN: only NE and UN hold. -/
theorem cmpFloat_unordered (c : BitVec 3) {x y : Fval} (h : (isNanV x || isNanV y) = true) : (cmpFloat c x y).1 = compares c x y := by
  have hy : y.below x = false := below_of_nan (by rwa [Bool.or_comm])
  obtain rfl | rfl | rfl | rfl | rfl | rfl | rfl | rfl := condition_cases c <;>
    simp [cmpFloat, compares, h, below_of_nan h, hy]

/-- The condition of FCMP between two numbers: of less, equal and more one holds. -/
theorem cmpFloat_ordered (c : BitVec 3) {x y : Fval} (h : (isNanV x || isNanV y) = false) : (cmpFloat c x y).1 = compares c x y := by
  obtain ⟨hx, hy⟩ := Bool.or_eq_false_iff.1 h
  have hlt : x.below y = true → y.below x = false := below_asymm
  obtain rfl | rfl | rfl | rfl | rfl | rfl | rfl | rfl := condition_cases c <;>
    simp only [cmpFloat, compares, h, ltV_eq_below hx hy, ltV_eq_below hy hx]
  all_goals cases hb : x.below y <;> cases hm : y.below x <;> simp_all

theorem cmpFloat_eq (c : BitVec 3) (x y : Fval) : cmpFloat c x y = (compares c x y, compareFlags c x y) := by
  refine Prod.ext ?_ (cmpFloat_flags c x y)
  cases h : isNanV x || isNanV y
  · exact cmpFloat_ordered c h
  · exact cmpFloat_unordered c h

/-! FMIN and FMAX (07 R148). -/

/-- The result of a minimum (true) or a maximum: a NaN beside a number yields the number unless .NAN asks for the NaN, and −0 lies below
+0 (07 R148). -/
def extremum (isMin : Bool) (m : BitVec 1) (x y : Fval) : Nat :=
  if (isNanV x && isNanV y) || (m == 1#1 && (isNanV x || isNanV y)) then 0x7FC00000
  else if isNanV x then encodeF fp32 y else if isNanV y then encodeF fp32 x
  else if (x.below y || (!y.below x && isNegV x && !isNegV y)) == isMin then encodeF fp32 x else encodeF fp32 y

theorem minMax_eq (isMin : Bool) (m : BitVec 1) (g : Group) (p q : Word) :
    minMax fp32 isMin (m == 0#1) (ftzOf g) p.toNat q.toNat =
      (extremum isMin m (fpIn g p) (fpIn g q), if isSnanV (fpIn g p) || isSnanV (fpIn g q) then fNV else 0) := by
  have hcanon : fp32.canonNan = 0x7FC00000 := rfl
  have hm : m = 0#1 ∨ m = 1#1 := by revert m; decide
  unfold minMax
  simp only [show flushIn fp32 (ftzOf g) (decodeF fp32 p.toNat) = fpIn g p from rfl,
    show flushIn fp32 (ftzOf g) (decodeF fp32 q.toNat) = fpIn g q from rfl, hcanon]
  generalize fpIn g p = x
  generalize fpIn g q = y
  unfold extremum
  cases hx : isNanV x
  · cases hy : isNanV y
    · simp only [ltV_eq_below hx hy, ltV_eq_below hy hx]
      simp [apply_ite (encodeF fp32)]
    · obtain rfl | rfl := hm <;> simp
  · obtain rfl | rfl := hm <;> cases hy : isNanV y <;> simp

/-! FSGN (07 R150). -/

/-- The sign bit above the 31 other bits of an FP32 encoding. -/
theorem getLsbD_signed (n : BitVec 1) (p : Word) (i : Nat) :
    (n ++ p.extractLsb' 0 31 : Word).getLsbD i = if i < 31 then p.getLsbD i else n.getLsbD (i - 31) := by
  have h := BitVec.getLsbD_append (x := n) (y := p.extractLsb' 0 31) (i := i)
  split
  · next hi => simpa [hi] using h
  · next hi => simpa [hi] using h

theorem getLsbD_signMask {i : Nat} (hi : i < 32) : (0x80000000#32).getLsbD i = decide (i = 31) := by
  rw [BitVec.getLsbD_ofNat, show 0x80000000 = 2 ^ 31 from rfl, Nat.testBit_two_pow]
  simp [hi, eq_comm]

theorem getLsbD_restMask {i : Nat} (hi : i < 32) : (0x7FFFFFFF#32).getLsbD i = decide (i < 31) := by
  rw [BitVec.getLsbD_ofNat, show 0x7FFFFFFF = 2 ^ 31 - 1 from rfl, Nat.testBit_two_pow_sub_one]
  simp [hi]

/-- The sign that FSGN gives by its code: of b, its inverse, its product with a's, plus, and the inverse of a's (07 R150). -/
def signOf (f : BitVec 4) (p q : Word) : BitVec 1 :=
  if f = 0#4 then q.extractLsb' 31 1 else if f = 1#4 then ~~~(q.extractLsb' 31 1)
  else if f = 2#4 then p.extractLsb' 31 1 ^^^ q.extractLsb' 31 1 else if f = 3#4 then 0#1 else ~~~(p.extractLsb' 31 1)

/-- The result of FSGN for a number: its sign above its other bits (07 R150). -/
def signedVal (f : BitVec 4) (p q : Word) : Word :=
  if f = 0#4 then q.extractLsb' 31 1 ++ p.extractLsb' 0 31
  else if f = 1#4 then ~~~(q.extractLsb' 31 1) ++ p.extractLsb' 0 31
  else if f = 2#4 then (p.extractLsb' 31 1 ^^^ q.extractLsb' 31 1) ++ p.extractLsb' 0 31
  else if f = 3#4 then 0#1 ++ p.extractLsb' 0 31 else ~~~(p.extractLsb' 31 1) ++ p.extractLsb' 0 31

theorem signedVal_eq (f : BitVec 4) (p q : Word) : signedVal f p q = signOf f p q ++ p.extractLsb' 0 31 := by
  unfold signedVal signOf
  simp only [apply_ite (fun n : BitVec 1 => (n ++ p.extractLsb' 0 31 : Word))]

theorem signVal_number {p : Word} (h : isNanV (decodeF fp32 p.toNat) = false) (f : BitVec 4) (q : Word) :
    signVal f p q = signedVal f p q := by
  refine BitVec.eq_of_getLsbD_eq fun i hi => ?_
  rw [signedVal_eq, getLsbD_signed]
  unfold signVal signOf
  simp only [h, Bool.false_eq_true, if_false]
  obtain hlow | rfl : i < 31 ∨ i = 31 := by omega
  · have hne : i ≠ 31 := by omega
    rw [if_pos hlow]
    (repeat' split) <;> simp [getLsbD_signMask hi, getLsbD_restMask hi, hlow, hne]
  · rw [if_neg (Nat.lt_irrefl 31)]
    (repeat' split) <;> simp

/-! FIC (07 R157). -/

/-- A finite value of a format is subnormal or normal, with its sign in the topmost bit. -/
theorem decodeF_fin {f : Fmtf} {b m : Nat} {n : Bool} {e : Int} (h : decodeF f b = .fin n m e) :
    n = (b / 2 ^ (f.eb + f.fb) % 2 == 1) ∧ (m < 2 ^ f.fb ∧ e = f.emin - f.fb ∨ 2 ^ f.fb ≤ m ∧ f.emin - f.fb ≤ e) := by
  unfold decodeF at h
  extract_lets neg ex frac at h
  have hfrac : frac < 2 ^ f.fb := Nat.mod_lt _ (Nat.two_pow_pos _)
  split at h
  · split at h <;> cases h
  split at h
  · cases h
  split at h
  · obtain ⟨rfl, rfl, rfl⟩ := Fval.fin.inj h
    exact ⟨rfl, .inl ⟨hfrac, rfl⟩⟩
  · obtain ⟨rfl, rfl, rfl⟩ := Fval.fin.inj h
    refine ⟨rfl, .inr ⟨Nat.le_add_right _ _, ?_⟩⟩
    unfold Fmtf.emin
    omega

theorem decodeF_inf {f : Fmtf} {b : Nat} {n : Bool} (h : decodeF f b = .inf n) : n = (b / 2 ^ (f.eb + f.fb) % 2 == 1) := by
  unfold decodeF at h
  extract_lets neg ex frac at h
  split at h
  · split at h
    · exact (Fval.inf.inj h).symm
    · cases h
  split at h
  · cases h
  split at h <;> cases h

/-- The topmost bit of an encoding. -/
theorem topBit_iff {f : Fmtf} {b : Nat} (hb : b < 2 ^ f.bits) : (b / 2 ^ (f.eb + f.fb) % 2 == 1) = true ↔ 2 ^ (f.bits - 1) ≤ b := by
  have hbits : f.bits = f.eb + f.fb + 1 := by unfold Fmtf.bits; omega
  have hlt : b / 2 ^ (f.eb + f.fb) < 2 := Nat.div_lt_of_lt_mul (by rwa [hbits, Nat.pow_succ] at hb)
  have hle := Nat.le_div_iff_mul_le (x := 1) (y := b) (k := 2 ^ (f.eb + f.fb)) (Nat.two_pow_pos _)
  rw [hbits, Nat.add_sub_cancel, beq_iff_eq, Nat.mod_eq_of_lt hlt]
  omega

/-- A finite value lies below the least normal one exactly if its significand has no leading bit. -/
theorem mag_lt_emin {f : Fmtf} {m : Nat} {n : Bool} {e : Int}
    (h : m < 2 ^ f.fb ∧ e = f.emin - f.fb ∨ 2 ^ f.fb ≤ m ∧ f.emin - f.fb ≤ e) :
    (Fval.fin n m e).mag < (2 : Rat) ^ f.emin ↔ m < 2 ^ f.fb := by
  have he : f.emin - f.fb ≤ e := h.elim (fun hs => Int.le_of_eq hs.2.symm) And.right
  have hk : (f.emin - (f.emin - f.fb)).toNat = f.fb := by omega
  have hunit : ((1 * 2 ^ f.fb : Nat) : Rat) * 2 ^ (f.emin - f.fb) = (1 : Nat) * 2 ^ f.emin := by
    rw [← natScaled_mul_zpow 1 (by omega : f.emin - f.fb ≤ f.emin), hk]
  have hlt : (Fval.fin n m e).mag < (2 : Rat) ^ f.emin ↔ m * 2 ^ (e - (f.emin - f.fb)).toNat < 1 * 2 ^ f.fb := by
    rw [Fval.mag, ← natScaled_mul_zpow m he, ← Rat.one_mul ((2 : Rat) ^ f.emin)]
    refine (iff_of_eq (congrArg _ hunit.symm)).trans ?_
    exact (Rat.mul_lt_mul_right (two_zpow_pos _)).trans Rat.natCast_lt_natCast
  rw [hlt, Nat.one_mul]
  obtain ⟨-, rfl⟩ | ⟨hm, -⟩ := h
  · simp
  · have hge : 2 ^ f.fb ≤ m * 2 ^ (e - (f.emin - f.fb)).toNat := Nat.le_trans hm (Nat.le_mul_of_pos_right m (Nat.two_pow_pos _))
    exact iff_of_false (Nat.not_lt.2 hge) (Nat.not_lt.2 hm)

theorem mag_eq_zero {m : Nat} {n : Bool} {e : Int} : (Fval.fin n m e).mag = 0 ↔ m = 0 := by
  have hz : (2 : Rat) ^ e ≠ 0 := Rat.ne_of_gt (two_zpow_pos e)
  refine Rat.mul_eq_zero.trans (Iff.trans ?_ Rat.natCast_eq_zero_iff)
  exact or_iff_left hz

/-- What the class of an element says of its value and its encoding (07 R157). -/
def ClassSays (f : Fmtf) (b k : Nat) : Prop :=
  let v := decodeF f b
  k < 10 ∧ (k = 8 ↔ isSnanV v) ∧ (k = 9 ↔ isNanV v ∧ isSnanV v = false) ∧ (k = 0 ↔ v = .inf true) ∧
    (k = 7 ↔ v = .inf false) ∧ (k = 3 ∨ k = 4 ↔ v.finite ∧ v.mag = 0) ∧
    (k = 2 ∨ k = 5 ↔ v.finite ∧ v.mag ≠ 0 ∧ v.mag < (2 : Rat) ^ f.emin) ∧
    (k ≤ 3 → 2 ^ (f.bits - 1) ≤ b) ∧ (4 ≤ k → k ≤ 7 → b < 2 ^ (f.bits - 1))

theorem classOf_says {f : Fmtf} {b : Nat} (hb : b < 2 ^ f.bits) : ClassSays f b (classOf f b) := by
  unfold ClassSays classOf
  cases hv : decodeF f b with
  | nan sg => cases sg <;> simp [isSnanV, isNanV, Fval.finite]
  | inf n =>
    have hsign : n = true ↔ 2 ^ (f.bits - 1) ≤ b := decodeF_inf hv ▸ topBit_iff hb
    cases n
    · have hpos : b < 2 ^ (f.bits - 1) := by simpa using hsign
      simp [isSnanV, isNanV, Fval.finite, hpos]
    · simp [isSnanV, isNanV, Fval.finite, hsign.1 rfl]
  | fin n m e =>
    obtain ⟨hn, hm⟩ := decodeF_fin hv
    have hsign : n = true ↔ 2 ^ (f.bits - 1) ≤ b := hn ▸ topBit_iff hb
    have hpos : n = false → b < 2 ^ (f.bits - 1) := fun h => by simpa [h] using hsign
    simp only [isSnanV, isNanV, Fval.finite, mag_lt_emin hm, mag_eq_zero, ne_eq]
    by_cases h0 : m = 0
    · have h1 : m < 2 ^ f.fb := h0 ▸ Nat.two_pow_pos _
      cases n
      · simp [h0, hpos rfl]
      · simp [h0, hsign.1 rfl]
    · by_cases h1 : m < 2 ^ f.fb
      · cases n
        · simp [h0, h1, hpos rfl]
        · simp [h0, h1, hsign.1 rfl]
      · cases n
        · simp [h0, h1, hpos rfl]
        · simp [h0, h1, hsign.1 rfl]

/-- The format and the bits of the element that FIC classifies (07 R157). -/
def ficFormat (f : BitVec 4) : Fmtf := if f = 0#4 then fp32 else if f = 1#4 ∨ f = 2#4 then fp16 else bf16
def ficBits (f : BitVec 4) (p : Word) : Nat :=
  if f = 0#4 then p.toNat else p.toNat / 2 ^ (if f = 1#4 ∨ f = 3#4 then 0 else 16) % 65536

theorem ficBits_lt (f : BitVec 4) (p : Word) : ficBits f p < 2 ^ (ficFormat f).bits := by
  unfold ficBits ficFormat
  split
  · exact p.isLt
  · have h16 : (if f = 1#4 ∨ f = 2#4 then fp16 else bf16).bits = 16 := by split <;> rfl
    rw [h16]
    exact Nat.mod_lt _ (by decide)

theorem ficCode_cases {f : BitVec 4} (h : f.toNat < 5) : f = 0#4 ∨ f = 1#4 ∨ f = 2#4 ∨ f = 3#4 ∨ f = 4#4 := by
  revert h; revert f; decide

theorem classOf_fic {f : BitVec 4} (h : f.toNat < 5) (p : Word) :
    (if f = 0#4 then classOf fp32 p.toNat else classOf (if f.ult 3#4 then fp16 else bf16) (elemOf 16 ((f.toNat - 1) % 2) p)) =
      classOf (ficFormat f) (ficBits f p) := by
  obtain rfl | rfl | rfl | rfl | rfl := ficCode_cases h <;> simp [ficFormat, ficBits, elemOf, BitVec.ult]

/-! The instructions. -/

section
variable {s : State} {g : Group} {d a b : BitVec 7}

/-- FCMP that meets no enabled flag writes its condition in the active lanes and records its flags. -/
theorem fcmp_completes {c : BitVec 3} (hi : Issues s g (.fcmp d a b c)) {fl : Flagset}
    (hfl : unionFlags (g.active.map fun l => compareFlags c (fpIn g (a32 s g a l)) (fpIn g (b32 s g b l))) = fl)
    (he : fl &&& fpEnables g = 0) : ∃ t, exec (.fcmp d a b c) s = .next t ∧ ∃ k : Dword,
      (∀ l, l < 64 → k.getLsbD l = (decide (l ∈ g.active) && compares c (fpIn g (a32 s g a l)) (fpIn g (b32 s g b l)))) ∧
      OwnGroup s t { g.goesOn with k := storeSet g.k d.toNat k, fpstat := g.fpstat ||| fl } := by
  have hx := fpIssue_ends (show exec (.fcmp d a b c) s = execFcmp d a b c s from rfl) hi (fl := fl)
    (by simp only [cmpFloat_eq]; exact hfl) he
  have hbit : ∀ v : Bool, ((if v then (1 : BitVec 128) else 0) != 0) = v := by decide
  obtain ⟨k, hk, hown⟩ := maskWriter_flags_result hi.1 (g.fpstat ||| fl) d fun l =>
    (if (cmpFloat c (fpIn g (a32 s g a l)) (fpIn g (b32 s g b l))).1 then (1 : BitVec 128) else 0) != 0
  refine ⟨_, hx, k, fun l hl => ?_, hown⟩
  rw [hk l hl, hbit, cmpFloat_eq]

theorem fcmp_traps {c : BitVec 3} (hi : Issues s g (.fcmp d a b c)) {fl : Flagset}
    (hfl : unionFlags (g.active.map fun l => compareFlags c (fpIn g (a32 s g a l)) (fpIn g (b32 s g b l))) = fl)
    (he : fl &&& fpEnables g ≠ 0) : exec (.fcmp d a b c) s = .next (raiseAll s s.cur g .fpx (fl.setWidth 64)) :=
  fpIssue_traps (show exec (.fcmp d a b c) s = execFcmp d a b c s from rfl) hi (by simp only [cmpFloat_eq]; exact hfl) he

theorem gives_fsgn {f : BitVec 4} : Gives s g (.fsgn d a b f) d 1 fun l =>
    BitVec.setWidth 128 (if isNanV (decodeF fp32 (a32 s g a l).toNat) then 0x7FC00000#32
      else signedVal f (a32 s g a l) (b32 s g b l)) := by
  refine gives_perLane rfl (.inl rfl) fun l => congrArg _ (congrArg (BitVec.setWidth 128) ?_)
  show signVal f (a32 s g a l) (b32 s g b l) = _
  cases hn : isNanV (decodeF fp32 (a32 s g a l).toNat)
  · exact signVal_number hn f _
  · exact if_pos hn

theorem gives_fic {f : BitVec 4} : Gives s g (.fic d a f) d 1 fun l =>
    BitVec.ofNat 128 (2 ^ classOf (ficFormat f) (ficBits f (a32 s g a l))) := by
  intro hi
  have h5 : f.toNat < 5 := by simpa [Instr.fieldsOk, BitVec.ult] using fieldsOk_of_issues hi
  refine gives_perLane (show exec (.fic d a f) s = execFic d a f s from rfl) (.inl rfl) (fun l => ?_) hi
  rw [← classOf_fic h5]
  rfl

theorem givesFp_minMax (m : BitVec 1) (isMin : Bool) : GivesFp s g (if isMin then .fmin d a b m else .fmax d a b m) d false
    (fun _ l => BitVec.ofNat 128 (extremum isMin m (fpIn g (a32 s g a l)) (fpIn g (b32 s g b l))))
    (fun _ l => if isSnanV (fpIn g (a32 s g a l)) || isSnanV (fpIn g (b32 s g b l)) then fNV else 0) := by
  have hx : exec (if isMin then .fmin d a b m else .fmax d a b m) s =
      issue (if isMin then .fmin d a b m else .fmax d a b m) s (floatMinMax isMin d a b m) := by cases isMin <;> rfl
  exact givesFp_of_fpIssue hx fun w l => congrArg fpRes (minMax_eq isMin m g (a32 s g a l) (b32 s g b l))

end

/-! The words that are no instruction. -/

/-- A word of FMIN or FMAX whose field f holds more than the code .NUM or .NAN is no instruction (07 R148). -/
theorem illWord_minMax {f : BitVec 4} (hf : 2 ≤ f.toNat) (d a b : BitVec 7) :
    IllWord (0x34#7 ++ d ++ a ++ b ++ f) ∧ IllWord (0x35#7 ++ d ++ a ++ b ++ f) := by
  have hz : f.extractLsb' 1 3 ≠ 0#3 := by revert hf; revert f; decide
  obtain ⟨hmin, -, hminF⟩ := formatA_fields 0x34#7 d a b f
  obtain ⟨hmax, -, hmaxF⟩ := formatA_fields 0x35#7 d a b f
  exact ⟨illWord_of_decode (by simp [decodeWord, hmin, hminF 1 3 (by decide), hz]) hmin (by decide),
    illWord_of_decode (by simp [decodeWord, hmax, hmaxF 1 3 (by decide), hz]) hmax (by decide)⟩

theorem illWord_fcmp {f : BitVec 4} (hf : 8 ≤ f.toNat) (d a b : BitVec 7) : IllWord (0x36#7 ++ d ++ a ++ b ++ f) := by
  have hz : f.extractLsb' 3 1 ≠ 0#1 := by revert hf; revert f; decide
  obtain ⟨hmajor, -, hfield⟩ := formatA_fields 0x36#7 d a b f
  exact illWord_of_decode (by simp [decodeWord, hmajor, hfield 3 1 (by decide), hz]) hmajor (by decide)

theorem illWord_fic {b : BitVec 7} (hb : b ≠ 112#7) (d a : BitVec 7) (f : BitVec 4) : IllWord (0x47#7 ++ d ++ a ++ b ++ f) := by
  obtain ⟨hmajor, hfield, -⟩ := formatA_fields 0x47#7 d a b f
  exact illWord_of_decode (by simp [decodeWord, hmajor, hfield, hb]) hmajor (by decide)

theorem fieldsOk_fsgn_false {d a b : BitVec 7} {f : BitVec 4} (h : 5 ≤ f.toNat ∨ (3 ≤ f.toNat ∧ b ≠ 112#7)) :
    (Instr.fsgn d a b f).fieldsOk = false := by
  simp only [Instr.fieldsOk, BitVec.ult, Bool.or_eq_false_iff, Bool.and_eq_false_iff, decide_eq_false_iff_not, beq_eq_false_iff_ne]
  obtain h | ⟨h, hb⟩ := h
  · exact ⟨by simp; omega, .inl (by simp; omega)⟩
  · exact ⟨by simp; omega, .inr hb⟩

/-- Settles O9, instruction by instruction. -/
theorem floatComparisonSignAndClass : Obligations.FloatComparisonSignAndClass := by
  intro s g d a b c f m x y un sn less more cond fl
  refine ⟨fun hi => ⟨fcmp_completes hi rfl, fcmp_traps hi rfl⟩, gives_fsgn, ⟨_, gives_fic, fun l => classOf_says (ficBits_lt f _)⟩,
    ⟨rfl, rfl, rfl, rfl, rfl⟩, ⟨fun h => illWord_minMax h d a b, fun h => illWord_fcmp h d a b, fun h => ?_, fun h => ?_,
      fun h => illWord_fic h d a f, fun h => ?_⟩, givesFp_minMax m⟩
  · exact trapsIll_of_fields (show exec (.fcmp d a b c) s = execFcmp d a b c s from rfl) (by simp [Instr.fieldsOk, maskOk, BitVec.ult]; omega)
  · exact trapsIll_of_fields (show exec (.fsgn d a b f) s = execFsgn d a b f s from rfl) (fieldsOk_fsgn_false h)
  · exact trapsIll_of_fields (show exec (.fic d a f) s = execFic d a f s from rfl) (by simp [Instr.fieldsOk, BitVec.ult]; omega)

end Sys2Proof.Proofs.FloatComparison
end

section
/-! SUPPORT. The laws of a queue's own state (11 R236): the queue that is changed and the others, what an event record leaves of them, the thread that
overruns (13 R304), and what stops a queue at a packet boundary (11 R248). -/
namespace Sys2Proof.Laws
open Sys2Proof Sys2Proof.Machine

/-! The queue that is changed, and the others. -/

@[simp] theorem queue_modQueue_same (s : State) (q : Nat) (f : Queue → Queue) : (s.modQueue q f).queue q = f (s.queue q) := by
  simp [State.queue, State.modQueue]

theorem queue_modQueue_other (s : State) {q j : Nat} (f : Queue → Queue) (h : j ≠ q) : (s.modQueue q f).queue j = s.queue j := by
  simp [State.queue, State.modQueue, tabGet_tabSet_other _ _ _ _ h]

/-- Of the queues only q differs, and that is z. -/
def QueueBecomes (s t : State) (q : Nat) (z : Queue) : Prop := t.queue q = z ∧ ∀ j, j ≠ q → t.queue j = s.queue j

/-- Nothing but queue q differs, and that is z. -/
def OneQueue (s t : State) (q : Nat) (z : Queue) : Prop := t = { s with queues := t.queues } ∧ QueueBecomes s t q z

theorem QueueBecomes.trans {s t u : State} {q : Nat} {y z : Queue} (h : QueueBecomes s t q y) (k : QueueBecomes t u q z) : QueueBecomes s u q z :=
  ⟨k.1, fun j hj => (k.2 j hj).trans (h.2 j hj)⟩

theorem queueBecomes_refl (s : State) (q : Nat) : QueueBecomes s s q (s.queue q) := ⟨rfl, fun _ _ => rfl⟩

theorem queueBecomes_modQueue (s : State) (q : Nat) (f : Queue → Queue) : QueueBecomes s (s.modQueue q f) q (f (s.queue q)) :=
  ⟨queue_modQueue_same s q f, fun _ h => queue_modQueue_other s f h⟩

theorem QueueBecomes.modQueue {s t : State} {q : Nat} {z : Queue} (h : QueueBecomes s t q z) (f : Queue → Queue) :
    QueueBecomes s (t.modQueue q f) q (f z) :=
  h.trans (h.1 ▸ queueBecomes_modQueue t q f)

theorem oneQueue_modQueue (s : State) (q : Nat) (f : Queue → Queue) : OneQueue s (s.modQueue q f) q (f (s.queue q)) :=
  ⟨rfl, queueBecomes_modQueue s q f⟩

theorem OnlyMemory.queues {s t : State} (h : OnlyMemory s t) : t.queues = s.queues := by
  unfold OnlyMemory at h
  rw [h]

@[simp] theorem sbRecord_queues (s : State) (src code unit pos value : Nat) : (sbRecord s src code unit pos value).queues = s.queues := by
  unfold sbRecord
  split <;> rfl

/-- Event records change no queue (11 R252, R253). -/
@[simp] theorem ringWrite_queues (s : State) (n kind qid code level pos value : Nat) :
    (ringWrite s n kind qid code level pos value).queues = s.queues := by
  unfold ringWrite
  rw [sbRecord_queues]
  split
  · rfl
  · split
    · rfl
    · dsimp only
      rw [modRing_queues, (writeMem_onlyMemory ..).queues, (writeMem_onlyMemory ..).queues]

@[simp] theorem queue_ringWrite (s : State) (n kind qid code level pos value j : Nat) :
    (ringWrite s n kind qid code level pos value).queue j = s.queue j := by
  simp only [State.queue, ringWrite_queues]

theorem QueueBecomes.ringWrite {s t : State} {q : Nat} {z : Queue} (h : QueueBecomes s t q z) {n kind qid code level pos value : Nat} :
    QueueBecomes s (Machine.ringWrite t n kind qid code level pos value) q z := by
  simpa [QueueBecomes] using h

/-! A thread that has spent its budget (13 R304). -/

/-- A thread that is to overrun: its budget is spent, and it is not throttled yet. -/
def Overruns (s : State) (x : Queue) : Prop :=
  s.edf = true ∧ (x.en = true ∨ x.closing = true) ∧ x.stop = false ∧ x.period ≠ 0 ∧ x.throt = false ∧ x.budget.toNat * 256 ≤ x.used

theorem overrun_of_overruns {s : State} {q : Nat} (h : Overruns s (s.queue q)) :
    overrun s q = ringWrite (s.modQueue q fun x => { x with throt := true, ovrf := true })
      (s.queue q).evr.toNat 3 q 0x14 0 (s.queue q).rptr.toNat (s.queue q).periodIdx := by
  obtain ⟨hedf, hlive, hstop, hperiod, hthrot, hspent⟩ := h
  unfold overrun
  exact if_pos (by simpa [hedf, hlive, hstop, hthrot, hspent, spent] using hperiod)

theorem overrun_of_not_overruns {s : State} {q : Nat} (h : ¬ Overruns s (s.queue q)) : overrun s q = s := by
  unfold overrun
  refine if_neg fun hc => h ?_
  simpa [spent, Overruns, and_assoc] using hc

/-- THROT and OVRF once an overrun of x that is due has been noted. -/
def OverrunNoted (s : State) (x : Queue) (throt ovrf : Bool) : Prop :=
  (Overruns s x → ovrf = true) ∧ (¬ Overruns s x → ovrf = x.ovrf ∧ throt = x.throt)

/-- An overrun changes THROT and OVRF of its queue and nothing else of any. -/
theorem queueBecomes_overrun (s : State) (q : Nat) :
    ∃ b o, QueueBecomes s (overrun s q) q { s.queue q with throt := b, ovrf := o } ∧
      OverrunNoted s (s.queue q) b o := by
  by_cases h : Overruns s (s.queue q)
  · rw [overrun_of_overruns h]
    exact ⟨true, true, (queueBecomes_modQueue s q _).ringWrite, fun _ => rfl, absurd h⟩
  · rw [overrun_of_not_overruns h]
    exact ⟨(s.queue q).throt, (s.queue q).ovrf, queueBecomes_refl s q, (absurd · h), fun _ => ⟨rfl, rfl⟩⟩

/-! What stops a queue at a packet boundary (11 R248). -/

section
variable {s : State} {q : Nat}

theorem boundary_drain (h : (s.queue q).wait = .drain) : boundary s q = none := by
  simp [boundary, h]

theorem boundary_closing (hw : (s.queue q).wait ≠ .drain) (hc : (s.queue q).closing = true) : boundary s q = some (closeQueue s q) := by
  simp [boundary, hw, hc]

/-- A queue that does not run, and is not closing, stands at no boundary. -/
theorem boundary_off (hc : (s.queue q).closing = false) (h : (s.queue q).en = false ∨ (s.queue q).stop = true) : boundary s q = none := by
  simp [boundary, hc, h]

variable (hw : (s.queue q).wait ≠ .drain) (hc : (s.queue q).closing = false) (he : (s.queue q).en = true) (hs : (s.queue q).stop = false)
include hw hc he hs

theorem boundary_badWptr {w : Dword} (h : (s.queue q).badWptr = some w) : boundary s q =
    some (queueErrorAt (s.modQueue q fun y => { y with badWptr := none, wait := .none, packet := none }) q 0x0B 0 (s.queue q).rptr w.toNat) := by
  simp [boundary, hw, hc, he, hs, h]

theorem boundary_halt (hb : (s.queue q).badWptr = none) (h : (s.queue q).haltReq = true) : boundary s q =
    some (s.modQueue q fun y => { y with haltReq := false, stop := true, run := false, slots := none, wait := .none, packet := none }) := by
  simp [boundary, hw, hc, he, hs, hb, h]

end

/-- An error stops a queue that is not stopped yet, and QERR and QEPOS record it (11 R251). -/
theorem queueErrorAt_stops {s : State} {q : Nat} (h : (s.queue q).stop = false) (code : BitVec 8) (level : BitVec 3) (epos : Dword) (value : Nat) :
    ((queueErrorAt s q code level epos value).queue q).stop = true ∧ ((queueErrorAt s q code level epos value).queue q).code = code ∧
      ((queueErrorAt s q code level epos value).queue q).epos = epos := by
  simp [queueErrorAt, h]

/-- A queue whose EN is clear holds nothing of what it was doing (11 R236). -/
theorem queueBecomes_closeQueue (s : State) (q : Nat) :
    ∃ b o, QueueBecomes s (closeQueue s q) q { s.queue q with
        en := false, closing := false, haltReq := false, slots := none, wait := .none, packet := none, levels := [], ahead := [], badWptr := none,
        throt := b, ovrf := o } ∧
      OverrunNoted s (s.queue q) b o := by
  obtain ⟨b, o, hover, hdue⟩ := queueBecomes_overrun s q
  exact ⟨b, o, hover.modQueue _, hdue⟩

end Sys2Proof.Laws
end

section
/-! SUPPORT. Command queues and their threads: QCTL (11 R236, R248, R251), wakes (11 R239, R240), and periods
(13 R303, R304). -/
namespace Sys2Proof.Proofs.CommandQueues
open Sys2Proof Sys2Proof.Machine Sys2Proof.Laws

/-! QCTL: the fields, then EN, RUN and HALT in that order (11 Table 2). -/

/-- The fields that every write of QCTL sets; those of the coin's owner only while EN is clear (11 Table 2). -/
def written (v : Dword) (x : Queue) : Queue :=
  { x with nonce := v.extractLsb' 0 48,
           owner := if x.en then x.owner else v.extractLsb' 48 6,
           evr := if x.en then x.evr else v.extractLsb' 57 3 }

/-- What the EN of a write of QCTL does: it starts a disabled queue, or disables one at once or behind its FFENCE (11 R236, R248). -/
def enStep (q : Nat) (v : Dword) (s : State) : State :=
  if v.getLsbD 63 && !(s.queue q).en then startQueue s q
  else if !v.getLsbD 63 && (s.queue q).en then
    (if (s.queue q).wait == .drain then s.modQueue q fun x => { x with en := false, closing := true } else closeQueue s q)
  else s

/-- A stopped queue as RUN restarts it (11 R251). -/
def restarted (x : Queue) : Queue :=
  { x with code := 0, level := 0, lost := false, epos := 0, stop := false, run := true, slots := none, levels := [ringLevel], ahead := [],
           wait := .none, packet := none, badWptr := none }

/-- What the RUN of a write of QCTL does: it restarts a stopped queue, and reads as set of any (11 R251). -/
def runStep (q : Nat) (run : Bool) (s : State) : State :=
  if run && (s.queue q).stop && (s.queue q).en then s.modQueue q restarted
  else if run then s.modQueue q fun x => { x with run := true }
  else s

section
variable {s : State} {q : Nat} {v : Dword} {y : Queue}

/-- A queue that is started stands at position 0 with nothing of what it did before (11 R236), where no overrun is still to be noted. -/
theorem queueBecomes_startQueue (h : ¬ Overruns s (s.queue q)) : QueueBecomes s (startQueue s q) q { s.queue q with
    en := true, closing := false, stop := false, run := false, rptr := 0, wptr := 0, code := 0, level := 0, lost := false, epos := 0, used := 0,
    slots := none, levels := [ringLevel], ahead := [], wait := .none, packet := none, badWptr := none, throt := false, rights := 0,
    periodStart := s.time, periodIdx := 0 } := by
  unfold startQueue
  rw [overrun_of_not_overruns h]
  exact queueBecomes_modQueue (s.modPart _ _) q _

theorem queueBecomes_restart {run : Bool} (hr : run = true) (hs : (s.queue q).stop = true) (he : (s.queue q).en = true) :
    QueueBecomes s (runStep q run s) q (restarted (s.queue q)) := by
  rw [runStep, if_pos (by simp [hr, hs, he])]
  exact queueBecomes_modQueue s q _

theorem queueBecomes_run {run : Bool} (h : run = false ∨ (s.queue q).stop = false ∨ (s.queue q).en = false) :
    QueueBecomes s (runStep q run s) q { s.queue q with run := (s.queue q).run || run } := by
  rw [runStep, if_neg (by obtain h | h | h := h <;> simp [h])]
  cases run
  · simpa using queueBecomes_refl s q
  · simpa using queueBecomes_modQueue s q fun x => { x with run := true }

/-- What a write of QCTL leads to before its HALT. -/
def afterRun (q : Nat) (v : Dword) (s : State) : State := runStep q (v.getLsbD 61) (enStep q v (s.modQueue q (written v)))

theorem qctlWrite_eq (q : Nat) (v : Dword) (s : State) : qctlWrite q v s =
    if v.getLsbD 60 then atBoundary ((afterRun q v s).modQueue q fun x => { x with haltReq := true }) q else afterRun q v s := by
  have hen : ((s.modQueue q (written v)).queue q).en = (s.queue q).en := by simp [written]
  have hwait : ((s.modQueue q (written v)).queue q).wait = (s.queue q).wait := by simp [written]
  simp only [afterRun, enStep, hen, hwait]
  rfl

section
variable (hy : QueueBecomes (s.modQueue q (written v)) (enStep q v (s.modQueue q (written v))) q y)
include hy

theorem queueBecomes_afterRun (h : v.getLsbD 61 = false ∨ y.stop = false ∨ y.en = false) :
    QueueBecomes s (afterRun q v s) q { y with run := y.run || v.getLsbD 61 } := by
  obtain rfl := hy.1
  exact (queueBecomes_modQueue s q _).trans (hy.trans (queueBecomes_run h))

theorem queueBecomes_afterRun_restart (hv : v.getLsbD 61 = true) (hs : y.stop = true) (he : y.en = true) :
    QueueBecomes s (afterRun q v s) q (restarted y) := by
  obtain rfl := hy.1
  exact (queueBecomes_modQueue s q _).trans (hy.trans (queueBecomes_restart hv hs he))

end

section
variable (hy : QueueBecomes s (afterRun q v s) q y)
include hy

theorem queueBecomes_quiet (hv : v.getLsbD 60 = false) : QueueBecomes s (qctlWrite q v s) q y := by
  rwa [qctlWrite_eq, if_neg (by rw [hv]; decide)]

theorem queueBecomes_halt (hv : v.getLsbD 60 = true) :
    ∃ t, QueueBecomes s t q { y with haltReq := true } ∧ qctlWrite q v s = atBoundary t q := by
  obtain rfl := hy.1
  exact ⟨_, hy.modQueue fun x => { x with haltReq := true }, by rw [qctlWrite_eq, if_pos hv]⟩

/-- HALT of a queue that stands at no boundary is kept (11 R248). -/
theorem queueBecomes_halt_kept (hv : v.getLsbD 60 = true) (h : y.wait = .drain ∨ (y.closing = false ∧ (y.en = false ∨ y.stop = true))) :
    QueueBecomes s (qctlWrite q v s) q { y with haltReq := true } := by
  obtain ⟨t, ht, hq⟩ := queueBecomes_halt hy hv
  have hb : boundary t q = none := by
    obtain hdrain | ⟨hclosing, hoff⟩ := h
    · exact boundary_drain (by rw [ht.1, hdrain])
    · exact boundary_off (by rw [ht.1, hclosing]) (by rwa [ht.1])
  rwa [hq, atBoundary, hb, Option.getD_none]

/-- HALT of a queue that runs and waits for no FFENCE stops it (11 R248). -/
theorem queueBecomes_halt_stops (hv : v.getLsbD 60 = true) (hw : y.wait ≠ .drain) (hc : y.closing = false) (he : y.en = true) (hs : y.stop = false)
    (hb : y.badWptr = none) : QueueBecomes s (qctlWrite q v s) q
      { y with haltReq := false, stop := true, run := false, slots := none, wait := .none, packet := none } := by
  obtain ⟨t, ht, hq⟩ := queueBecomes_halt hy hv
  rw [hq, atBoundary, boundary_halt (by rwa [ht.1]) (by rwa [ht.1]) (by rwa [ht.1]) (by rwa [ht.1]) (by rwa [ht.1]) (by rw [ht.1]), Option.getD_some]
  exact ht.modQueue _

end

/-! The effects of EN, once the fields are set. -/

theorem enStep_start (hv : v.getLsbD 63 = true) (he : (s.queue q).en = false) : enStep q v s = startQueue s q :=
  if_pos (by rw [hv, he]; rfl)

theorem enStep_clear (hv : v.getLsbD 63 = false) (he : (s.queue q).en = true) : enStep q v s =
    if (s.queue q).wait == .drain then s.modQueue q fun x => { x with en := false, closing := true } else closeQueue s q := by
  rw [enStep, hv, he]
  rfl

theorem enStep_same (h : v.getLsbD 63 = (s.queue q).en) : enStep q v s = s := by
  rw [enStep, h, Bool.and_not_self, Bool.not_and_self]
  rfl

theorem queueBecomes_en_start (hv : v.getLsbD 63 = true) (he : (s.queue q).en = false) (ho : ¬ Overruns s (s.queue q)) :
    QueueBecomes (s.modQueue q (written v)) (enStep q v (s.modQueue q (written v))) q { written v (s.queue q) with
      en := true, closing := false, stop := false, run := false, rptr := 0, wptr := 0, code := 0, level := 0, lost := false, epos := 0, used := 0,
      slots := none, levels := [ringLevel], ahead := [], wait := .none, packet := none, badWptr := none, throt := false, rights := 0,
      periodStart := s.time, periodIdx := 0 } := by
  rw [enStep_start hv (by simpa [written] using he)]
  simpa using queueBecomes_startQueue (s := s.modQueue q (written v)) (q := q) (by simpa [Overruns, written] using ho)

theorem queueBecomes_en_same (h : v.getLsbD 63 = (s.queue q).en) :
    QueueBecomes (s.modQueue q (written v)) (enStep q v (s.modQueue q (written v))) q (written v (s.queue q)) := by
  rw [enStep_same (by simpa [written] using h)]
  simpa using queueBecomes_refl (s.modQueue q (written v)) q

theorem queueBecomes_en_drain (hv : v.getLsbD 63 = false) (he : (s.queue q).en = true) (hw : (s.queue q).wait = .drain) :
    QueueBecomes (s.modQueue q (written v)) (enStep q v (s.modQueue q (written v))) q { written v (s.queue q) with en := false, closing := true } := by
  rw [enStep_clear hv (by simpa [written] using he), if_pos (by simpa [written] using hw)]
  simpa using queueBecomes_modQueue (s.modQueue q (written v)) q fun x => { x with en := false, closing := true }

theorem queueBecomes_en_close (hv : v.getLsbD 63 = false) (he : (s.queue q).en = true) (hw : (s.queue q).wait ≠ .drain) :
    ∃ b o, QueueBecomes (s.modQueue q (written v)) (enStep q v (s.modQueue q (written v))) q { written v (s.queue q) with
        en := false, closing := false, haltReq := false, slots := none, wait := .none, packet := none, levels := [], ahead := [], badWptr := none,
        throt := b, ovrf := o } ∧
      OverrunNoted s (s.queue q) b o := by
  rw [enStep_clear hv (by simpa [written] using he), if_neg (by simpa [written] using hw)]
  simpa [OverrunNoted, Overruns, written] using queueBecomes_closeQueue (s.modQueue q (written v)) q

/-! The rows of QCTL. -/

/-- An instruction changes of the queues q only, which becomes z. -/
def Sets (s : State) (q : Nat) (i : Instr) (z : Queue) : Prop := ∃ t, exec i s = .next t ∧ QueueBecomes s t q z

theorem sets_enable (hv : v.getLsbD 63 = true) (he : (s.queue q).en = false) (hquiet : v.getLsbD 60 = false) (ho : ¬ Overruns s (s.queue q)) :
    Sets s q (.queueEnable q v) { s.queue q with
      nonce := v.extractLsb' 0 48, owner := v.extractLsb' 48 6, evr := v.extractLsb' 57 3, en := true, closing := false, stop := false,
      run := v.getLsbD 61, rptr := 0, wptr := 0, code := 0, level := 0, lost := false, epos := 0, used := 0, slots := none, levels := [ringLevel],
      ahead := [], wait := .none, packet := none, badWptr := none, throt := false, rights := 0, periodStart := s.time, periodIdx := 0 } := by
  refine ⟨qctlWrite q v s, congrArg Host.Outcome.next (if_pos (by rw [hv, he]; rfl)), ?_⟩
  simpa [written, he] using queueBecomes_quiet (queueBecomes_afterRun (queueBecomes_en_start hv he ho) (.inr (.inl rfl))) hquiet

theorem sets_disable (hv : v.getLsbD 63 = false) (he : (s.queue q).en = true) (hw : (s.queue q).wait ≠ .drain) :
    ∃ b o, Sets s q (.queueDisable q v) { s.queue q with
        nonce := v.extractLsb' 0 48, run := (s.queue q).run || v.getLsbD 61, en := false, closing := false, haltReq := v.getLsbD 60, slots := none,
        wait := .none, packet := none, levels := [], ahead := [], badWptr := none, throt := b, ovrf := o } ∧
      OverrunNoted s (s.queue q) b o := by
  obtain ⟨b, o, hy, hdue⟩ := queueBecomes_en_close hv he hw
  refine ⟨b, o, ⟨qctlWrite q v s, congrArg Host.Outcome.next (if_pos (by rw [hv, he]; rfl)), ?_⟩, hdue⟩
  have hz := queueBecomes_afterRun hy (.inr (.inr rfl))
  cases hh : v.getLsbD 60
  · simpa [written, he] using queueBecomes_quiet hz hh
  · simpa [written, he] using queueBecomes_halt_kept hz hh (.inr ⟨rfl, .inl rfl⟩)

theorem sets_disable_drain (hv : v.getLsbD 63 = false) (he : (s.queue q).en = true) (hw : (s.queue q).wait = .drain) :
    Sets s q (.queueDisable q v) { s.queue q with
      nonce := v.extractLsb' 0 48, run := (s.queue q).run || v.getLsbD 61, en := false, closing := true,
      haltReq := (s.queue q).haltReq || v.getLsbD 60 } := by
  refine ⟨qctlWrite q v s, congrArg Host.Outcome.next (if_pos (by rw [hv, he]; rfl)), ?_⟩
  have hz := queueBecomes_afterRun (queueBecomes_en_drain hv he hw) (.inr (.inr rfl))
  cases hh : v.getLsbD 60
  · simpa [written, he] using queueBecomes_quiet hz hh
  · simpa [written, he] using queueBecomes_halt_kept hz hh (.inl hw)

theorem sets_run (hv : v.getLsbD 63 = true) (hr : v.getLsbD 61 = true) (hquiet : v.getLsbD 60 = false) (he : (s.queue q).en = true)
    (hs : (s.queue q).stop = true) : Sets s q (.queueRun q v) { s.queue q with
      nonce := v.extractLsb' 0 48, code := 0, level := 0, lost := false, epos := 0, stop := false, run := true, slots := none, levels := [ringLevel],
      ahead := [], wait := .none, packet := none, badWptr := none } := by
  refine ⟨qctlWrite q v s, congrArg Host.Outcome.next (if_pos (by rw [hr, hs]; rfl)), ?_⟩
  simpa [written, restarted, he] using
    queueBecomes_quiet (queueBecomes_afterRun_restart (queueBecomes_en_same (hv.trans he.symm)) hr hs he) hquiet

theorem sets_halt (hv : v.getLsbD 63 = true) (hh : v.getLsbD 60 = true) (he : (s.queue q).en = true) (hc : (s.queue q).closing = false)
    (hs : (s.queue q).stop = false) (hb : (s.queue q).badWptr = none) : Sets s q (.queueHalt q v) (if (s.queue q).wait = .drain then
      { s.queue q with nonce := v.extractLsb' 0 48, run := (s.queue q).run || v.getLsbD 61, haltReq := true } else
      { s.queue q with nonce := v.extractLsb' 0 48, haltReq := false, stop := true, run := false, slots := none, wait := .none, packet := none }) := by
  refine ⟨qctlWrite q v s, congrArg Host.Outcome.next (if_pos hh), ?_⟩
  have hz := queueBecomes_afterRun (queueBecomes_en_same (hv.trans he.symm)) (.inr (.inl hs))
  split
  · next hw => simpa [written, he] using queueBecomes_halt_kept hz hh (.inl hw)
  · next hw => simpa [written, he] using queueBecomes_halt_stops hz hh hw hc he hs hb

/-- HALT of a queue that does not run is kept until it does (11 R248, log 53). -/
theorem sets_halt_off (hh : v.getLsbD 60 = true) (hr : v.getLsbD 61 = false) (hv : v.getLsbD 63 = (s.queue q).en)
    (hc : (s.queue q).closing = false) (hoff : (s.queue q).en = false ∨ (s.queue q).stop = true) : Sets s q (.queueHalt q v) { s.queue q with
      nonce := v.extractLsb' 0 48, owner := if (s.queue q).en = true then (s.queue q).owner else v.extractLsb' 48 6,
      evr := if (s.queue q).en = true then (s.queue q).evr else v.extractLsb' 57 3, haltReq := true } := by
  refine ⟨qctlWrite q v s, congrArg Host.Outcome.next (if_pos hh), ?_⟩
  have hz := queueBecomes_afterRun (queueBecomes_en_same hv) (.inl hr)
  simpa only [written, hr, Bool.or_false] using queueBecomes_halt_kept hz hh (.inr ⟨hc, hoff⟩)

/-- A write of QCTL is the row of what it asks for; of another row it is none. -/
theorem exec_queueEnable_other (h : v.getLsbD 63 = false ∨ (s.queue q).en = true) : exec (.queueEnable q v) s = .next s :=
  congrArg Host.Outcome.next (if_neg (by obtain h | h := h <;> rw [h] <;> simp))

theorem exec_queueDisable_other (h : v.getLsbD 63 = true ∨ (s.queue q).en = false) : exec (.queueDisable q v) s = .next s :=
  congrArg Host.Outcome.next (if_neg (by obtain h | h := h <;> rw [h] <;> simp))

theorem exec_queueRun_other (h : v.getLsbD 61 = false ∨ (s.queue q).stop = false) : exec (.queueRun q v) s = .next s :=
  congrArg Host.Outcome.next (if_neg (by obtain h | h := h <;> rw [h] <;> simp))

theorem exec_queueHalt_other (h : v.getLsbD 60 = false) : exec (.queueHalt q v) s = .next s :=
  congrArg Host.Outcome.next (if_neg (by rw [h]; decide))

end

/-! Wakes (11 R239, R240). -/

section
variable {s : State} {w : WakeMsg}

/-- The form of a wake: one write of 64 bytes whose reserved bytes are zero, and whose numbers are in range (11 Table 5). -/
def wakeFormed (w : WakeMsg) : Bool :=
  w.whole && w.data.length == 64 && (w.data.drop 40).all (· == 0) && decide (byteAt w.data 8 < 8) && decide (byteAt w.data 9 < 64) &&
    decide (byteAt w.data 10 < 128) && byteAt w.data 11 == 0 && leField w.data 18 6 == 0

/-- The coin of a wake is that of its queue (11 R238). -/
def coinTrue (s : State) (w : WakeMsg) : Bool :=
  (s.queue w.q).en && byteAt w.data 10 == w.q && leField w.data 0 8 == (qbaseOf (s.queue w.q)).toNat &&
    byteAt w.data 9 == (s.queue w.q).owner.toNat && leField w.data 12 6 == (s.queue w.q).nonce.toNat

/-- The QWPTR that a wake asks for. -/
def wakeWptr (w : WakeMsg) : Dword := BitVec.ofNat 64 (leField w.data 32 8)

theorem wakeFormed_iff : wakeFormed w = true ↔ w.whole = true ∧ w.data.length = 64 ∧ (∀ b ∈ w.data.drop 40, b = 0#8) ∧ byteAt w.data 8 < 8 ∧
    byteAt w.data 9 < 64 ∧ byteAt w.data 10 < 128 ∧ byteAt w.data 11 = 0 ∧ leField w.data 18 6 = 0 := by
  simp [wakeFormed, and_assoc]

theorem coinTrue_iff : coinTrue s w = true ↔ (s.queue w.q).en = true ∧ byteAt w.data 10 = w.q ∧
    leField w.data 0 8 = (qbaseOf (s.queue w.q)).toNat ∧ byteAt w.data 9 = (s.queue w.q).owner.toNat ∧
    leField w.data 12 6 = (s.queue w.q).nonce.toNat := by
  simp [coinTrue, and_assoc]

/-- What a wake with a true coin and the right to wake leads to: a QWPTR beyond the ring stops a queue that runs, at its next boundary. -/
def wakeTaken (s : State) (w : WakeMsg) : Host.Outcome State Fault Refusal :=
  if 2 ^ (s.queue w.q).logw.toNat < (wakeWptr w - (s.queue w.q).rptr).toNat then
    .next (if (s.queue w.q).stop then s else atBoundary (s.modQueue w.q fun y => { y with badWptr := some (y.badWptr.getD (wakeWptr w)) }) w.q)
  else
    let ahead := (wakeWptr w - (s.queue w.q).wptr).toNat
    .next (s.modQueue w.q fun y =>
      { y with rights := BitVec.ofNat 8 (byteAt w.data 8), wptr := if 1 ≤ ahead ∧ ahead < 2 ^ 63 then wakeWptr w else y.wptr })

/-- The checks of a wake, in their order. -/
theorem exec_wake (s : State) (w : WakeMsg) : exec (.wake w) s =
    if !wakeFormed w then .next (rejectWake s w.q 1)
    else if leField w.data 24 8 ≠ (sealOf s (w.data.take 24)).toNat then .next (rejectWake s w.q 2)
    else if !coinTrue s w then .next (rejectWake s w.q 3)
    else if byteAt w.data 8 % 2 = 0 then .next (rejectWake s w.q 4)
    else wakeTaken s w := rfl

theorem saturating_count (c : Word) : (if c = 0xFFFFFFFF#32 then c else c + 1) = BitVec.ofNat 32 (min (c.toNat + 1) (2 ^ 32 - 1)) := by
  split <;> bv_omega

theorem oneQueue_rejectWake (s : State) (q : Nat) (n : BitVec 4) : OneQueue s (rejectWake s q n) q { s.queue q with
    why := n, rejCount := BitVec.ofNat 32 (min ((s.queue q).rejCount.toNat + 1) (2 ^ 32 - 1)) } := by
  rw [← saturating_count]
  exact oneQueue_modQueue s q _

theorem exec_wake_unformed (h : wakeFormed w = false) : exec (.wake w) s = .next (rejectWake s w.q 1) := by
  simp [exec_wake, h]

section
variable (hform : wakeFormed w = true) (hseal : leField w.data 24 8 = (sealOf s (w.data.take 24)).toNat)
include hform

theorem exec_wake_unsealed (h : leField w.data 24 8 ≠ (sealOf s (w.data.take 24)).toNat) : exec (.wake w) s = .next (rejectWake s w.q 2) := by
  simp [exec_wake, hform, h]

include hseal

theorem exec_wake_false_coin (h : coinTrue s w = false) : exec (.wake w) s = .next (rejectWake s w.q 3) := by
  simp [exec_wake, hform, hseal, h]

variable (hcoin : coinTrue s w = true)
include hcoin

theorem exec_wake_no_right (h : byteAt w.data 8 % 2 = 0) : exec (.wake w) s = .next (rejectWake s w.q 4) := by
  simp [exec_wake, hform, hseal, hcoin, h]

variable (hright : byteAt w.data 8 % 2 = 1)
include hright

theorem exec_wake_taken : exec (.wake w) s = wakeTaken s w := by
  simp [exec_wake, hform, hseal, hcoin, hright]

end

/-- A true coin moves QWPTR forward within the ring (11 R240). -/
theorem wakeTaken_moves (h : (wakeWptr w - (s.queue w.q).rptr).toNat ≤ 2 ^ (s.queue w.q).logw.toNat) : ∃ t, wakeTaken s w = .next t ∧
    OneQueue s t w.q { s.queue w.q with
      rights := BitVec.ofNat 8 (byteAt w.data 8),
      wptr := if 1 ≤ (wakeWptr w - (s.queue w.q).wptr).toNat ∧ (wakeWptr w - (s.queue w.q).wptr).toNat < 2 ^ 63 then wakeWptr w
        else (s.queue w.q).wptr } :=
  ⟨_, if_neg (Nat.not_lt.2 h), oneQueue_modQueue s w.q _⟩

theorem wakeTaken_far_stopped (hfar : 2 ^ (s.queue w.q).logw.toNat < (wakeWptr w - (s.queue w.q).rptr).toNat) (h : (s.queue w.q).stop = true) :
    wakeTaken s w = .next s := by
  rw [wakeTaken, if_pos hfar, if_pos h]

theorem wakeTaken_far (hfar : 2 ^ (s.queue w.q).logw.toNat < (wakeWptr w - (s.queue w.q).rptr).toNat) (he : (s.queue w.q).en = true)
    (hs : (s.queue w.q).stop = false) (hb : (s.queue w.q).badWptr = none) (hw : (s.queue w.q).wait ≠ .drain) (hc : (s.queue w.q).closing = false) :
    ∃ t, wakeTaken s w = .next t ∧ (t.queue w.q).stop = true ∧ (t.queue w.q).code = 0x0B ∧ (t.queue w.q).epos = (s.queue w.q).rptr := by
  refine ⟨_, if_pos hfar, ?_⟩
  rw [hs, if_neg Bool.false_ne_true, atBoundary, boundary_badWptr (w := wakeWptr w) (by simpa using hw) (by simpa using hc) (by simpa using he)
    (by simpa using hs) (by simp [hb]), Option.getD_some, queue_modQueue_same]
  exact queueErrorAt_stops (by simpa using hs) _ _ _ _

end

/-! Periods (13 R303, R304). -/

section
variable {s : State} {q : Nat}

/-- The period of a thread is at its end. -/
def PeriodEnds (s : State) (x : Queue) : Prop :=
  s.edf = true ∧ (x.en = true ∨ x.closing = true) ∧ x.period ≠ 0 ∧ x.periodStart + x.period.toNat * 1000 ≤ s.time

theorem periodDue_iff {x : Queue} : periodDue s x = true ↔ PeriodEnds s x := by
  simp [periodDue, PeriodEnds, and_assoc]

theorem exec_qpPeriodStart (h : PeriodEnds s (s.queue q)) : exec (.qpPeriodStart q) s = .next ((overrun s q).modQueue q fun x =>
    { x with periodStart := x.periodStart + x.period.toNat * 1000, periodIdx := x.periodIdx + 1, used := 0, throt := false }) :=
  congrArg Host.Outcome.next (if_pos (periodDue_iff.2 h))

theorem exec_qpPeriodStart_early (h : ¬ PeriodEnds s (s.queue q)) : exec (.qpPeriodStart q) s = .next s :=
  congrArg Host.Outcome.next (if_neg (mt periodDue_iff.1 h))

theorem exec_qpOverrun (s : State) (q : Nat) : exec (.qpOverrun q) s = .next (overrun s q) := rfl

/-- An overrun is THROT and OVRF of its queue and an event record (13 R304). -/
theorem overrun_records (h : Overruns s (s.queue q)) : ∃ s1, OneQueue s s1 q { s.queue q with throt := true, ovrf := true } ∧
    overrun s q = ringWrite s1 (s.queue q).evr.toNat 3 q 0x14 0 (s.queue q).rptr.toNat (s.queue q).periodIdx :=
  ⟨_, oneQueue_modQueue s q _, overrun_of_overruns h⟩

end

end Sys2Proof.Proofs.CommandQueues
end

section
/-! SUPPORT. Which thread a queue processor picks, and the turn of a queue (11 R235, R242 to R251, 13 R303). -/
namespace Sys2Proof.Proofs.QueueTurns
open Sys2Proof Sys2Proof.Machine Sys2Proof.Laws Sys2Proof.Proofs.CommandQueues

/-! Picks. -/

/-- Another thread of the processor of thread q that could take an issue slot now. -/
def Rival (s : State) (q : Nat) (e : Nat × Queue) : Prop := e ∈ s.queues ∧ e.1 / 32 = q / 32 ∧ e.1 ≠ q ∧ threadReady s e.1 = true

/-- A thread that has budget left in its period. -/
def HasBudget (x : Queue) : Prop := x.throt = false ∧ x.used < x.budget.toNat * 256

/-- A thread with a period, and with budget left in it. -/
def Timed (x : Queue) : Prop := x.period ≠ 0 ∧ HasBudget x

/-- The place of thread k in the round of the processor of thread q. -/
def placeIn (s : State) (q k : Nat) : Nat := (k % 32 + 63 - (tabGet s.qserved (q / 32)).getD 31) % 32

/-- The threads among which the processor of thread q picks, beside q. -/
def rivals (s : State) (q : Nat) : List (Nat × Queue) := s.queues.filter fun e => e.1 / 32 == q / 32 && e.1 != q && threadReady s e.1

section
variable {s : State} {q : Nat}

theorem mem_rivals {e : Nat × Queue} : e ∈ rivals s q ↔ Rival s q e := by
  simp [rivals, Rival, and_assoc]

theorem hasBudget_iff {x : Queue} : (!x.throt && !spent x) = true ↔ HasBudget x := by
  simp [HasBudget, spent]

theorem timed_iff {x : Queue} : (x.period != 0 && !x.throt && !spent x) = true ↔ Timed x := by
  rw [Bool.and_assoc, Bool.and_eq_true, hasBudget_iff, bne_iff_ne, Timed]

theorem dueBefore_iff {a b : Nat × Queue} : dueBefore a b = true ↔
    a.2.periodStart + a.2.period.toNat * 1000 < b.2.periodStart + b.2.period.toNat * 1000 ∨
      (a.2.periodStart + a.2.period.toNat * 1000 = b.2.periodStart + b.2.period.toNat * 1000 ∧ a.1 < b.1) := by
  simp [dueBefore]

theorem roundPlace_rival {e : Nat × Queue} (h : Rival s q e) : roundPlace s e.1 = placeIn s q e.1 := by
  obtain ⟨-, hproc, -⟩ := h
  rw [roundPlace, hproc, placeIn]

/-- A thread comes first in the round among some of its rivals. -/
theorem first_iff {l : List (Nat × Queue)} (hl : ∀ e ∈ l, Rival s q e) : l.all (fun e => decide (roundPlace s q < roundPlace s e.1)) = true ↔
    ∀ e ∈ l, placeIn s q q < placeIn s q e.1 := by
  simp only [List.all_eq_true, decide_eq_true_eq]
  exact forall₂_congr fun e he => by rw [roundPlace_rival (hl e he)]; rfl

/-- While EDF is clear the next thread in the round is picked (11 R235). -/
theorem mayPick_round (h : s.edf = false) : mayPick s q = true ↔ ∀ e, Rival s q e → placeIn s q q < placeIn s q e.1 := by
  have hm : mayPick s q = (rivals s q).all fun e => decide (roundPlace s q < roundPlace s e.1) := by
    rw [mayPick, h]
    rfl
  rw [hm, first_iff fun e => mem_rivals.1]
  simp only [mem_rivals]

/-- A thread without a period waits for those with one, and takes its place in the round of the others (13 R303). -/
theorem mayPick_without_period (h : s.edf = true) (hp : (s.queue q).period = 0) :
    mayPick s q = true ↔ ∀ e, Rival s q e → ¬ Timed e.2 ∧ (e.2.period = 0 → placeIn s q q < placeIn s q e.1) := by
  have hm : mayPick s q = (((rivals s q).filter fun e => e.2.period != 0 && !e.2.throt && !spent e.2).isEmpty &&
      ((rivals s q).filter fun e => e.2.period == 0).all fun e => decide (roundPlace s q < roundPlace s e.1)) := by
    rw [mayPick, h]
    exact if_pos hp
  rw [hm, Bool.and_eq_true, first_iff fun e he => mem_rivals.1 (List.mem_filter.1 he).1, List.isEmpty_iff, List.filter_eq_nil_iff, ← forall_and]
  simp only [List.mem_filter, and_imp, mem_rivals, timed_iff, beq_iff_eq, ← imp_and]

/-- Of the threads with a period and budget the one whose deadline comes first is picked (13 R303). -/
theorem mayPick_with_period (h : s.edf = true) (hp : (s.queue q).period ≠ 0) : mayPick s q = true ↔ HasBudget (s.queue q) ∧
    ∀ e, Rival s q e → Timed e.2 →
      (s.queue q).periodStart + (s.queue q).period.toNat * 1000 < e.2.periodStart + e.2.period.toNat * 1000 ∨
      ((s.queue q).periodStart + (s.queue q).period.toNat * 1000 = e.2.periodStart + e.2.period.toNat * 1000 ∧ q < e.1) := by
  have hm : mayPick s q = (!(s.queue q).throt && !spent (s.queue q) &&
      ((rivals s q).filter fun e => e.2.period != 0 && !e.2.throt && !spent e.2).all fun e => dueBefore (q, s.queue q) e) := by
    rw [mayPick, h]
    exact if_neg hp
  rw [hm, Bool.and_eq_true, hasBudget_iff, List.all_eq_true]
  simp only [List.mem_filter, mem_rivals, timed_iff, and_imp, dueBefore_iff]

end

/-! The turn of a queue. -/

/-- What an act comes to, carried out. -/
theorem step_run {s t : State} {i : Instr} (h : nextAct s = .run i t) : step s = exec i t := by
  rw [step, h]

theorem step_done {s t : State} (h : nextAct s = .done t) : step s = .next t := by
  rw [step, h]

/-- A queue's turn at the head of the agenda, where no group is inside a sequence of prefixes (02 R34). -/
theorem nextAct_queue {s : State} {q : Nat} {r : List Turn} (hreset : s.inReset = false)
    (hpre : ∀ x, s.group? s.cur = some x → ¬ (x.preStart.isSome = true ∧ x.wait = .none ∧ x.idle = false)) (hturn : s.agenda = .queue q :: r) :
    nextAct s = queueAct { s with agenda := r, turns := s.turns + 1 } q := by
  have hmid : midSequence s = none := by
    unfold midSequence
    split
    · next g hg => exact if_neg (by simpa [and_assoc] using hpre g hg)
    · rfl
  simp only [nextAct, hreset, hmid, takeTurn, hturn, Bool.false_eq_true, if_false, turnAct]

/-- A thread that runs, or that closes behind its FFENCE. -/
def Running (x : Queue) : Prop := x.closing = true ∨ (x.en = true ∧ x.stop = false)

/-- The state in which a queue takes its turn: RUN no longer reads as set (log 53). -/
def turnState (s : State) (q : Nat) : State := s.modQueue q fun x => { x with run := false }

section
variable {s : State} {q : Nat}

theorem queue_turnState (s : State) (q : Nat) : (turnState s q).queue q = { s.queue q with run := false } := queue_modQueue_same s q _

theorem queueAct_off (h : ¬ Running (s.queue q)) : queueAct s q = .done s := by
  obtain ⟨hc, hrun⟩ := not_or.1 h
  refine if_pos ?_
  cases he : (s.queue q).en
  · simp [hc]
  · simp [hc, show (s.queue q).stop = true by simpa [he] using hrun]

section
variable (h : Running (s.queue q))
include h

/-- The turn of a thread that runs, by what it finds. -/
theorem queueAct_on : queueAct s q =
    match boundary (turnState s q) q, (s.queue q).wait, periodFirst (turnState s q) q with
    | some s1, _, _ => .done s1
    | none, .cond _, _ => .run (if waitExpired (turnState s q) q then .waitTimeout q else .waitReevaluate q)
        { turnState s q with curQueue := q, fresh := (turnState s q).fresh + 1 }
    | none, _, some r => .run (.qpPeriodStart r) (turnState s q)
    | none, _, none =>
      if !(threadReady (turnState s q) q && mayPick (turnState s q) q) then .done (turnState s q)
      else if (issueSlot (turnState s q) q).2 then packetAct (issueSlot (turnState s q) q).1 q else .done (issueSlot (turnState s q) q).1 :=
  if_neg (by obtain hc | ⟨he, hs⟩ := h <;> simp [*])

theorem queueAct_boundary {t : State} (hb : boundary (turnState s q) q = some t) : queueAct s q = .done t := by
  rw [queueAct_on h, hb]

variable (hb : boundary (turnState s q) q = none)
include hb

theorem queueAct_cond {z : Option Nat} (hw : (s.queue q).wait = .cond z) : queueAct s q =
    .run (if waitExpired (turnState s q) q then .waitTimeout q else .waitReevaluate q)
      { turnState s q with curQueue := q, fresh := (turnState s q).fresh + 1 } := by
  rw [queueAct_on h, hb, hw]

variable (hw : ∀ z, (s.queue q).wait ≠ .cond z)
include hw

theorem queueAct_free : queueAct s q =
    match periodFirst (turnState s q) q with
    | some r => .run (.qpPeriodStart r) (turnState s q)
    | none =>
      if !(threadReady (turnState s q) q && mayPick (turnState s q) q) then .done (turnState s q)
      else if (issueSlot (turnState s q) q).2 then packetAct (issueSlot (turnState s q) q).1 q else .done (issueSlot (turnState s q) q).1 := by
  rw [queueAct_on h, hb]
  cases hc : (s.queue q).wait with
  | cond z => exact absurd hc (hw z)
  | _ => cases periodFirst (turnState s q) q <;> rfl

theorem queueAct_period {k : Nat} (hk : periodFirst (turnState s q) q = some k) : queueAct s q = .run (.qpPeriodStart k) (turnState s q) := by
  rw [queueAct_free h hb hw, hk]

variable (hk : periodFirst (turnState s q) q = none)
include hk

theorem queueAct_unpicked (hp : ¬ (threadReady (turnState s q) q = true ∧ mayPick (turnState s q) q = true)) :
    queueAct s q = .done (turnState s q) := by
  rw [queueAct_free h hb hw, hk]
  exact if_pos (by rwa [Bool.not_eq_true', ← Bool.not_eq_true, Bool.and_eq_true])

theorem queueAct_slot (hr : threadReady (turnState s q) q = true) (hp : mayPick (turnState s q) q = true) : queueAct s q =
    if (issueSlot (turnState s q) q).2 then packetAct (issueSlot (turnState s q) q).1 q else .done (issueSlot (turnState s q) q).1 := by
  rw [queueAct_free h hb hw, hk]
  exact if_neg (by rw [hr, hp]; decide)

end

theorem waitExpired_cond {z : Option Nat} (hw : (s.queue q).wait = .cond z) : waitExpired s q = z.any fun n => decide (n ≤ s.time) := by
  cases z <;> simp [waitExpired, hw]

/-! What comes of a turn: a period that begins, or an issue slot. -/

/-- A thread of the processor of thread q whose period is at its end. -/
def Ended (s : State) (q k : Nat) : Prop := ∃ x, (k, x) ∈ s.queues ∧ k / 32 = q / 32 ∧ PeriodEnds s x

theorem periodFirst_of_ended (h : ∃ k, Ended s q k) : ∃ k, Ended s q k ∧ periodFirst s q = some k := by
  obtain ⟨k, x, hmem, hproc, hdue⟩ := h
  have hsome : (s.queues.find? fun e => e.1 / 32 == q / 32 && periodDue s e.2).isSome := by
    rw [List.find?_isSome]
    exact ⟨_, hmem, by simp [hproc, periodDue_iff.2 hdue]⟩
  obtain ⟨e, he⟩ := Option.isSome_iff_exists.1 hsome
  have hfound := List.find?_some he
  simp only [Bool.and_eq_true, beq_iff_eq, periodDue_iff] at hfound
  exact ⟨e.1, ⟨e.2, List.mem_of_find?_eq_some he, hfound⟩, congrArg (Option.map Prod.fst) he⟩

theorem periodFirst_of_none (h : ∀ k, ¬ Ended s q k) : periodFirst s q = none := by
  rw [periodFirst, Option.map_eq_none_iff, List.find?_eq_none]
  intro e he hdue
  simp only [Bool.and_eq_true, beq_iff_eq, periodDue_iff] at hdue
  exact h e.1 ⟨e.2, he, hdue⟩

/-- The issue slots that the packet at hand still takes before its last (log 21). -/
def slotsLeft (s : State) (q : Nat) : Nat := (s.queue q).slots.getD (Config.packetSlots s.fresh)

/-- An issue slot is taken: of the budget, of the packet's, and in the round where the round picked the thread. -/
def slotTaken (s : State) (q : Nat) : State :=
  { s with
    curQueue := q, fresh := s.fresh + 1,
    queues := tabSet s.queues q { s.queue q with
      used := (s.queue q).used + 1, slots := if slotsLeft s q = 0 then none else some (slotsLeft s q - 1) },
    qserved := if s.edf = false ∨ (s.queue q).period = 0 then tabSet s.qserved (q / 32) (q % 32) else s.qserved }

theorem issueSlot_eq (s : State) (q : Nat) : issueSlot s q = (overrun (slotTaken s q) q, slotsLeft s q == 0) := by
  have hround : (!s.edf || (s.queue q).period == 0) = true ↔ s.edf = false ∨ (s.queue q).period = 0 := by simp
  simp only [issueSlot, hround]
  rfl

/-- An issue slot leaves what its thread waits for and the packet that waits. -/
theorem issueSlot_keeps (s : State) (q : Nat) :
    ((issueSlot s q).1.queue q).wait = (s.queue q).wait ∧ ((issueSlot s q).1.queue q).packet = (s.queue q).packet := by
  obtain ⟨b, o, hover, -⟩ := queueBecomes_overrun (slotTaken s q) q
  have hslot : (slotTaken s q).queue q = { s.queue q with
      used := (s.queue q).used + 1, slots := if slotsLeft s q = 0 then none else some (slotsLeft s q - 1) } := by
    simp [slotTaken, State.queue]
  rw [issueSlot_eq, hover.1, hslot]
  exact ⟨rfl, rfl⟩

theorem packetAct_next {p : Packet} (hw : (s.queue q).wait = .none) (hp : fetchPacket s q = some (.ok p)) :
    packetAct s q = .run (decodePacket p) s := by
  simp [packetAct, hw, hp]

theorem packetAct_unreadable {e : BitVec 8 × Nat} (hw : (s.queue q).wait = .none) (hp : fetchPacket s q = some (.error e)) :
    packetAct s q = .done (queueError s q e.1 e.2) := by
  simp [packetAct, hw, hp]

theorem packetAct_kept {p : Packet} (hw : (s.queue q).wait = .slot ∨ (s.queue q).wait = .drain ∨ (s.queue q).wait = .report)
    (hp : (s.queue q).packet = some p) : packetAct s q = .run (decodePacket p) s := by
  obtain hw | hw | hw := hw <;> simp [packetAct, hw, hp]

theorem packetAct_stream {id : Nat} (hw : (s.queue q).wait = .stream id) : packetAct s q = .run (.runopsComplete q) s := by
  simp [packetAct, hw]

end

/-! The statement. -/

/-- Settles O51: QCTL as fields, EN, RUN and HALT in that order; a wake by its checks in theirs; and a turn by what its thread finds. -/
theorem queuesAreWokenControlledAndMetered : Obligations.QueuesAreWokenControlledAndMetered := by
  intro s q v w y one
  refine ⟨?qctl, ?wakes, ?periods, ?picks, ?turns⟩
  case qctl =>
    intro nonce sets quiet ran due past
    refine ⟨sets_enable, sets_disable, sets_disable_drain, ?_, sets_halt, sets_halt_off, ?_, exec_queueEnable_other, exec_queueDisable_other,
      exec_queueRun_other, exec_queueHalt_other⟩
    · exact fun hv hr => sets_run hv hr
    · exact fun hh he hs hc hb hw => ⟨_, boundary_halt hw hc he hs hb hh, oneQueue_modQueue s q _⟩
  case wakes =>
    intro z l form sealed coin wptr ahead rejects
    have hform : wakeFormed w = true ↔ form := wakeFormed_iff
    have hcoin : coinTrue s w = true ↔ coin := coinTrue_iff
    simp only [← hform, ← hcoin, Bool.not_eq_true]
    refine ⟨fun hf => ⟨_, exec_wake_unformed hf, oneQueue_rejectWake s w.q 1⟩,
      fun hf hs => ⟨_, exec_wake_unsealed hf hs, oneQueue_rejectWake s w.q 2⟩,
      fun hf hs hc => ⟨_, exec_wake_false_coin hf hs hc, oneQueue_rejectWake s w.q 3⟩,
      fun hf hs hc hr => ⟨_, exec_wake_no_right hf hs hc hr, oneQueue_rejectWake s w.q 4⟩, ?_, ?_, ?_⟩
    all_goals intro hf hs hc hr hptr
    all_goals rw [exec_wake_taken hf hs hc hr]
    · exact wakeTaken_moves hptr
    · exact wakeTaken_far_stopped hptr
    · exact wakeTaken_far hptr (hcoin.1 hc).1
  case periods =>
    intro live due may overruns
    refine ⟨fun h => ⟨_, overrun s q, exec_qpPeriodStart h, overrun_records, overrun_of_not_overruns, oneQueue_modQueue _ q _⟩,
      exec_qpPeriodStart_early, fun h => ⟨_, exec_qpOverrun s q, overrun_records h⟩, fun h => ?_⟩
    rw [exec_qpOverrun, overrun_of_not_overruns h]
  case picks => exact ⟨mayPick_round, mayPick_without_period, mayPick_with_period⟩
  case turns =>
    intro r hreset hpre hturn u0 on u w ended goes n slot
    have hnext : nextAct s = queueAct u0 q := nextAct_queue hreset hpre hturn
    have hy : u0.queue q = y := rfl
    have hu : u = turnState u0 q := rfl
    have hq : u.queue q = { y with run := false } := queue_turnState u0 q
    have hw : w = { u with curQueue := q, fresh := u.fresh + 1 } := rfl
    have hended : ended = Ended u q := rfl
    have hon : on = Running y := rfl
    have hslots : slotsLeft u q = n := by rw [slotsLeft, hq]
    have hslot : issueSlot u q = (overrun slot q, n == 0) := by
      rw [issueSlot_eq, slotTaken, hslots, hq]
    have htime : u.time = s.time := rfl
    have hkeeps := issueSlot_keeps u q
    rw [hslot, hq] at hkeeps
    obtain ⟨hwait, hpacket⟩ := hkeeps
    -- from here on the states are known by these facts alone
    clear_value n slot ended on w u u0 y
    subst hw hended hon hy hu
    refine ⟨fun hc hw => ?_, fun h => step_done (hnext.trans (queueAct_off h)), fun h t hb => step_done (hnext.trans (queueAct_boundary h hb)),
      fun z hb h hw => ?_, ?_, ?_, ?_⟩
    · have hb := boundary_closing (s := turnState u0 q) (q := q) (by rwa [hq]) (by rwa [hq])
      obtain ⟨b, o, hclosed, -⟩ := queueBecomes_closeQueue (turnState u0 q) q
      refine ⟨_, step_done (hnext.trans (queueAct_boundary (.inl hc) hb)), ?_⟩
      rw [hclosed.1, hq]
    · rw [← htime, ← waitExpired_cond (by rwa [hq])]
      exact step_run (hnext.trans (queueAct_cond h hb hw))
    · rintro ⟨hb, h, hw⟩ hended
      obtain ⟨k, hk, hfirst⟩ := periodFirst_of_ended hended
      exact ⟨k, hk, step_run (hnext.trans (queueAct_period h hb hw hfirst))⟩
    · rintro ⟨hb, h, hw⟩ hended hpick
      exact step_done (hnext.trans (queueAct_unpicked h hb hw (periodFirst_of_none hended) hpick))
    · rintro ⟨hb, h, hw⟩ hended hready hpick
      have hact := hnext.trans (queueAct_slot h hb hw (periodFirst_of_none hended) hready hpick)
      rw [hslot] at hact
      refine ⟨overrun slot q, exec_qpOverrun slot q, fun hn => ?_, fun hn hw => ⟨fun p hp => ?_, fun c v he => ?_⟩, fun hn p hp hw => ?_,
        fun hn id hw => ?_⟩
      · exact step_done (hact.trans (if_neg (by simpa using hn)))
      all_goals rw [hn, if_pos (by rfl)] at hact
      · exact step_run (hact.trans (packetAct_next (hwait.trans hw) hp))
      · exact step_done (hact.trans (packetAct_unreadable (hwait.trans hw) he))
      · exact step_run (hact.trans (packetAct_kept (by rwa [hwait]) (hpacket.trans hp)))
      · exact step_run (hact.trans (packetAct_stream (hwait.trans hw)))

end Sys2Proof.Proofs.QueueTurns
end
